-- ==== Sys2Proof/Word.lean ====
section
/-! DEFINITION. The words of the machine and their plainest arithmetic. -/

namespace Sys2Proof

/-- A byte of memory. -/
abbrev Byte := BitVec 8

/-- A 32-bit word: an instruction word, an extension word, a 32-bit register. -/
abbrev Word := BitVec 32

/-- A 64-bit word: a general register of an engine, a 64-bit register, the value of a point. -/
abbrev DWord := BitVec 64

/-- A system address (R23: the address space is 40 bits wide). -/
abbrev Addr := BitVec 40

end Sys2Proof
end

