-- ==== Sys2Proof/Syntax.lean ====
section
/-! DEFINITION. The commands of the block: one constructor of `Instr` per row of spec/opcode_table.json, and the
instruction formats of the Zhevarn engines (Table 5.6). An event row's constructor carries what the event brings from
outside the block (a measured value, a received frame); what the block itself knows is in its state. -/

namespace Sys2Proof

/-- Format A (Table 5.6): d, a, b, type code, S and the function modifier FN. -/
structure FmtA where
  d : BitVec 4
  a : BitVec 4
  b : BitVec 4
  ty : BitVec 3
  sx : Bool
  fn : BitVec 8
  deriving DecidableEq, Repr

/-- Format I (Table 5.6): d, a and a 16-bit immediate. -/
structure FmtI where
  d : BitVec 4
  a : BitVec 4
  imm : BitVec 16
  deriving DecidableEq, Repr

/-- Format M (Table 5.6): d, S, type code and an unsigned byte offset. -/
structure FmtM where
  d : BitVec 4
  sx : Bool
  ty : BitVec 3
  off : BitVec 16
  deriving DecidableEq, Repr

/-- Format P (Table 5.6): d, a, X, M, two bits defined as 0, and the point number. -/
structure FmtP where
  d : BitVec 4
  a : BitVec 4
  x : Bool
  m : Bool
  z : BitVec 2
  id : BitVec 12
  deriving DecidableEq, Repr

/-- Format B (Table 5.6): condition, count register, and a signed offset in words. -/
structure FmtB where
  c : BitVec 4
  a : BitVec 4
  off : BitVec 16
  deriving DecidableEq, Repr

/-- The extension word of a register-base access (Table 6.2): bits [30:28], the base register and the offset. -/
structure RegBase where
  z : BitVec 3
  a : BitVec 4
  off : BitVec 24
  deriving DecidableEq, Repr

/-- The extension word of TMR (Table 6.9), but for KIND, which the row names. -/
structure TmrExt where
  phase : Bool
  z : BitVec 5
  off : BitVec 24
  deriving DecidableEq, Repr

/-- What a returned frame brings beside its sections: the eight AI codes, AI_A0 to AI_D1, the field supplies of slices A to D in
0.1 V, and the alignment errors of slices A to F in ns, signed. -/
structure FrameUp where
  ai : List (BitVec 16)
  volts : List (BitVec 16)
  align : List Word
  deriving DecidableEq, Repr

/-- How the write of a tally record ends (R292, R279): the flash write fails, or the sealer meets poison in the record's data. -/
structure SealEnd where
  failed : Bool
  poison : Bool
  deriving DecidableEq, Repr

/-- How a frame that the MAC sends ends: whether a fetch fell behind, and the egress buffers without room for the frame. -/
structure TxEnd where
  underrun : Bool
  full : BitVec 2
  deriving DecidableEq, Repr

/-- A cycle of a feeder: its frequency in mHz, and the fundamental of L1 in it in secondary µV rms. -/
structure CycleData where
  mHz : Word
  fund : Word
  deriving DecidableEq, Repr

/-- An engine, FBE0 to FBE3. -/
abbrev Eng := Fin 4

/-- A field slice, A to D. -/
abbrev FieldSlice := Fin 4

/-- Any slice, A to F. -/
abbrev AnySlice := Fin 6

/-- A metering feeder, E or F. -/
abbrev Feeder := Fin 2

/-- A harmonic group of a block (R256): phase, order, the group's voltage in µV and current in µA, and its active power in
µW, all at the secondary. -/
structure HarmGroup where
  phase : Fin 3
  order : BitVec 6
  volts : Word
  amps : Word
  power : Int
  deriving DecidableEq, Repr

/-- A classical CAN or CAN FD frame (R323, Table 13.3). -/
structure CanFrame where
  id : BitVec 29
  ide : Bool
  rtr : Bool
  fdf : Bool
  brs : Bool
  esi : Bool
  dlc : BitVec 4
  data : List Byte
  deriving DecidableEq, Repr

/-- What a mode-change message orders (Table 12.4, R435). -/
inductive ModeOrder where
  /-- A TSK_CTRL command. -/
  | command (cmd : BitVec 4)
  | clearFault
  /-- The start action that the supervisor keeps with the settings: TSK_CFG.START. -/
  | start (action : BitVec 2)
  /-- Pit mode, over the adit port. -/
  | pit
  deriving DecidableEq, Repr

/-- The module settings (R412): format, the profile required, the registers that the supervisor writes at boot as (address,
value), the start action, the labels of the tree, those of the tenants by number, and the tally definitions of the module's
own codes. -/
structure SettingsRec where
  fmt : BitVec 16 := 1
  profile : Byte := 1
  regs : List (Addr × DWord) := []
  start : BitVec 2 := 0
  site : List Byte := []
  building : List Byte := []
  tenants : List (BitVec 7 × List Byte) := []
  defs : List (List Byte) := []
  deriving DecidableEq, Repr

/-- The commands, one constructor per row of spec/opcode_table.json: the rows that carry operands in the table's order,
then the rows that carry none. -/
inductive Instr where
  /-- A write on the bus by a master: size as a power of two of bytes, address, value. -/
  | registerWrite (master : BitVec 4) (size : BitVec 2) (addr : Addr) (value : DWord)
  /-- A read on the bus by a master; `added` is what hardware adds to the register's RC fields in the same clock, as
  the raw bits of the fields (R7). -/
  | readClear (master : BitVec 4) (size : BitVec 2) (addr : Addr) (added : DWord)
  | sysStatClear (value : Word)
  /-- The commit phase of a task passes; `heard` are the station bindings from which a frame has come since the latch
  (R107). -/
  | taskDeadline (t : Fin 32) (heard : List Word)
  /-- `failed`: a block of the save could not be written (R292). -/
  | retainSaveComplete (failed : Bool)
  /-- A reference is lost: 0 MAINS, 1 NET, 2 XTAL. -/
  | referenceLost (which : Fin 3)
  /-- A reference has been good for PHS_RELOCKT: 0 MAINS, 1 NET, 2 XTAL, 3 the shaft. `phase` and `mHz` are what the MAINS
  tracker measures. -/
  | referenceReturn (which : Fin 4) (phase : Word) (mHz : Word)
  /-- The tracker's measured frequency and phase of the active reference leave or re-enter the band. -/
  | bandExcursion (phase : Word) (mHz : Word)
  /-- One quadrature edge; `bFirst` is B before A; `cps` is the speed the edge spacing gives. -/
  | shaftEdge (bFirst : Bool) (cps : Word)
  | shaftIndex (bFirst : Bool)
  /-- Once per turn: the witness's averaged phase difference and its frequency offset. -/
  | witnessUpdate (diff : Word) (foff : Word)
  | phsCfgWrite (value : Word)
  | phsSwitchRequest (value : Word)
  | slotWrite (slot : BitVec 10) (word : BitVec 2) (value : Word)
  /-- Frame f leaves and frame f - 1 has returned: whether it returned good, whose sections it holds, which slices receive
  frame f good, and what frame f - 1 brings. -/
  | ringFrame (good : Bool) (sections reached : BitVec 6) (up : FrameUp)
  | sliceOutputApply (sl : FieldSlice)
  | sliceLeave (sl : AnySlice)
  | sliceJoin (sl : AnySlice)
  | sliceWatchdogTrip (sl : AnySlice)
  | sliceSafeExit (sl : AnySlice)
  /-- A slice has booted; for a metering slice, `lost` is the time in µs from its latest write to its next sample
  where no warning came, 0 where one came, and `bad` how many of its newest copies fail (R265). -/
  | sliceBoot (sl : AnySlice) (issue : Byte) (version : BitVec 16) (bank : Bool) (lost : DWord) (bad : Fin 3)
  | timebaseAlignError (sl : AnySlice) (err : Word)
  | diDebouncedEdge (sl : FieldSlice) (ch : Fin 12) (level : Bool)
  | doThermalShutdown (sl : FieldSlice) (ch : Fin 8)
  | doThermalRecover (sl : FieldSlice) (ch : Fin 8)
  | doCurrentLimit (sl : FieldSlice) (ch : Fin 8) (reached : Bool)
  | doOpenLoad (sl : FieldSlice) (ch : Fin 8) (below : Bool)
  | doRelease (sl : FieldSlice) (value : Word)
  | sumoverChange (sl : FieldSlice) (above : Bool)
  /-- The field supply is low or is not, and its voltage in 0.1 V. -/
  | fieldSupplyLow (sl : FieldSlice) (low : Bool) (volts : BitVec 16)
  | fieldSupplyMissing (sl : FieldSlice) (volts : BitVec 16)
  | fieldSupplyRestored (sl : FieldSlice) (volts : BitVec 16)
  | pwmPeriodStart (sl : FieldSlice) (ch : Fin 8)
  | burstEnd (sl : FieldSlice) (ch : Fin 2)
  /-- A positive zero crossing of L1's fundamental, the cycle it ends. -/
  | feederCycle (f : Feeder) (cycle : CycleData)
  /-- A block ends, with its harmonic groups. -/
  | feederBlock (f : Feeder) (groups : List HarmGroup)
  | feederUnlock (f : Feeder)
  | feederLock (f : Feeder)
  | rotationSnapshot (f : Feeder)
  | accumulatorSave (f : Feeder)
  | pulseStart (ch : Fin 8)
  | pulseEnd (ch : Fin 8)
  | lpeLdeclWrite (loop : Fin 256) (word : BitVec 4) (value : Word)
  | lpeCdataAccess (write : Option Word)
  | nop (e : Eng) (rest : BitVec 24)
  | brk (e : Eng) (rest : BitVec 24)
  | ret (e : Eng) (rest : BitVec 24)
  | evtest (e : Eng) (d a : BitVec 4)
  | evtake (e : Eng) (d a : BitVec 4)
  | evtakelo (e : Eng) (d a : BitVec 4)
  | evtakehi (e : Eng) (d a : BitVec 4)
  | tnow (e : Eng) (d a : BitVec 4)
  | pnow (e : Eng) (d a : BitVec 4)
  | cycnow (e : Eng) (d a : BitVec 4)
  | ticks (e : Eng) (d a : BitVec 4)
  | self (e : Eng) (d a : BitVec 4)
  | qualset (e : Eng) (d a : BitVec 4)
  | flacon (e : Eng) (d a : BitVec 4)
  | stopreq (e : Eng) (d a : BitVec 4)
  /-- A load or store with its short form, or its extended form with a 31-bit offset in the extension word. -/
  | ldi (e : Eng) (w : FmtM) (ext : Option (BitVec 31))
  | sti (e : Eng) (w : FmtM) (ext : Option (BitVec 31))
  | ldl (e : Eng) (w : FmtM) (ext : Option (BitVec 31))
  | stl (e : Eng) (w : FmtM) (ext : Option (BitVec 31))
  | ldk (e : Eng) (w : FmtM) (ext : Option (BitVec 31))
  /-- A register-base load; `op` is which of the opcodes 0x88, 0x8A and 0x8C carries it (R143). -/
  | ld (e : Eng) (op : Fin 3) (w : FmtM) (ext : RegBase)
  /-- A register-base store; `op` is which of the opcodes 0x89 and 0x8B carries it (R143). -/
  | st (e : Eng) (op : Fin 2) (w : FmtM) (ext : RegBase)
  | ldp (e : Eng) (w : FmtP)
  | stp (e : Eng) (w : FmtP)
  | add (e : Eng) (w : FmtA)
  | sub (e : Eng) (w : FmtA)
  | neg (e : Eng) (w : FmtA)
  | abs (e : Eng) (w : FmtA)
  | mul (e : Eng) (w : FmtA)
  | div (e : Eng) (w : FmtA)
  | cmp (e : Eng) (w : FmtA)
  | mov (e : Eng) (w : FmtA)
  | and (e : Eng) (w : FmtA)
  | or (e : Eng) (w : FmtA)
  | xor (e : Eng) (w : FmtA)
  | not (e : Eng) (w : FmtA)
  | shl (e : Eng) (w : FmtA)
  | shr (e : Eng) (w : FmtA)
  | asr (e : Eng) (w : FmtA)
  | rot (e : Eng) (w : FmtA)
  | bit (e : Eng) (w : FmtA)
  | set (e : Eng) (w : FmtA)
  | clr (e : Eng) (w : FmtA)
  | sel (e : Eng) (w : FmtA)
  | lim (e : Eng) (w : FmtA)
  /-- An immediate form; the extension word gives bits [31:0] of a 48-bit immediate (R145). -/
  | addImm (e : Eng) (w : FmtI) (ext : Option Word)
  | cmpImm (e : Eng) (w : FmtI) (ext : Option Word)
  | andImm (e : Eng) (w : FmtI) (ext : Option Word)
  | orImm (e : Eng) (w : FmtI) (ext : Option Word)
  | xorImm (e : Eng) (w : FmtI) (ext : Option Word)
  | movi (e : Eng) (w : FmtI) (ext : Option Word)
  | fadd (e : Eng) (w : FmtA)
  | fsub (e : Eng) (w : FmtA)
  | fmul (e : Eng) (w : FmtA)
  | fdiv (e : Eng) (w : FmtA)
  | fsqrt (e : Eng) (w : FmtA)
  | fmin (e : Eng) (w : FmtA)
  | fmax (e : Eng) (w : FmtA)
  | fcmp (e : Eng) (w : FmtA)
  | cvt (e : Eng) (w : FmtA)
  | b (e : Eng) (w : FmtB)
  | bc (e : Eng) (w : FmtB)
  /-- LOOP with its extension word: bits [31:16], defined as 0, and BOUND. -/
  | loop (e : Eng) (w : FmtB) (z bound : BitVec 16)
  | call (e : Eng) (w : FmtA) (ext : Word)
  | callIndirect (e : Eng) (w : FmtA) (ext : Word)
  | callf (e : Eng) (w : FmtA) (ext : Word)
  | callfIndirect (e : Eng) (w : FmtA) (ext : Word)
  /-- WIN with its extension word: DIR, bits [30:16] defined as 0, and BOUND. -/
  | win (e : Eng) (w : FmtA) (dir : Bool) (z : BitVec 15) (bound : BitVec 16)
  | tmrTon (e : Eng) (w : FmtA) (ext : TmrExt)
  | tmrTof (e : Eng) (w : FmtA) (ext : TmrExt)
  | tmrTp (e : Eng) (w : FmtA) (ext : TmrExt)
  | tmrElapsed (e : Eng) (w : FmtA) (ext : TmrExt)
  | edge (e : Eng) (w : FmtI)
  | sch (e : Eng) (w : FmtA)
  | lpw (e : Eng) (w : FmtA)
  | lpwOwn (e : Eng) (w : FmtA)
  | lpwSwap (e : Eng) (w : FmtA)
  | lpwClr (e : Eng) (w : FmtA)
  | lpr (e : Eng) (w : FmtA)
  | tly (e : Eng) (w : FmtA)
  /-- The supervisor's feed of the second, with the latest PWR_VIN measurement: input and hold-up rail in 10 mV. -/
  | moduleStatUpdate (vin vhu : BitVec 16)
  | bucketLeak (b : Fin 4)
  | bucketClear (b : Fin 4)
  /-- A scrubber reads a codeword: its address, the bits that have flipped in it and the cells found stuck since it was
  last read, and whether the read ends the scrubber's pass. -/
  | scrubRead (addr : Addr) (flips : List (BitVec 7)) (stuck : List (BitVec 7 × Bool)) (endOfPass : Bool)
  | frontWaitRelease (front : Addr)
  | spoilDramPage (value : DWord)
  | spoilSramBank (value : DWord)
  /-- `failed`: the blocks that cannot be read (R292). -/
  | nvsRead (failed : List (BitVec 21))
  /-- `failed`: the blocks that cannot be written (R292). -/
  | nvsWrite (failed : List (BitVec 21))
  | nvsHealthLow (spare wear : Byte)
  /-- A frame has arrived at port A or B, FCS included: PHY errors, its age in ns since its SFD passed the MDI, its residence
  time in 2^-16 ns, and the egress buffers without room for it. -/
  | switchForward (port : Fin 2) (frame : List Byte) (align symbol : Bool) (age : Word) (residence : BitVec 48) (full : BitVec 2)
  | addressAgeOut (addr : BitVec 48)
  | txKick (ring : Fin 4)
  /-- The frame that the MAC is sending ends: how, and its age in ns since its SFD. -/
  | txFrameComplete (how : TxEnd) (age : Word)
  /-- Rings 0 to 3 transmit, 4 and 5 receive. -/
  | ringEnable (ring : Fin 6)
  | pauseFrameReceived (port : Fin 2) (quanta : BitVec 16)
  | pauseHoldoffEnd (port : Fin 2)
  | linkChange (port : Fin 2) (up : Bool) (speed : Fin 3)
  /-- A TLS connection: its PSK identity, and the PSK that its handshake proves. -/
  | hostConnect (identity psk : List Byte)
  | hostSessionTimeout (sess : Fin 8)
  | status (sess : Fin 9) (reqid : Word)
  | timeQuery (sess : Fin 9) (reqid : Word)
  | pointRead (sess : Fin 9) (reqid : Word) (points : List (BitVec 12))
  | pointWrite (sess : Fin 9) (reqid : Word) (writes : List (BitVec 12 × DWord))
  | forceSet (sess : Fin 9) (reqid : Word) (point : BitVec 12) (value : DWord)
  | forceClear (sess : Fin 9) (reqid : Word) (point : BitVec 12)
  | flaconFetch (sess : Fin 9) (reqid : Word) (tenant : Byte)
  /-- Up to `count` records from SEQ `first`, with an optional erase: LAST and its MAC. -/
  | tallyExport (sess : Fin 9) (reqid : Word) (first : Word) (count : BitVec 16) (erase : Option (Word × List Byte))
  | modeChange (sess : Fin 9) (reqid : Word) (order : ModeOrder)
  | load (sess : Fin 9) (reqid : Word) (offset : Word) (chunk : List Byte) (last : Bool)
  /-- A write of FBS_CFG of a channel with EN = 1. -/
  | fbsEnable (ch : Fin 4) (value : Word)
  /-- A write of FBS_CFG of a channel with EN = 0. -/
  | fbsDisable (ch : Fin 4) (value : Word)
  | fbsIntegrated (ch : Fin 4)
  | txRequest (ch : Fin 4) (mask : BitVec 3)
  | txCancel (ch : Fin 4) (mask : BitVec 3)
  | fbsRecover (ch : Fin 4)
  | fbsTxStart (ch : Fin 4)
  | fbsFrameComplete (ch : Fin 4)
  | fbsArbitrationLost (ch : Fin 4)
  /-- An error of a type of LEC; `step` is what ISO 11898-1 makes of it: 0 no counter changes, 1 the usual step, 2 a step of 8
  to a receiver, 3 a further step of 8 to the transmitter of the latest frame, in its error frame or an overload frame after it. -/
  | fbsBusError (ch : Fin 4) (lec : Fin 7) (step : Fin 4)
  | fbsRecoveryComplete (ch : Fin 4)
  /-- A valid frame from another node, its age in counts of FBS_TSCNT since its SOF, and the point values that the supervisor's
  mapping takes from it. -/
  | fbsReceive (ch : Fin 4) (frame : CanFrame) (age : Word) (mapped : List (BitVec 12 × DWord))
  | fbsRxbaseWrite (ch : Fin 4) (value : DWord)
  /-- `done`: whether the flash write fails (fault 0x0F02), or the data of a code carry poison (fault 0x0904). -/
  | tallyRecordWrite (done : SealEnd)
  | timIncrWrite (value : DWord)
  | timStepWrite (value : DWord)
  /-- A write of TIM_CTRL with STWR = 1. -/
  | timStateWrite (value : Word)
  /-- A Sync is accepted: the measured offset from the master in ns, its port, and a valid currentUtcOffset. -/
  | ptpSync (offset : DWord) (port : Bool) (utc : Option (BitVec 16))
  | ptpMasterChange (port : Bool)
  | rtcTimeWrite (value : DWord)
  /-- The temperature measured, in 0.1 °C. -/
  | rtcTrimUpdate (temp : BitVec 16)
  | keyDerive (cmd : DWord)
  | keyLoadclear (cmd : DWord)
  | keyErase (cmd : DWord)
  | keyWrap (cmd : DWord)
  | keyUnwrap (cmd : DWord)
  | keyGcmenc (cmd : DWord)
  | keyGcmdec (cmd : DWord)
  | keyHmacgen (cmd : DWord)
  | keyHmacver (cmd : DWord)
  | keyTenant (cmd : DWord)
  | flaconRequest (value : DWord)
  /-- `latched`: a latch falls during the copy (R376). -/
  | flaconBuild (latched : Bool)
  | stage (sess : Fin 9) (reqid : Word) (kind : Byte) (offset : Word) (chunk : List Byte) (last : Bool)
  /-- A slice reports on the image it has copied: `ok` where the copy is whole. -/
  | sliceImageVerified (sl : AnySlice) (ok : Bool)
  | schedule (sess : Fin 9) (reqid : Word) (time : DWord) (group : BitVec 16)
  | confirm (sess : Fin 9) (reqid : Word)
  | abort (sess : Fin 9) (reqid : Word) (group : BitVec 16)
  | lock (sess : Fin 9) (reqid : Word) (value : Byte) (mac : List Byte)
  | settingsGet (sess : Fin 9) (reqid : Word)
  /-- A settings record, and the owner node where it carries one. -/
  | settingsPut (sess : Fin 9) (reqid : Word) (record : SettingsRec) (owner : Option (List Byte))
  /-- `migrateFailed`: the conversion of the settings fails (R413). -/
  | gapEnd (migrateFailed : Bool)
  /-- `noSettings`: no copy of the module settings reads; `noLog`: the header of the tally log does not. -/
  | resetRelease (noSettings noLog : Bool)
  | domainSwitch (value : Word)
  /-- `healthy`: the entropy source of KEY passes its tests. -/
  | domainReady (domain : Fin 16) (healthy : Bool)
  | holdupTest (mJ : BitVec 16)
  | cellMeasure (mV : BitVec 16)
  /-- A word whose opcode is unassigned (R139). -/
  | illegalInstruction (e : Eng) (word : Word)
  /-- A SYS with a service number that Table 6.11 does not define (R162). -/
  | sysUndefined (e : Eng) (d a : BitVec 4) (n : BitVec 16)
  /-- One sample: the voltages of L1 to N in µV, those of L1 to L3 shifted by -90 degrees, and the currents in µA after
  the phase trim, all at the secondary after the factory calibration (R249, R253). -/
  | meteringSample (f : Feeder) (v vh i : List Int)
  | aoFault (sl : FieldSlice) (ch : Fin 2) (fault : Bool)
  | breachStop
  | tcxoLoss
  | clockLossStop
  | tcxoRestored
  | safeInAssert
  | safeInRelease
  | cycleBoundary
  | shaftLost
  | slewEnd
  | slotActionExecute
  | ringBroken
  | ringRestored
  | loopFrame
  | cmdStop
  | cmdRunWarm
  | cmdRunCold
  | cmdHold
  | cmdRunFromHold
  | cmdStep
  | clearFault
  | restartComplete
  | sramInitDone
  | dramInitDone
  | retirementDone
  | nvsTrim
  | nvsCommandEnd
  | nvsReady
  | nvsReadyTimeout
  | macReceive
  | timestampPop
  | pauseXoff
  | pauseRepeat
  | pauseXon
  | loadChecksDone
  | fbsSnapRequest
  | timSecondBoundary
  | timSecRead
  | loadrtc
  | rtcLoadComplete
  | ptpSyncTimeout
  | rtcWriteApply
  | synctim
  | clrsw
  | rtcSecond
  | rtcOscStop
  | aonSwitchover
  | aonReset
  | rtcWake
  | keyOperationEnd
  | flaconComplete
  | stageVerifyDone
  | sliceVerifyDeadline
  | sliceBankSwitch
  | confirmationExpired
  | fallbackSlot
  | fallbackRetry
  | pfwTrip
  | pfwClear
  | pfholdExpiry
  | holdupRailLow
  | powerDownShed
  | holdupRailExhausted
  | resetTimerExpiry
  | resetInput
  | pwrReset
  | powerOnRunRequest
  | pwrSleep
  | pwrPit
  | holdupCharged
  | syncPulse
  | witnessLost
  | witnessReturn
  | aditConnection
  deriving DecidableEq, Repr

end Sys2Proof
end

