-- ==== Sys2Proof/Decode.lean ====
section
/-! DEFINITION. The command that a word of the opcode table spells (no row of the table gives bits), and the encoding of the
Zhevarn instructions (Tables 5.6, 6.1 to 6.14): from an instruction to its words, and back. Load checks read code with the
decoder (R76), and a trap records the word (R131). -/

namespace Sys2Proof

/-- The command that a word spells by the bits of spec/opcode_table.json: no row of the table gives bits, so none. -/
def decodeTableWord (_nbits _w : Nat) : Option Instr := none

/-- Format A packed under an opcode (Table 5.6). -/
def packA (op : BitVec 8) (w : FmtA) : Word :=
  op ++ w.d ++ w.a ++ w.b ++ w.ty ++ BitVec.ofBool w.sx ++ w.fn

/-- Format I packed. -/
def packI (op : BitVec 8) (w : FmtI) : Word := op ++ w.d ++ w.a ++ w.imm

/-- Format M packed. -/
def packM (op : BitVec 8) (w : FmtM) : Word := op ++ w.d ++ BitVec.ofBool w.sx ++ w.ty ++ w.off

/-- Format P packed. -/
def packP (op : BitVec 8) (w : FmtP) : Word :=
  op ++ w.d ++ w.a ++ BitVec.ofBool w.x ++ BitVec.ofBool w.m ++ w.z ++ w.id

/-- Format B packed. -/
def packB (op : BitVec 8) (w : FmtB) : Word := op ++ w.c ++ w.a ++ w.off

/-- A word that is an opcode and 24 further bits. -/
def packN (op : BitVec 8) (rest : BitVec 24) : Word := op ++ rest

/-- The opcode of a word (R119). -/
def opcodeOf (w : Word) : BitVec 8 := w.extractLsb' 24 8

/-- Format A of a word. -/
def fmtA (w : Word) : FmtA :=
  ⟨w.extractLsb' 20 4, w.extractLsb' 16 4, w.extractLsb' 12 4, w.extractLsb' 9 3, w.getLsbD 8, w.extractLsb' 0 8⟩

/-- Format I of a word. -/
def fmtI (w : Word) : FmtI := ⟨w.extractLsb' 20 4, w.extractLsb' 16 4, w.extractLsb' 0 16⟩

/-- Format M of a word. -/
def fmtM (w : Word) : FmtM := ⟨w.extractLsb' 20 4, w.getLsbD 19, w.extractLsb' 16 3, w.extractLsb' 0 16⟩

/-- Format P of a word. -/
def fmtP (w : Word) : FmtP :=
  ⟨w.extractLsb' 20 4, w.extractLsb' 16 4, w.getLsbD 15, w.getLsbD 14, w.extractLsb' 12 2, w.extractLsb' 0 12⟩

/-- Format B of a word. -/
def fmtB (w : Word) : FmtB := ⟨w.extractLsb' 20 4, w.extractLsb' 16 4, w.extractLsb' 0 16⟩

/-- The extension word of an extended load or store without a register base (Table 6.2). -/
def packOff (off : BitVec 31) : Word := (0 : BitVec 1) ++ off

/-- The extension word of a register-base access (Table 6.2). -/
def packBase (x : RegBase) : Word := (1 : BitVec 1) ++ x.z ++ x.a ++ x.off

/-- The register base of an extension word. -/
def baseOf (x : Word) : RegBase := ⟨x.extractLsb' 28 3, x.extractLsb' 24 4, x.extractLsb' 0 24⟩

/-- The extension word of TMR (Table 6.9). -/
def packTmr (kind : BitVec 2) (x : TmrExt) : Word := kind ++ BitVec.ofBool x.phase ++ x.z ++ x.off

/-- The fields of TMR's extension word, but for KIND. -/
def tmrOf (x : Word) : TmrExt := ⟨x.getLsbD 29, x.extractLsb' 24 5, x.extractLsb' 0 24⟩

/-- The words of an instruction: its instruction word, and its extension word where it has one. None for a command that is
no Zhevarn instruction. -/
def encode : Instr → Option (Word × Option Word)
  | .nop _ r => some (packN 0x01 r, none)
  | .brk _ r => some (packN 0x02 r, none)
  | .ret _ r => some (packN 0x03 r, none)
  | .evtest _ d a => some (packI 0x04 ⟨d, a, 0x1⟩, none)
  | .evtake _ d a => some (packI 0x04 ⟨d, a, 0x2⟩, none)
  | .evtakelo _ d a => some (packI 0x04 ⟨d, a, 0x3⟩, none)
  | .evtakehi _ d a => some (packI 0x04 ⟨d, a, 0x4⟩, none)
  | .tnow _ d a => some (packI 0x04 ⟨d, a, 0x10⟩, none)
  | .pnow _ d a => some (packI 0x04 ⟨d, a, 0x11⟩, none)
  | .cycnow _ d a => some (packI 0x04 ⟨d, a, 0x12⟩, none)
  | .ticks _ d a => some (packI 0x04 ⟨d, a, 0x13⟩, none)
  | .self _ d a => some (packI 0x04 ⟨d, a, 0x14⟩, none)
  | .qualset _ d a => some (packI 0x04 ⟨d, a, 0x20⟩, none)
  | .flacon _ d a => some (packI 0x04 ⟨d, a, 0x30⟩, none)
  | .stopreq _ d a => some (packI 0x04 ⟨d, a, 0x40⟩, none)
  | .sysUndefined _ d a n => some (packI 0x04 ⟨d, a, n⟩, none)
  | .ldi _ w none => some (packM 0x8 w, none)
  | .ldi _ w (some off) => some (packM 0x88 w, some (packOff off))
  | .sti _ w none => some (packM 0x9 w, none)
  | .sti _ w (some off) => some (packM 0x89 w, some (packOff off))
  | .ldl _ w none => some (packM 0xa w, none)
  | .ldl _ w (some off) => some (packM 0x8a w, some (packOff off))
  | .stl _ w none => some (packM 0xb w, none)
  | .stl _ w (some off) => some (packM 0x8b w, some (packOff off))
  | .ldk _ w none => some (packM 0xc w, none)
  | .ldk _ w (some off) => some (packM 0x8c w, some (packOff off))
  | .ld _ op w x => some (packM (match op with | 0 => 0x88 | 1 => 0x8A | 2 => 0x8C) w, some (packBase x))
  | .st _ op w x => some (packM (match op with | 0 => 0x89 | 1 => 0x8B) w, some (packBase x))
  | .ldp _ w => some (packP 0x18 w, none)
  | .stp _ w => some (packP 0x19 w, none)
  | .add _ w => some (packA 0x20 w, none)
  | .sub _ w => some (packA 0x21 w, none)
  | .neg _ w => some (packA 0x22 w, none)
  | .abs _ w => some (packA 0x23 w, none)
  | .mul _ w => some (packA 0x24 w, none)
  | .div _ w => some (packA 0x25 w, none)
  | .cmp _ w => some (packA 0x26 w, none)
  | .mov _ w => some (packA 0x27 w, none)
  | .and _ w => some (packA 0x28 w, none)
  | .or _ w => some (packA 0x29 w, none)
  | .xor _ w => some (packA 0x2a w, none)
  | .not _ w => some (packA 0x2b w, none)
  | .shl _ w => some (packA 0x2c w, none)
  | .shr _ w => some (packA 0x2d w, none)
  | .asr _ w => some (packA 0x2e w, none)
  | .rot _ w => some (packA 0x2f w, none)
  | .bit _ w => some (packA 0x30 w, none)
  | .set _ w => some (packA 0x31 w, none)
  | .clr _ w => some (packA 0x32 w, none)
  | .sel _ w => some (packA 0x33 w, none)
  | .lim _ w => some (packA 0x34 w, none)
  | .fadd _ w => some (packA 0x40 w, none)
  | .fsub _ w => some (packA 0x41 w, none)
  | .fmul _ w => some (packA 0x42 w, none)
  | .fdiv _ w => some (packA 0x43 w, none)
  | .fsqrt _ w => some (packA 0x44 w, none)
  | .fmin _ w => some (packA 0x45 w, none)
  | .fmax _ w => some (packA 0x46 w, none)
  | .fcmp _ w => some (packA 0x47 w, none)
  | .cvt _ w => some (packA 0x48 w, none)
  | .sch _ w => some (packA 0x61 w, none)
  | .lpr _ w => some (packA 0x63 w, none)
  | .tly _ w => some (packA 0x64 w, none)
  | .addImm _ w none => some (packI 0x38 w, none)
  | .addImm _ w (some x) => some (packI 0xb8 w, some x)
  | .cmpImm _ w none => some (packI 0x39 w, none)
  | .cmpImm _ w (some x) => some (packI 0xb9 w, some x)
  | .andImm _ w none => some (packI 0x3a w, none)
  | .andImm _ w (some x) => some (packI 0xba w, some x)
  | .orImm _ w none => some (packI 0x3b w, none)
  | .orImm _ w (some x) => some (packI 0xbb w, some x)
  | .xorImm _ w none => some (packI 0x3c w, none)
  | .xorImm _ w (some x) => some (packI 0xbc w, some x)
  | .movi _ w none => some (packI 0x3d w, none)
  | .movi _ w (some x) => some (packI 0xbd w, some x)
  | .b _ w => some (packB 0x50 w, none)
  | .bc _ w => some (packB 0x51 w, none)
  | .loop _ w z bound => some (packB 0xD0 w, some (z ++ bound))
  | .call _ w x => some (packA 0xD8 w, some x)
  | .callIndirect _ w x => some (packA 0xD8 w, some x)
  | .callf _ w x => some (packA 0xD9 w, some x)
  | .callfIndirect _ w x => some (packA 0xD9 w, some x)
  | .win _ w dir z bound => some (packA 0xDA w, some (BitVec.ofBool dir ++ z ++ bound))
  | .tmrTon _ w x => some (packA 0xE0 w, some (packTmr 0 x))
  | .tmrTof _ w x => some (packA 0xE0 w, some (packTmr 1 x))
  | .tmrTp _ w x => some (packA 0xE0 w, some (packTmr 2 x))
  | .tmrElapsed _ w x => some (packA 0xE0 w, some (packTmr 3 x))
  | .edge _ w => some (packI 0x60 w, none)
  | .lpw _ w => some (packA 0x62 w, none)
  | .lpwOwn _ w => some (packA 0x62 w, none)
  | .lpwSwap _ w => some (packA 0x62 w, none)
  | .lpwClr _ w => some (packA 0x62 w, none)
  | .illegalInstruction _ w => some (w, none)
  | _ => none

/-- The service that a SYS word calls (Table 6.11). -/
def decodeSys (e : Eng) (w : FmtI) : Instr :=
  match w.imm.toNat with
  | 0x1 => .evtest e w.d w.a
  | 0x2 => .evtake e w.d w.a
  | 0x3 => .evtakelo e w.d w.a
  | 0x4 => .evtakehi e w.d w.a
  | 0x10 => .tnow e w.d w.a
  | 0x11 => .pnow e w.d w.a
  | 0x12 => .cycnow e w.d w.a
  | 0x13 => .ticks e w.d w.a
  | 0x14 => .self e w.d w.a
  | 0x20 => .qualset e w.d w.a
  | 0x30 => .flacon e w.d w.a
  | 0x40 => .stopreq e w.d w.a
  | _ => .sysUndefined e w.d w.a w.imm

/-- The instruction that engine `e` reads from an instruction word and the word that follows it (R119, R139, R164). The
second word is an extension word where the opcode is 0x80 or more. An opcode that Table 6.14 does not list is an illegal
instruction. -/
def decodeZ (e : Eng) (w x : Word) : Instr :=
  match (opcodeOf w).toNat with
  | 0x01 => .nop e (w.extractLsb' 0 24)
  | 0x02 => .brk e (w.extractLsb' 0 24)
  | 0x03 => .ret e (w.extractLsb' 0 24)
  | 0x04 => decodeSys e (fmtI w)
  | 0x8 => .ldi e (fmtM w) none
  | 0x9 => .sti e (fmtM w) none
  | 0xa => .ldl e (fmtM w) none
  | 0xb => .stl e (fmtM w) none
  | 0xc => .ldk e (fmtM w) none
  | 0x18 => .ldp e (fmtP w)
  | 0x19 => .stp e (fmtP w)
  | 0x20 => .add e (fmtA w)
  | 0x21 => .sub e (fmtA w)
  | 0x22 => .neg e (fmtA w)
  | 0x23 => .abs e (fmtA w)
  | 0x24 => .mul e (fmtA w)
  | 0x25 => .div e (fmtA w)
  | 0x26 => .cmp e (fmtA w)
  | 0x27 => .mov e (fmtA w)
  | 0x28 => .and e (fmtA w)
  | 0x29 => .or e (fmtA w)
  | 0x2a => .xor e (fmtA w)
  | 0x2b => .not e (fmtA w)
  | 0x2c => .shl e (fmtA w)
  | 0x2d => .shr e (fmtA w)
  | 0x2e => .asr e (fmtA w)
  | 0x2f => .rot e (fmtA w)
  | 0x30 => .bit e (fmtA w)
  | 0x31 => .set e (fmtA w)
  | 0x32 => .clr e (fmtA w)
  | 0x33 => .sel e (fmtA w)
  | 0x34 => .lim e (fmtA w)
  | 0x40 => .fadd e (fmtA w)
  | 0x41 => .fsub e (fmtA w)
  | 0x42 => .fmul e (fmtA w)
  | 0x43 => .fdiv e (fmtA w)
  | 0x44 => .fsqrt e (fmtA w)
  | 0x45 => .fmin e (fmtA w)
  | 0x46 => .fmax e (fmtA w)
  | 0x47 => .fcmp e (fmtA w)
  | 0x48 => .cvt e (fmtA w)
  | 0x61 => .sch e (fmtA w)
  | 0x63 => .lpr e (fmtA w)
  | 0x64 => .tly e (fmtA w)
  | 0x38 => .addImm e (fmtI w) none
  | 0x39 => .cmpImm e (fmtI w) none
  | 0x3a => .andImm e (fmtI w) none
  | 0x3b => .orImm e (fmtI w) none
  | 0x3c => .xorImm e (fmtI w) none
  | 0x3d => .movi e (fmtI w) none
  | 0x50 => .b e (fmtB w)
  | 0x51 => .bc e (fmtB w)
  | 0x60 => .edge e (fmtI w)
  | 0x62 =>
    match (fmtA w).fn.toNat with
    | 0x04 => .lpwOwn e (fmtA w)
    | 0x05 => .lpwSwap e (fmtA w)
    | 0x06 => .lpwClr e (fmtA w)
    | _ => .lpw e (fmtA w)
  | 0x88 => if x.getLsbD 31 then .ld e 0 (fmtM w) (baseOf x) else .ldi e (fmtM w) (some (x.extractLsb' 0 31))
  | 0x89 => if x.getLsbD 31 then .st e 0 (fmtM w) (baseOf x) else .sti e (fmtM w) (some (x.extractLsb' 0 31))
  | 0x8a => if x.getLsbD 31 then .ld e 1 (fmtM w) (baseOf x) else .ldl e (fmtM w) (some (x.extractLsb' 0 31))
  | 0x8b => if x.getLsbD 31 then .st e 1 (fmtM w) (baseOf x) else .stl e (fmtM w) (some (x.extractLsb' 0 31))
  | 0x8c => if x.getLsbD 31 then .ld e 2 (fmtM w) (baseOf x) else .ldk e (fmtM w) (some (x.extractLsb' 0 31))
  | 0xb8 => .addImm e (fmtI w) (some x)
  | 0xb9 => .cmpImm e (fmtI w) (some x)
  | 0xba => .andImm e (fmtI w) (some x)
  | 0xbb => .orImm e (fmtI w) (some x)
  | 0xbc => .xorImm e (fmtI w) (some x)
  | 0xbd => .movi e (fmtI w) (some x)
  | 0xD0 => .loop e (fmtB w) (x.extractLsb' 16 16) (x.extractLsb' 0 16)
  | 0xD8 => if (fmtA w).fn.getLsbD 0 then .callIndirect e (fmtA w) x else .call e (fmtA w) x
  | 0xD9 => if (fmtA w).fn.getLsbD 0 then .callfIndirect e (fmtA w) x else .callf e (fmtA w) x
  | 0xDA => .win e (fmtA w) (x.getLsbD 31) (x.extractLsb' 16 15) (x.extractLsb' 0 16)
  | 0xE0 =>
    match (x.extractLsb' 30 2).toNat with
    | 0 => .tmrTon e (fmtA w) (tmrOf x)
    | 1 => .tmrTof e (fmtA w) (tmrOf x)
    | 2 => .tmrTp e (fmtA w) (tmrOf x)
    | _ => .tmrElapsed e (fmtA w) (tmrOf x)
  | _ => .illegalInstruction e w

/-- The engine an instruction names. -/
def engOf : Instr → Option Eng
  | .nop e _ => some e
  | .brk e _ => some e
  | .ret e _ => some e
  | .sysUndefined e _ _ _ => some e
  | .ldp e _ => some e
  | .stp e _ => some e
  | .ld e _ _ _ => some e
  | .st e _ _ _ => some e
  | .b e _ => some e
  | .bc e _ => some e
  | .loop e _ _ _ => some e
  | .win e _ _ _ _ => some e
  | .edge e _ => some e
  | .illegalInstruction e _ => some e
  | .evtest e _ _ => some e
  | .evtake e _ _ => some e
  | .evtakelo e _ _ => some e
  | .evtakehi e _ _ => some e
  | .tnow e _ _ => some e
  | .pnow e _ _ => some e
  | .cycnow e _ _ => some e
  | .ticks e _ _ => some e
  | .self e _ _ => some e
  | .qualset e _ _ => some e
  | .flacon e _ _ => some e
  | .stopreq e _ _ => some e
  | .ldi e _ _ => some e
  | .sti e _ _ => some e
  | .ldl e _ _ => some e
  | .stl e _ _ => some e
  | .ldk e _ _ => some e
  | .add e _ => some e
  | .sub e _ => some e
  | .neg e _ => some e
  | .abs e _ => some e
  | .mul e _ => some e
  | .div e _ => some e
  | .cmp e _ => some e
  | .mov e _ => some e
  | .and e _ => some e
  | .or e _ => some e
  | .xor e _ => some e
  | .not e _ => some e
  | .shl e _ => some e
  | .shr e _ => some e
  | .asr e _ => some e
  | .rot e _ => some e
  | .bit e _ => some e
  | .set e _ => some e
  | .clr e _ => some e
  | .sel e _ => some e
  | .lim e _ => some e
  | .fadd e _ => some e
  | .fsub e _ => some e
  | .fmul e _ => some e
  | .fdiv e _ => some e
  | .fsqrt e _ => some e
  | .fmin e _ => some e
  | .fmax e _ => some e
  | .fcmp e _ => some e
  | .cvt e _ => some e
  | .sch e _ => some e
  | .lpr e _ => some e
  | .tly e _ => some e
  | .addImm e _ _ => some e
  | .cmpImm e _ _ => some e
  | .andImm e _ _ => some e
  | .orImm e _ _ => some e
  | .xorImm e _ _ => some e
  | .movi e _ _ => some e
  | .lpw e _ => some e
  | .lpwOwn e _ => some e
  | .lpwSwap e _ => some e
  | .lpwClr e _ => some e
  | .call e _ _ => some e
  | .callIndirect e _ _ => some e
  | .callf e _ _ => some e
  | .callfIndirect e _ _ => some e
  | .tmrTon e _ _ => some e
  | .tmrTof e _ _ => some e
  | .tmrTp e _ _ => some e
  | .tmrElapsed e _ _ => some e
  | _ => none

/-- The length in bytes of the instruction that a word begins (R119). -/
def wordLen (w : Word) : Nat := if (opcodeOf w).toNat < 0x80 then 4 else 8

end Sys2Proof
end

