-- ==== Sys2Proof/Config.lean ====
section
/-! DEFINITION. What an implementation or a single module fixes and the spec leaves open, and the free values.
None of these constants has a body: a claim holds whatever they are. -/

namespace Sys2Proof.Config

/-- A free value: where the spec states no value, the model reads `freeValue n` at the `n`-th such use
(State.free counts the uses). DESIGN CHOICE, safe (log entry 1). -/
opaque freeValue : Nat → Nat

/-- NET_MACADDR of this module: the factory value of Table 12's register (R322). -/
opaque macAddr : Nat

/-- Bit `k` of the check bits of a codeword of `w` data bits holding `v` (R273, R276: the check matrix is not
published). -/
opaque checkBit : (w : Nat) → (k : Nat) → (v : Nat) → Bool

/-- The SYNDROME that a set of bits in error gives in a codeword of `w` data bits (R276: the check matrix is not
published). -/
opaque syndrome : (w : Nat) → (bits : List Nat) → Nat

/-- The current sample that a phase trim of `trim`/32,768 of a sample period gives between the sample `older` and the sample `newer`,
at its `n`-th use (R249: the filter is not stated). DESIGN CHOICE, safe (log entry 57). -/
opaque delayed : (n trim : Nat) → (older newer : Int) → Int

/-- The 256-bit number that the entropy source of KEY gives at its `n`-th draw (R364). -/
opaque entropy : Nat → Nat

/-- The SHA-256 hash, a 256-bit number in byte order, of the signing key with index 0 to 3 that OTP holds (R402). -/
opaque otpKeyHash : Nat → Nat

end Sys2Proof.Config
end

