-- ==== Sys2Proof/Machine/Bits.lean ====
section
/-! DEFINITION. The arithmetic of fixed widths: wrapping, signed reading, rounding, saturation and bit fields (Table 0.4). -/

namespace Sys2Proof

/-- wrapN of Table 0.4: `a` modulo `2^n`. -/
def wrap (n a : Nat) : Nat := a % 2 ^ n

/-- The signed reading of an `n`-bit number. -/
def toSigned (n a : Nat) : Int :=
  let b := a % 2 ^ n
  if b < 2 ^ (n - 1) then (b : Int) else (b : Int) - 2 ^ n

/-- An integer modulo `2^n`. -/
def ofSigned (n : Nat) (a : Int) : Nat := (a % (2 ^ n : Int)).toNat

/-- `a / b` rounded up. -/
def ceilDiv (a b : Nat) : Nat := (a + b - 1) / b

/-- A count that saturates at `top`. -/
def satAdd (top a b : Nat) : Nat := min top (a + b)

/-- Bits `hi` to `lo` of a number, as `x[hi:lo]` of Table 0.4. -/
def slice (hi lo a : Nat) : Nat := a / 2 ^ lo % 2 ^ (hi - lo + 1)

/-- Bit `i` of a number. -/
def bitOf (a i : Nat) : Bool := a / 2 ^ i % 2 == 1

/-- A bool as the number 0 or 1. -/
def b2n (b : Bool) : Nat := if b then 1 else 0

end Sys2Proof
end

