-- ==== Sys2Proof/Machine/Mem.lean ====
section
/-! DEFINITION. Sparse maps: a list of (key, value) pairs in one canonical form, and byte strings over them.
A map holds no entry equal to what an unlisted key reads as, and its keys rise strictly. Registers, memory and flash
are all held in this form. -/

namespace Sys2Proof.Machine

/-- A sparse map: keys strictly rising, and no entry equal to the default. -/
abbrev Sparse (α : Type) := List (Nat × α)

/-- What the map holds at `k`, or `d` where nothing is listed. -/
def sget {α : Type} (d : α) : Sparse α → Nat → α
  | [], _ => d
  | (k', v) :: t, k => if k = k' then v else sget d t k

/-- The map without the key `k`. -/
def sdel {α : Type} : Sparse α → Nat → Sparse α
  | [], _ => []
  | (k', v) :: t, k => if k = k' then sdel t k else (k', v) :: sdel t k

/-- The map with `v` listed at `k`, in its place in the rising order. -/
def sins {α : Type} : Sparse α → Nat → α → Sparse α
  | [], k, v => [(k, v)]
  | (k', v') :: t, k, v =>
    if k < k' then (k, v) :: (k', v') :: t
    else if k = k' then (k, v) :: t
    else (k', v') :: sins t k v

/-- The map with `v` at `k`; writing the default removes the entry. -/
def sput {α : Type} [DecidableEq α] (d : α) (m : Sparse α) (k : Nat) (v : α) : Sparse α :=
  if v = d then sdel m k else sins m k v

/-- The map with every key in `lo ≤ k < hi` back at the default. -/
def sclear {α : Type} (m : Sparse α) (lo hi : Nat) : Sparse α :=
  m.filter fun c => !(decide (lo ≤ c.1) && decide (c.1 < hi))

/-- The entries with `lo ≤ k < hi`. -/
def swindow {α : Type} (m : Sparse α) (lo hi : Nat) : Sparse α :=
  m.filter fun c => decide (lo ≤ c.1) && decide (c.1 < hi)

/-- The map with the `n` cells from `src` copied to `dst`. -/
def scopy {α : Type} [DecidableEq α] (d : α) (m : Sparse α) (src dst n : Nat) : Sparse α :=
  (swindow m src (src + n)).foldl (fun acc c => sput d acc (c.1 - src + dst) c.2) (sclear m dst (dst + n))

/-- The map `into` with the `n` cells from `dst` replaced by those that `from_` holds from `src`. -/
def spaste {α : Type} [DecidableEq α] (d : α) (from_ into : Sparse α) (src dst n : Nat) : Sparse α :=
  (swindow from_ src (src + n)).foldl (fun acc c => sput d acc (c.1 - src + dst) c.2) (sclear into dst (dst + n))

/-- The entries of a list that stand in `lo ≤ k < hi` in rising order and differ from the default. -/
def ordered {α : Type} [DecidableEq α] (d : α) (lo hi : Nat) : List (Nat × α) → Sparse α
  | [] => []
  | (k, v) :: t =>
    if lo ≤ k && k < hi && v ≠ d then (k, v) :: ordered d (k + 1) hi t else ordered d lo hi t

/-- The map with what it holds in `lo ≤ k < hi` replaced by a rising list of entries. -/
def splice {α : Type} [DecidableEq α] (d : α) (m : Sparse α) (lo hi : Nat) (cells : List (Nat × α)) : Sparse α :=
  m.filter (fun c => decide (c.1 < lo)) ++ (ordered d lo hi cells ++ m.filter fun c => decide (max lo hi ≤ c.1))

/-- The first key is above `k` and the keys rise strictly from there. -/
def sortedFrom {α : Type} : Option Nat → Sparse α → Bool
  | _, [] => true
  | none, (k, _) :: t => sortedFrom (some k) t
  | some p, (k, _) :: t => decide (p < k) && sortedFrom (some k) t

/-- The canonical form: keys strictly rising, no entry equal to the default. -/
def Sparse.wf {α : Type} [DecidableEq α] (d : α) (m : Sparse α) : Bool :=
  sortedFrom none m && m.all fun c => decide (c.2 ≠ d)

/-- `n` bytes from address `a`, lowest first. -/
def readBytes (m : Sparse (BitVec 8)) (a : Nat) : Nat → List (BitVec 8)
  | 0 => []
  | n + 1 => sget 0 m a :: readBytes m (a + 1) n

/-- The map with a byte string written from address `a`. -/
def writeBytes (m : Sparse (BitVec 8)) (a : Nat) : List (BitVec 8) → Sparse (BitVec 8)
  | [] => m
  | b :: bs => writeBytes (sput 0 m a b) (a + 1) bs

/-- The number a byte string spells, little-endian (R5). -/
def leNat : List (BitVec 8) → Nat
  | [] => 0
  | b :: bs => b.toNat + 256 * leNat bs

/-- The `n` bytes of a number, little-endian (R5). -/
def toLE : Nat → Nat → List (BitVec 8)
  | 0, _ => []
  | n + 1, v => BitVec.ofNat 8 v :: toLE n (v / 256)

/-- The number a byte string spells, big-endian. -/
def beNat (bs : List (BitVec 8)) : Nat := leNat bs.reverse

/-- The `n` bytes of a number, big-endian. -/
def toBE (n v : Nat) : List (BitVec 8) := (toLE n v).reverse

/-- The `n`-byte little-endian number at `a`. -/
def readLE (m : Sparse (BitVec 8)) (a n : Nat) : Nat := leNat (readBytes m a n)

/-- The map with the `n`-byte little-endian number `v` at `a`. -/
def writeLE (m : Sparse (BitVec 8)) (a n v : Nat) : Sparse (BitVec 8) := writeBytes m a (toLE n v)

/-- `n` zero bytes. -/
def zeros (n : Nat) : List (BitVec 8) := List.replicate n 0

/-- Every value of a map changed, the canonical form kept. -/
def smap {α : Type} [DecidableEq α] (d : α) (f : α → α) (m : Sparse α) : Sparse α :=
  (m.map fun c => (c.1, f c.2)).filter fun c => decide (c.2 ≠ d)

end Sys2Proof.Machine
end

