-- ==== Sys2Proof/Machine/Crypto.lean ====
section
/-! DEFINITION. The published standards the chapters name: CRC-32 and CRC-16/CCITT, SHA-256, HMAC-SHA-256, AES-256 and its
GCM and key-wrap modes, and ECDSA verification over P-256. Byte strings are lists of bytes. -/

namespace Sys2Proof.Machine

/-- One bit step of a reflected CRC with polynomial `p`. -/
def crcBit (p c : Nat) : Nat := if c % 2 == 1 then (c / 2) ^^^ p else c / 2

/-- One byte of a reflected CRC. -/
def crcByte (p c : Nat) (b : BitVec 8) : Nat := Nat.repeat (crcBit p) 8 (c ^^^ b.toNat)

/-- CRC-32 with the IEEE 802.3 polynomial (R173, R395). -/
def crc32 (bs : List (BitVec 8)) : Nat := (bs.foldl (crcByte 0xEDB88320) 0xFFFFFFFF) ^^^ 0xFFFFFFFF

/-- One bit step of CRC-16/CCITT, most significant bit first. -/
def crc16Bit (c : Nat) : Nat := if c / 0x8000 % 2 == 1 then ((c * 2) % 0x10000) ^^^ 0x1021 else (c * 2) % 0x10000

/-- CRC-16/CCITT from 0xFFFF. -/
def crc16 (bs : List (BitVec 8)) : Nat :=
  bs.foldl (fun c b => Nat.repeat crc16Bit 8 (c ^^^ (b.toNat * 256))) 0xFFFF

namespace Sha

/-- The round constants of SHA-256. -/
def k : List Nat := [0x428A2F98, 0x71374491, 0xB5C0FBCF, 0xE9B5DBA5, 0x3956C25B, 0x59F111F1, 0x923F82A4, 0xAB1C5ED5, 0xD807AA98, 0x12835B01, 0x243185BE, 0x550C7DC3, 0x72BE5D74, 0x80DEB1FE, 0x9BDC06A7, 0xC19BF174, 0xE49B69C1, 0xEFBE4786, 0x0FC19DC6, 0x240CA1CC, 0x2DE92C6F, 0x4A7484AA, 0x5CB0A9DC, 0x76F988DA, 0x983E5152, 0xA831C66D, 0xB00327C8, 0xBF597FC7, 0xC6E00BF3, 0xD5A79147, 0x06CA6351, 0x14292967] ++
  [0x27B70A85, 0x2E1B2138, 0x4D2C6DFC, 0x53380D13, 0x650A7354, 0x766A0ABB, 0x81C2C92E, 0x92722C85, 0xA2BFE8A1, 0xA81A664B, 0xC24B8B70, 0xC76C51A3, 0xD192E819, 0xD6990624, 0xF40E3585, 0x106AA070, 0x19A4C116, 0x1E376C08, 0x2748774C, 0x34B0BCB5, 0x391C0CB3, 0x4ED8AA4A, 0x5B9CCA4F, 0x682E6FF3, 0x748F82EE, 0x78A5636F, 0x84C87814, 0x8CC70208, 0x90BEFFFA, 0xA4506CEB, 0xBEF9A3F7, 0xC67178F2]

/-- The initial hash value of SHA-256. -/
def h0 : List Nat := [0x6A09E667, 0xBB67AE85, 0x3C6EF372, 0xA54FF53A, 0x510E527F, 0x9B05688C, 0x1F83D9AB, 0x5BE0CD19]

/-- Rotate a 32-bit word right. -/
def rotr (x n : Nat) : Nat := (x / 2 ^ n) ||| ((x * 2 ^ (32 - n)) % 2 ^ 32)

/-- The message schedule, newest word first, grown by `n` words. -/
def grow : Nat → List Nat → List Nat
  | 0, w => w
  | n + 1, w =>
    let a := w.getD 14 0
    let b := w.getD 1 0
    let s0 := rotr a 7 ^^^ rotr a 18 ^^^ (a / 8)
    let s1 := rotr b 17 ^^^ rotr b 19 ^^^ (b / 1024)
    grow n (((w.getD 15 0 + s0 + w.getD 6 0 + s1) % 2 ^ 32) :: w)

/-- One round over the eight working variables. -/
def round (v : List Nat) (kw : Nat) : List Nat :=
  match v with
  | [a, b, c, d, e, f, g, h] =>
    let s1 := rotr e 6 ^^^ rotr e 11 ^^^ rotr e 25
    let ch := (e &&& f) ^^^ ((e ^^^ 0xFFFFFFFF) &&& g)
    let t1 := h + s1 + ch + kw
    let s0 := rotr a 2 ^^^ rotr a 13 ^^^ rotr a 22
    let mj := (a &&& b) ^^^ (a &&& c) ^^^ (b &&& c)
    [(t1 + s0 + mj) % 2 ^ 32, a, b, c, (d + t1) % 2 ^ 32, e, f, g]
  | _ => v

/-- The hash value after one block, its sixteen words oldest first. -/
def block (hv : List Nat) (ws : List Nat) : List Nat :=
  let sched := (grow 48 ws.reverse).reverse
  let v := (List.zipWith (· + ·) k sched).foldl round hv
  List.zipWith (fun a b => (a + b) % 2 ^ 32) hv v

/-- Cut a list into big-endian words of `n` bytes; `fuel` bounds the words. -/
def words (n : Nat) : Nat → List (BitVec 8) → List Nat
  | 0, _ => []
  | _, [] => []
  | fuel + 1, bs => beNat (bs.take n) :: words n fuel (bs.drop n)

/-- All blocks in turn; `fuel` bounds the blocks. -/
def blocks : Nat → List Nat → List Nat → List Nat
  | 0, hv, _ => hv
  | fuel + 1, hv, ws => if ws.isEmpty then hv else blocks fuel (block hv (ws.take 16)) (ws.drop 16)

end Sha

/-- SHA-256. -/
def sha256 (bs : List (BitVec 8)) : List (BitVec 8) :=
  let n := bs.length
  let padded := bs ++ [0x80] ++ zeros ((119 - n % 64) % 64) ++ toBE 8 (n * 8)
  let ws := Sha.words 4 (padded.length / 4) padded
  ((Sha.blocks (ws.length / 16) Sha.h0 ws).map (toBE 4)).flatten

/-- XOR of two byte strings, as long as the shorter. -/
def xorBytes (a b : List (BitVec 8)) : List (BitVec 8) := List.zipWith (· ^^^ ·) a b

/-- A byte string cut or zero-padded to `n` bytes. -/
def fitBytes (n : Nat) (bs : List (BitVec 8)) : List (BitVec 8) := bs.take n ++ zeros (n - bs.length)

/-- HMAC-SHA-256. -/
def hmac256 (key msg : List (BitVec 8)) : List (BitVec 8) :=
  let k0 := fitBytes 64 (if key.length > 64 then sha256 key else key)
  sha256 (k0.map (· ^^^ 0x5C) ++ sha256 (k0.map (· ^^^ 0x36) ++ msg))

namespace Aes

/-- The S-box of AES, byte n at bits 8 n and up. -/
def sbox : Nat := 0x16BB54B00F2D99416842E6BF0D89A18CDF2855CEE9871E9B948ED9691198F8E19E1DC186B95735610EF6034866B53E708A8BBD4B1F74DDE8C6B4A61C2E2578BA08AE7A65EAF4566CA94ED58D6D37C8E779E4959162ACD3C25C2406490A3A32E0DB0B5EDE14B8EE4688902A22DC4F816073195D643D7EA7C41744975FEC130CCDD2F3FF1021DAB6BCF5389D928F40A351A89F3C507F02F94585334D43FBAAEFD0CF584C4A39BECB6A5BB1FC20ED00D153842FE329B3D63B52A05A6E1B1A2C830975B227EBE28012079A059618C323C7041531D871F1E5A534CCF73F362693FDB7C072A49CAFA2D4ADF04759FA7DC982CA76ABD7FE2B670130C56F6BF27B777C63

/-- The inverse S-box of AES. -/
def invSbox : Nat := 0x7D0C2155631469E126D677BA7E042B17619953833CBBEBC8B0F52AAE4D3BE0A0EF9CC9939F7AE52D0D4AB519A97F51605FEC8027591012B131C7078833A8DD1FF45ACD78FEC0DB9A2079D2C64B3E56FC1BBE18AA0E62B76F89C5291D711AF1476EDF751CE837F9E28535ADE72274AC9673E6B4F0CECFF297EADC674F4111913A6B8A130103BDAFC1020F3FCA8F1E2CD00645B3B80558E4F70AD3BC8C00ABD890849D8DA75746155EDAB9EDFD5048706C92B6655DCC5CA4D41698688664F6F87225D18B6D49A25B76B224D92866A12E084EC3FA420B954CEE3D23C2A632947B54CBE9DEC444438E3487FF2F9B8239E37CFBD7F3819EA340BF38A53630D56A0952

/-- One byte through the S-box. -/
def sub (b : BitVec 8) : BitVec 8 := BitVec.ofNat 8 (sbox / 2 ^ (8 * b.toNat))

/-- One byte through the inverse S-box. -/
def invSub (b : BitVec 8) : BitVec 8 := BitVec.ofNat 8 (invSbox / 2 ^ (8 * b.toNat))

/-- Multiplication by x in GF(2^8). -/
def xtime (b : BitVec 8) : BitVec 8 := (b <<< 1) ^^^ (if b.msb then 0x1B else 0)

/-- Multiplication by a small constant in GF(2^8). -/
def mulc : Nat → BitVec 8 → BitVec 8
  | 1, b => b
  | 2, b => xtime b
  | 3, b => xtime b ^^^ b
  | 9, b => xtime (xtime (xtime b)) ^^^ b
  | 11, b => xtime (xtime (xtime b)) ^^^ xtime b ^^^ b
  | 13, b => xtime (xtime (xtime b)) ^^^ xtime (xtime b) ^^^ b
  | 14, b => xtime (xtime (xtime b)) ^^^ xtime (xtime b) ^^^ xtime b
  | _, _ => 0

/-- The byte at an index, 0 past the end. -/
def at' (s : List (BitVec 8)) (i : Nat) : BitVec 8 := s.getD i 0

/-- ShiftRows, the state in column order. -/
def shiftRows (s : List (BitVec 8)) : List (BitVec 8) :=
  (List.range 16).map fun i => at' s ((i + 4 * (i % 4)) % 16)

/-- The inverse of ShiftRows. -/
def invShiftRows (s : List (BitVec 8)) : List (BitVec 8) :=
  (List.range 16).map fun i => at' s ((i + 12 * (i % 4)) % 16)

/-- Each column multiplied by the circulant matrix of a first row. -/
def mixWith (c0 c1 c2 c3 : Nat) (s : List (BitVec 8)) : List (BitVec 8) :=
  (List.range 16).map fun i =>
    let b := i / 4 * 4
    mulc c0 (at' s (b + i % 4)) ^^^ mulc c1 (at' s (b + (i + 1) % 4)) ^^^
      mulc c2 (at' s (b + (i + 2) % 4)) ^^^ mulc c3 (at' s (b + (i + 3) % 4))

/-- The key schedule of AES-256, newest word first, grown by `n` words. -/
def expand : Nat → Nat → BitVec 8 → List (List (BitVec 8)) → List (List (BitVec 8))
  | 0, _, _, w => w
  | n + 1, i, rc, w =>
    let prev := w.headD []
    let back := w.getD 7 []
    if i % 8 == 0 then
      let r := (prev.drop 1 ++ prev.take 1).map sub
      let t := xorBytes r [rc, 0, 0, 0]
      expand n (i + 1) (xtime rc) (xorBytes back t :: w)
    else if i % 8 == 4 then expand n (i + 1) rc (xorBytes back (prev.map sub) :: w)
    else expand n (i + 1) rc (xorBytes back prev :: w)

/-- The fifteen round keys of a 32-byte key. -/
def roundKeys (key : List (BitVec 8)) : List (List (BitVec 8)) :=
  let w0 := (List.range 8).map fun i => (key.drop (4 * i)).take 4
  let w := (expand 52 8 1 w0.reverse).reverse
  (List.range 15).map fun r => ((w.drop (4 * r)).take 4).flatten

/-- AES-256 on one block. -/
def enc (key blk : List (BitVec 8)) : List (BitVec 8) :=
  match roundKeys key with
  | [] => blk
  | k0 :: ks =>
    let s := (ks.take 13).foldl (fun s rk => xorBytes (mixWith 2 3 1 1 (shiftRows (s.map sub))) rk) (xorBytes blk k0)
    xorBytes (shiftRows (s.map sub)) (ks.getD 13 [])

/-- AES-256 on one block, inverse. -/
def dec (key blk : List (BitVec 8)) : List (BitVec 8) :=
  match (roundKeys key).reverse with
  | [] => blk
  | k0 :: ks =>
    let s := (ks.take 13).foldl (fun s rk => mixWith 14 11 13 9 (xorBytes ((invShiftRows s).map invSub) rk))
      (xorBytes blk k0)
    xorBytes ((invShiftRows s).map invSub) (ks.getD 13 [])

/-- One step of the GHASH product over its bits from the most significant. -/
def ghashStep (x : Nat) (zv : Nat × Nat) (i : Nat) : Nat × Nat :=
  let z := if bitOf x (127 - i) then zv.1 ^^^ zv.2 else zv.1
  let v := if zv.2 % 2 == 1 then (zv.2 / 2) ^^^ (0xE1 * 2 ^ 120) else zv.2 / 2
  (z, v)

/-- The product of GHASH. -/
def gmul (x y : Nat) : Nat := ((List.range 128).foldl (ghashStep x) (0, y)).1

/-- A string cut into 16-byte blocks, the last one zero-padded. -/
def chunks16 : Nat → List (BitVec 8) → List (List (BitVec 8))
  | 0, _ => []
  | _, [] => []
  | n + 1, bs => fitBytes 16 (bs.take 16) :: chunks16 n (bs.drop 16)

/-- GHASH over additional data and ciphertext. -/
def ghash (h : Nat) (aad ct : List (BitVec 8)) : Nat :=
  let bl := chunks16 (aad.length / 16 + 1) aad ++ chunks16 (ct.length / 16 + 1) ct ++
    [toBE 8 (aad.length * 8) ++ toBE 8 (ct.length * 8)]
  bl.foldl (fun y b => gmul (y ^^^ beNat b) h) 0

/-- Counter mode from counter `c` under the 12-byte IV; `fuel` bounds the blocks. -/
def ctr (key iv : List (BitVec 8)) : Nat → Nat → List (BitVec 8) → List (BitVec 8)
  | 0, _, _ => []
  | _, _, [] => []
  | fuel + 1, c, bs =>
    xorBytes (bs.take 16) (enc key (iv ++ toBE 4 c)) ++ ctr key iv fuel (c + 1) (bs.drop 16)

/-- The tag of AES-256-GCM over additional data and ciphertext. -/
def gcmTag (key iv aad ct : List (BitVec 8)) : List (BitVec 8) :=
  xorBytes (toBE 16 (ghash (beNat (enc key (zeros 16))) aad ct)) (enc key (iv ++ toBE 4 1))

/-- The text of AES-256-GCM: encryption and decryption are one operation. -/
def gcmText (key iv txt : List (BitVec 8)) : List (BitVec 8) := ctr key iv (txt.length / 16 + 1) 2 txt

/-- One wrapping step of RFC 3394 at step count `t` on register `i`. -/
def wrapStep (key : List (BitVec 8)) (n : Nat) (ar : List (BitVec 8) × List (List (BitVec 8))) (t : Nat) :
    List (BitVec 8) × List (List (BitVec 8)) :=
  let i := (t - 1) % n
  let b := enc key (ar.1 ++ ar.2.getD i [])
  (xorBytes (b.take 8) (toBE 8 t), ar.2.set i (b.drop 8))

/-- RFC 3394 key wrap under a given initial value. -/
def wrap (key iv txt : List (BitVec 8)) : List (BitVec 8) :=
  let n := txt.length / 8
  let r := (List.range n).map fun i => (txt.drop (8 * i)).take 8
  let o := ((List.range (6 * n)).map (· + 1)).foldl (wrapStep key n) (iv, r)
  o.1 ++ o.2.flatten

/-- One unwrapping step of RFC 3394. -/
def unwrapStep (key : List (BitVec 8)) (n : Nat) (ar : List (BitVec 8) × List (List (BitVec 8))) (t : Nat) :
    List (BitVec 8) × List (List (BitVec 8)) :=
  let i := (t - 1) % n
  let b := dec key (xorBytes ar.1 (toBE 8 t) ++ ar.2.getD i [])
  (b.take 8, ar.2.set i (b.drop 8))

/-- RFC 3394 key unwrap: the initial value found and the text. -/
def unwrap (key ct : List (BitVec 8)) : List (BitVec 8) × List (BitVec 8) :=
  let n := ct.length / 8 - 1
  let r := (List.range n).map fun i => (ct.drop (8 * i + 8)).take 8
  let o := (((List.range (6 * n)).map (· + 1)).reverse).foldl (unwrapStep key n) (ct.take 8, r)
  (o.1, o.2.flatten)

end Aes

namespace P256

/-- The prime of P-256. -/
def p : Nat := 2 ^ 256 - 2 ^ 224 + 2 ^ 192 + 2 ^ 96 - 1

/-- The order of the base point. -/
def n : Nat := 0xFFFFFFFF00000000FFFFFFFFFFFFFFFFBCE6FAADA7179E84F3B9CAC2FC632551

/-- The base point. -/
def gx : Nat := 0x6B17D1F2E12C4247F8BCE6E563A440F277037D812DEB33A0F4A13945D898C296

/-- The base point's other coordinate. -/
def gy : Nat := 0x4FE342E2FE1A7F9B8EE7EB4A7C0F9E162BCE33576B315ECECBB6406837BF51F5

/-- `a ^ e` modulo `m` by squaring over `k` bits of `e`. -/
def powMod (m : Nat) : Nat → Nat → Nat → Nat
  | 0, _, _ => 1 % m
  | k + 1, a, e =>
    let h := powMod m k (a * a % m) (e / 2)
    if e % 2 == 1 then a * h % m else h

/-- The inverse modulo a prime. -/
def inv (m a : Nat) : Nat := powMod m 256 a (m - 2)

/-- Subtraction modulo `p`. -/
def sub (a b : Nat) : Nat := (a + p - b % p) % p

/-- Addition of points; none is the point at infinity. -/
def add : Option (Nat × Nat) → Option (Nat × Nat) → Option (Nat × Nat)
  | none, q => q
  | q, none => q
  | some (x1, y1), some (x2, y2) =>
    if x1 = x2 && (y1 + y2) % p == 0 then none
    else
      let l := if x1 = x2 then (3 * x1 * x1 + p - 3) * inv p (2 * y1) % p
        else sub y2 y1 * inv p (sub x2 x1) % p
      let x3 := sub (sub (l * l % p) x1) x2
      some (x3, sub (l * sub x1 x3 % p) y1)

/-- A multiple of a point, over `k` bits of the factor. -/
def mul : Nat → Nat → Option (Nat × Nat) → Option (Nat × Nat)
  | 0, _, _ => none
  | k + 1, e, q =>
    let h := mul k (e / 2) (add q q)
    if e % 2 == 1 then add q h else h

/-- ECDSA verification with SHA-256 of signature (r, s) over a message under the public key (x, y). -/
def verify (x y r s : Nat) (msg : List (BitVec 8)) : Bool :=
  if r = 0 || s = 0 || decide (n ≤ r) || decide (n ≤ s) then false
  else
    let e := beNat (sha256 msg)
    let w := inv n s
    match add (mul 256 (e * w % n) (some (gx, gy))) (mul 256 (r * w % n) (some (x, y))) with
    | none => false
    | some (x1, _) => x1 % n == r

end P256

end Sys2Proof.Machine
end

