-- ==== Sys2Proof/Machine/Regs.lean ====
section
/-! DEFINITION. The register fields the spec gives the machine, one constant per field, and the register table:
address, width, access code and reset value of every field (Tables of the chapters' register sections; R6, R8 to R10, R24).
A field's key is 64 times its register's address plus its low bit. An array's index counts in the spec's own order. -/

namespace Sys2Proof.Machine

/-- The access codes of Table 0.3 (R6). -/
inductive Acc where
  | RO | RW | WO | W1C | RC | RWL
  deriving DecidableEq, Repr

/-- One register field: its key, its width and its reset value (R8). -/
structure Fld where
  key : Nat
  width : Nat
  reset : Nat
  deriving DecidableEq, Repr

/-- One field of a register as its table row gives it. -/
structure FieldSpec where
  lo : Nat
  width : Nat
  acc : Acc
  reset : Nat
  deriving DecidableEq, Repr

/-- One register, or an array of registers of one shape: the offset of the first, the width in bits, the array's
dimensions as (count, stride in bytes) and its fields. -/
structure RegSpec where
  name : String
  off : Nat
  width : Nat
  dims : List (Nat × Nat)
  fields : List FieldSpec
  deriving DecidableEq, Repr

namespace R


/-! ### SYS (R32) -/

abbrev SYS_ID_PART : Fld := ⟨0x10000000 * 64 + 0, 16, 0x480⟩
abbrev SYS_ID_ISSUE : Fld := ⟨0x10000000 * 64 + 16, 8, 1⟩
abbrev SYS_STAT_CLKSRC : Fld := ⟨0x10000008 * 64 + 0, 1, 0⟩
abbrev SYS_STAT_XTFAIL : Fld := ⟨0x10000008 * 64 + 1, 1, 0⟩
abbrev SYS_STAT_BREACH : Fld := ⟨0x10000008 * 64 + 2, 1, 0⟩
abbrev SYS_STAT_UNMAP : Fld := ⟨0x10000008 * 64 + 3, 1, 0⟩
abbrev SYS_STAT_SAFEIN : Fld := ⟨0x10000008 * 64 + 4, 1, 0⟩
abbrev SYS_CFG_BREACHACT : Fld := ⟨0x10000010 * 64 + 0, 1, 1⟩
abbrev SYS_BREACH_ADDR_ADDR : Fld := ⟨0x10000018 * 64 + 0, 40, 0⟩
abbrev SYS_BREACH_INFO_MASTER : Fld := ⟨0x10000020 * 64 + 0, 4, 0⟩
abbrev SYS_BREACH_INFO_COUNT : Fld := ⟨0x10000020 * 64 + 8, 8, 0⟩
abbrev SYS_BREACH_INFO_TASK : Fld := ⟨0x10000020 * 64 + 16, 6, 0x3f⟩
abbrev SYS_UNMAP_ADDR_ADDR : Fld := ⟨0x10000028 * 64 + 0, 40, 0⟩
abbrev SYS_UNMAP_INFO_MASTER : Fld := ⟨0x10000030 * 64 + 0, 4, 0⟩
abbrev SYS_UNMAP_INFO_WRITE : Fld := ⟨0x10000030 * 64 + 4, 1, 0⟩
abbrev SYS_UNMAP_INFO_COUNT : Fld := ⟨0x10000030 * 64 + 16, 8, 0⟩
abbrev SYS_IRQPEND_PEND (i : Nat) : Fld := ⟨(0x10000040 + 0x8 * i) * 64 + 0, 64, 0⟩
abbrev SYS_IRQEN_EN (i : Nat) : Fld := ⟨(0x10000050 + 0x8 * i) * 64 + 0, 64, 0⟩
abbrev SYS_PROFILE_NATIVE : Fld := ⟨0x10000100 * 64 + 0, 8, 1⟩
abbrev SYS_PROFILE_ACTIVE : Fld := ⟨0x10000100 * 64 + 8, 8, 1⟩
abbrev SYS_PROFMASK_MASK : Fld := ⟨0x10000108 * 64 + 0, 64, 1⟩

/-! ### PWR (R439) -/

abbrev PWR_STAT_PFW : Fld := ⟨0x10010000 * 64 + 0, 1, 0⟩
abbrev PWR_STAT_PDSTOP : Fld := ⟨0x10010000 * 64 + 1, 1, 0⟩
abbrev PWR_STAT_HUREADY : Fld := ⟨0x10010000 * 64 + 2, 1, 0⟩
abbrev PWR_STAT_HULOW : Fld := ⟨0x10010000 * 64 + 3, 1, 0⟩
abbrev PWR_STAT_CELLLOW : Fld := ⟨0x10010000 * 64 + 4, 1, 0⟩
abbrev PWR_STAT_CELLABS : Fld := ⟨0x10010000 * 64 + 5, 1, 0⟩
abbrev PWR_STAT_PIT : Fld := ⟨0x10010000 * 64 + 6, 1, 0⟩
abbrev PWR_STAT_SLEEP : Fld := ⟨0x10010000 * 64 + 7, 1, 0⟩
abbrev PWR_CTRL_RESET : Fld := ⟨0x10010008 * 64 + 0, 1, 0⟩
abbrev PWR_CTRL_SLEEP : Fld := ⟨0x10010008 * 64 + 1, 1, 0⟩
abbrev PWR_CTRL_PIT : Fld := ⟨0x10010008 * 64 + 2, 1, 0⟩
abbrev PWR_DOMEN_EN : Fld := ⟨0x10010010 * 64 + 0, 16, 3⟩
abbrev PWR_DOMSTAT_ON : Fld := ⟨0x10010014 * 64 + 0, 16, 3⟩
abbrev PWR_DOMSTAT_READY : Fld := ⟨0x10010014 * 64 + 16, 16, 3⟩
abbrev PWR_PFHOLD_MS : Fld := ⟨0x10010018 * 64 + 0, 6, 0x32⟩
abbrev PWR_VIN_VIN : Fld := ⟨0x1001001C * 64 + 0, 16, 0⟩
abbrev PWR_VIN_VHU : Fld := ⟨0x1001001C * 64 + 16, 16, 0⟩
abbrev PWR_CELLV_MV : Fld := ⟨0x10010020 * 64 + 0, 16, 0⟩
abbrev PWR_HUJ_MJ : Fld := ⟨0x10010024 * 64 + 0, 16, 0⟩
abbrev PWR_WAKEEN_EN : Fld := ⟨0x10010028 * 64 + 0, 4, 0⟩
abbrev PWR_WAKESRC_SRC : Fld := ⟨0x1001002C * 64 + 0, 4, 0⟩
abbrev PWR_SLEEPMASK_MASK : Fld := ⟨0x10010030 * 64 + 0, 16, 0xff3c⟩
abbrev PWR_RIDE_COUNT : Fld := ⟨0x10010038 * 64 + 0, 16, 0⟩
abbrev PWR_RIDE_LAST : Fld := ⟨0x10010038 * 64 + 16, 16, 0⟩
abbrev PWR_RSTCAUSE_CAUSE : Fld := ⟨0x1001003C * 64 + 0, 3, 0⟩
abbrev PWR_LASTFAULT_FAULT : Fld := ⟨0x10010040 * 64 + 0, 16, 0⟩

/-! ### PHS (R59) -/

abbrev PHS_CFG_REF : Fld := ⟨0x10020000 * 64 + 0, 2, 2⟩
abbrev PHS_CFG_WIT : Fld := ⟨0x10020000 * 64 + 4, 2, 3⟩
abbrev PHS_CFG_N : Fld := ⟨0x10020000 * 64 + 8, 7, 0x14⟩
abbrev PHS_CFG_MBW : Fld := ⟨0x10020000 * 64 + 16, 2, 1⟩
abbrev PHS_CFG_MNOM : Fld := ⟨0x10020000 * 64 + 18, 1, 0⟩
abbrev PHS_CFG_SHEN : Fld := ⟨0x10020000 * 64 + 20, 1, 0⟩
abbrev PHS_STAT_LOST : Fld := ⟨0x10020008 * 64 + 0, 1, 0⟩
abbrev PHS_STAT_BANDX : Fld := ⟨0x10020008 * 64 + 1, 1, 0⟩
abbrev PHS_STAT_SLEWING : Fld := ⟨0x10020008 * 64 + 2, 1, 0⟩
abbrev PHS_STAT_SHLOST : Fld := ⟨0x10020008 * 64 + 3, 1, 0⟩
abbrev PHS_STAT_SHREF : Fld := ⟨0x10020008 * 64 + 4, 1, 0⟩
abbrev PHS_STAT_WLOST : Fld := ⟨0x10020008 * 64 + 5, 1, 0⟩
abbrev PHS_STAT_WDIS : Fld := ⟨0x10020008 * 64 + 6, 1, 0⟩
abbrev PHS_STAT_DEFER : Fld := ⟨0x10020008 * 64 + 7, 1, 0⟩
abbrev PHS_STAT_DISC : Fld := ⟨0x10020008 * 64 + 8, 1, 0⟩
abbrev PHS_STAT_PASTC : Fld := ⟨0x10020008 * 64 + 9, 1, 0⟩
abbrev PHS_STAT_SWREF : Fld := ⟨0x10020008 * 64 + 10, 1, 0⟩
abbrev PHS_CTRL_SWITCH : Fld := ⟨0x10020010 * 64 + 0, 1, 0⟩
abbrev PHS_CTRL_TO : Fld := ⟨0x10020010 * 64 + 4, 2, 0⟩
abbrev PHS_FMIN_F : Fld := ⟨0x10020018 * 64 + 0, 32, 0xb98c⟩
abbrev PHS_FMAX_F : Fld := ⟨0x1002001C * 64 + 0, 32, 0xc92c⟩
abbrev PHS_NETPER_PER : Fld := ⟨0x10020020 * 64 + 0, 32, 0x1312d00⟩
abbrev PHS_XTALPER_PER : Fld := ⟨0x10020024 * 64 + 0, 32, 0x7a120⟩
abbrev PHS_SLEW_PPM : Fld := ⟨0x10020028 * 64 + 0, 16, 0x7d0⟩
abbrev PHS_MAINSMIN_VMIN : Fld := ⟨0x1002002C * 64 + 0, 16, 0x47e⟩
abbrev PHS_RELOCKT_MS : Fld := ⟨0x10020030 * 64 + 0, 16, 0x3e8⟩
abbrev PHS_PHASE_PHASE : Fld := ⟨0x10020038 * 64 + 0, 32, 0⟩
abbrev PHS_PHASE_TURN : Fld := ⟨0x10020038 * 64 + 32, 32, 0⟩
abbrev PHS_INC_INC : Fld := ⟨0x10020040 * 64 + 0, 48, 0x218def416bd⟩
abbrev PHS_SHPHASE_PHASE : Fld := ⟨0x10020050 * 64 + 0, 32, 0⟩
abbrev PHS_SHPHASE_TURN : Fld := ⟨0x10020050 * 64 + 32, 32, 0⟩
abbrev PHS_SHCFG_LINES : Fld := ⟨0x10020058 * 64 + 0, 16, 0x3ff⟩
abbrev PHS_SHCFG_DIRINV : Fld := ⟨0x10020058 * 64 + 16, 1, 0⟩
abbrev PHS_SHCFG_IDXCHK : Fld := ⟨0x10020058 * 64 + 17, 1, 1⟩
abbrev PHS_SHCFG_INTERP : Fld := ⟨0x10020058 * 64 + 18, 1, 1⟩
abbrev PHS_SHSPEED_CPS : Fld := ⟨0x10020060 * 64 + 0, 32, 0⟩
abbrev PHS_WDIFF_DIFF : Fld := ⟨0x10020068 * 64 + 0, 32, 0⟩
abbrev PHS_WFOFF_FOFF : Fld := ⟨0x1002006C * 64 + 0, 32, 0⟩
abbrev PHS_WTHR_THR : Fld := ⟨0x10020070 * 64 + 0, 32, 0xb60b60⟩
abbrev PHS_EVLAST_SLOT : Fld := ⟨0x10020078 * 64 + 0, 10, 0⟩
abbrev PHS_EVLAST_CODE : Fld := ⟨0x10020078 * 64 + 16, 8, 0⟩
abbrev PHS_EVLAST_COUNT : Fld := ⟨0x10020078 * 64 + 24, 8, 0⟩
abbrev PHS_DEFERCNT_COUNT : Fld := ⟨0x10020080 * 64 + 0, 32, 0⟩
abbrev PHS_DISCCNT_COUNT : Fld := ⟨0x10020084 * 64 + 0, 32, 0⟩
abbrev PHS_MOFS_OFS : Fld := ⟨0x10020088 * 64 + 0, 32, 0⟩
abbrev PHS_SHOFS_OFS : Fld := ⟨0x10020090 * 64 + 0, 32, 0⟩
abbrev PHS_SHLATCH_VALUE : Fld := ⟨0x10020098 * 64 + 0, 64, 0⟩
abbrev PHS_LASTFAULT_FAULT : Fld := ⟨0x100200A0 * 64 + 0, 16, 0⟩
abbrev PHS_SLOT_WORD (i : Nat) (j : Nat) : Fld := ⟨(0x10024000 + 0x10 * i + 0x4 * j) * 64 + 0, 32, 0⟩

/-! ### TSK (R109) -/

abbrev TSK_CFG_START : Fld := ⟨0x10030000 * 64 + 0, 2, 0⟩
abbrev TSK_CFG_HOLDSAFE : Fld := ⟨0x10030000 * 64 + 2, 1, 0⟩
abbrev TSK_CFG_BRKEN : Fld := ⟨0x10030000 * 64 + 3, 1, 0⟩
abbrev TSK_CFG_SAFEINEN : Fld := ⟨0x10030000 * 64 + 4, 1, 1⟩
abbrev TSK_CFG_CARRYLEN : Fld := ⟨0x10030000 * 64 + 5, 1, 0⟩
abbrev TSK_CFG_LENESC : Fld := ⟨0x10030000 * 64 + 8, 8, 0⟩
abbrev TSK_CTRL_CMD : Fld := ⟨0x10030008 * 64 + 0, 4, 0⟩
abbrev TSK_CTRL_CLRFLT : Fld := ⟨0x10030008 * 64 + 4, 1, 0⟩
abbrev TSK_STAT_MODE : Fld := ⟨0x10030010 * 64 + 0, 2, 0⟩
abbrev TSK_STAT_STEP : Fld := ⟨0x10030010 * 64 + 2, 1, 0⟩
abbrev TSK_STAT_PEND : Fld := ⟨0x10030010 * 64 + 3, 1, 0⟩
abbrev TSK_STAT_FLT : Fld := ⟨0x10030010 * 64 + 4, 1, 0⟩
abbrev TSK_STAT_CAUSE : Fld := ⟨0x10030010 * 64 + 8, 4, 0⟩
abbrev TSK_STAT_ORPHAN : Fld := ⟨0x10030010 * 64 + 12, 1, 0⟩
abbrev TSK_STAT_LENW : Fld := ⟨0x10030010 * 64 + 13, 1, 0⟩
abbrev TSK_FAULT_FAULT : Fld := ⟨0x10030018 * 64 + 0, 16, 0⟩
abbrev TSK_FAULT_MASTER : Fld := ⟨0x10030018 * 64 + 16, 4, 0⟩
abbrev TSK_FAULT_TASK : Fld := ⟨0x10030018 * 64 + 24, 6, 0x3f⟩
abbrev TSK_FAULTPH_PHASE : Fld := ⟨0x10030020 * 64 + 0, 32, 0⟩
abbrev TSK_FAULTPH_TURN : Fld := ⟨0x10030020 * 64 + 32, 32, 0⟩
abbrev TSK_CYCCNT_COUNT : Fld := ⟨0x10030028 * 64 + 0, 32, 0⟩
abbrev TSK_BRK_IP : Fld := ⟨0x10030030 * 64 + 0, 32, 0⟩
abbrev TSK_BRK_ENG : Fld := ⟨0x10030030 * 64 + 32, 2, 0⟩
abbrev TSK_BRK_TASK : Fld := ⟨0x10030030 * 64 + 40, 6, 0x3f⟩
abbrev TSK_FORCECNT_USED : Fld := ⟨0x10030038 * 64 + 0, 9, 0⟩
abbrev TSK_FORCECNT_ORPH : Fld := ⟨0x10030038 * 64 + 16, 9, 0⟩
abbrev TSK_IMAGE_ID : Fld := ⟨0x10030040 * 64 + 0, 64, 0⟩
abbrev TSK_RSTAT_KIND : Fld := ⟨0x10030048 * 64 + 0, 2, 0⟩
abbrev TSK_RSTAT_REASON : Fld := ⟨0x10030048 * 64 + 2, 2, 0⟩
abbrev TSK_RSTAT_OLDER : Fld := ⟨0x10030048 * 64 + 4, 1, 0⟩
abbrev TSK_RSTAT_SLOT : Fld := ⟨0x10030048 * 64 + 5, 1, 0⟩
abbrev TSK_RSTAT_SAVING : Fld := ⟨0x10030048 * 64 + 6, 1, 0⟩
abbrev TSK_RSTAT_LOADED : Fld := ⟨0x10030048 * 64 + 7, 1, 0⟩
abbrev TSK_SNAPSEQ_SEQ : Fld := ⟨0x10030050 * 64 + 0, 32, 0⟩
abbrev TSK_TASK_CTL_EN (i : Nat) : Fld := ⟨(0x10030100 + 0x10 * i) * 64 + 0, 1, 0⟩
abbrev TSK_TASK_CTL_LENIENT (i : Nat) : Fld := ⟨(0x10030100 + 0x10 * i) * 64 + 1, 1, 0⟩
abbrev TSK_TASK_CTL_NOTE (i : Nat) : Fld := ⟨(0x10030100 + 0x10 * i) * 64 + 2, 2, 0⟩
abbrev TSK_TASK_CTL_ENG (i : Nat) : Fld := ⟨(0x10030100 + 0x10 * i) * 64 + 4, 2, 0⟩
abbrev TSK_TASK_CTL_PERIOD (i : Nat) : Fld := ⟨(0x10030100 + 0x10 * i) * 64 + 16, 14, 1⟩
abbrev TSK_TASK_COMMIT_COMMIT (i : Nat) : Fld := ⟨(0x10030104 + 0x10 * i) * 64 + 0, 32, 0⟩
abbrev TSK_TASK_OFS_OFS (i : Nat) : Fld := ⟨(0x10030108 + 0x10 * i) * 64 + 0, 14, 0⟩
abbrev TSK_TSTAT_RELCNT_RELCNT (i : Nat) : Fld := ⟨(0x10030400 + 0x10 * i) * 64 + 0, 32, 0⟩
abbrev TSK_TSTAT_MAXRUN_MAXRUN (i : Nat) : Fld := ⟨(0x10030404 + 0x10 * i) * 64 + 0, 32, 0⟩
abbrev TSK_TSTAT_CNT_OVR (i : Nat) : Fld := ⟨(0x10030408 + 0x10 * i) * 64 + 0, 16, 0⟩
abbrev TSK_TSTAT_CNT_SKIP (i : Nat) : Fld := ⟨(0x10030408 + 0x10 * i) * 64 + 16, 16, 0⟩
abbrev TSK_TSTAT_LASTRUN_LASTRUN (i : Nat) : Fld := ⟨(0x1003040C + 0x10 * i) * 64 + 0, 32, 0⟩
abbrev TSK_FORCE_CTL_POINT (i : Nat) : Fld := ⟨(0x10032000 + 0x20 * i) * 64 + 0, 12, 0⟩
abbrev TSK_FORCE_CTL_ORPHAN (i : Nat) : Fld := ⟨(0x10032000 + 0x20 * i) * 64 + 14, 1, 0⟩
abbrev TSK_FORCE_CTL_EN (i : Nat) : Fld := ⟨(0x10032000 + 0x20 * i) * 64 + 15, 1, 0⟩
abbrev TSK_FORCE_VALUE_VALUE (i : Nat) : Fld := ⟨(0x10032008 + 0x20 * i) * 64 + 0, 64, 0⟩
abbrev TSK_FORCE_LIVE_LIVE (i : Nat) : Fld := ⟨(0x10032010 + 0x20 * i) * 64 + 0, 64, 0⟩
abbrev TSK_FORCE_LIVEQ_LIVEQ (i : Nat) : Fld := ⟨(0x10032018 + 0x20 * i) * 64 + 0, 16, 0⟩

/-! ### FBE (R138) -/

abbrev FBE_STAT_STATE (i : Nat) : Fld := ⟨(0x10040000 + 0x10000 * i) * 64 + 0, 2, 0⟩
abbrev FBE_STAT_BANK (i : Nat) : Fld := ⟨(0x10040000 + 0x10000 * i) * 64 + 2, 2, 0⟩
abbrev FBE_STAT_TASK (i : Nat) : Fld := ⟨(0x10040000 + 0x10000 * i) * 64 + 4, 6, 0x3f⟩
abbrev FBE_STAT_DEPTH (i : Nat) : Fld := ⟨(0x10040000 + 0x10000 * i) * 64 + 10, 6, 0⟩
abbrev FBE_TRAP_FAULT (i : Nat) : Fld := ⟨(0x10040008 + 0x10000 * i) * 64 + 0, 16, 0⟩
abbrev FBE_TRAP_TASK (i : Nat) : Fld := ⟨(0x10040008 + 0x10000 * i) * 64 + 16, 6, 0x3f⟩
abbrev FBE_TRAP_BANK (i : Nat) : Fld := ⟨(0x10040008 + 0x10000 * i) * 64 + 22, 2, 0⟩
abbrev FBE_TRAPIP_IP (i : Nat) : Fld := ⟨(0x10040010 + 0x10000 * i) * 64 + 0, 32, 0⟩
abbrev FBE_TRAPWORD_WORD (i : Nat) : Fld := ⟨(0x10040014 + 0x10000 * i) * 64 + 0, 32, 0⟩
abbrev FBE_TADDR_ADDR (i : Nat) : Fld := ⟨(0x10040018 + 0x10000 * i) * 64 + 0, 40, 0⟩
abbrev FBE_EVSUB_SUB (i : Nat) (j : Nat) : Fld := ⟨(0x10040040 + 0x10000 * i + 0x8 * j) * 64 + 0, 64, 0⟩
abbrev FBE_EVLIVE_LIVE (i : Nat) (j : Nat) : Fld := ⟨(0x10040050 + 0x10000 * i + 0x8 * j) * 64 + 0, 64, 0⟩
abbrev FBE_EVSNAP_SNAP (i : Nat) (j : Nat) : Fld := ⟨(0x10040060 + 0x10000 * i + 0x8 * j) * 64 + 0, 64, 0⟩
abbrev FBE_BANK_X_X (i : Nat) (j : Nat) (k : Nat) : Fld := ⟨(0x10041000 + 0x10000 * i + 0x100 * j + 0x8 * k) * 64 + 0, 64, 0⟩
abbrev FBE_BANK_IB_IB (i : Nat) (j : Nat) : Fld := ⟨(0x10041080 + 0x10000 * i + 0x100 * j) * 64 + 0, 40, 0⟩
abbrev FBE_BANK_LB_LB (i : Nat) (j : Nat) : Fld := ⟨(0x10041088 + 0x10000 * i + 0x100 * j) * 64 + 0, 40, 0⟩
abbrev FBE_BANK_IP_IP (i : Nat) (j : Nat) : Fld := ⟨(0x10041090 + 0x10000 * i + 0x100 * j) * 64 + 0, 32, 0⟩
abbrev FBE_BANK_FS_FS (i : Nat) (j : Nat) : Fld := ⟨(0x10041098 + 0x10000 * i + 0x100 * j) * 64 + 0, 5, 0⟩
abbrev FBE_BANK_KB_KB (i : Nat) (j : Nat) : Fld := ⟨(0x100410A0 + 0x10000 * i + 0x100 * j) * 64 + 0, 40, 0⟩
abbrev FBE_BANK_WB_WB (i : Nat) (j : Nat) : Fld := ⟨(0x100410A8 + 0x10000 * i + 0x100 * j) * 64 + 0, 40, 0⟩
abbrev FBE_BANK_WLIM_WLIM (i : Nat) (j : Nat) : Fld := ⟨(0x100410B0 + 0x10000 * i + 0x100 * j) * 64 + 0, 40, 0⟩
abbrev FBE_BANK_SLIM_SLIM (i : Nat) (j : Nat) : Fld := ⟨(0x100410B8 + 0x10000 * i + 0x100 * j) * 64 + 0, 40, 0⟩

/-! ### LPE (R212) -/

abbrev LPE_STAT_ACTIVE : Fld := ⟨0x10080000 * 64 + 0, 1, 1⟩
abbrev LPE_STAT_NAN : Fld := ⟨0x10080000 * 64 + 1, 1, 0⟩
abbrev LPE_STAT_SLEW : Fld := ⟨0x10080000 * 64 + 2, 1, 0⟩
abbrev LPE_FRAME_COUNT : Fld := ⟨0x10080008 * 64 + 0, 64, 0⟩
abbrev LPE_HYPER_H : Fld := ⟨0x10080010 * 64 + 0, 25, 1⟩
abbrev LPE_HIDX_IDX : Fld := ⟨0x10080014 * 64 + 0, 24, 0⟩
abbrev LPE_NANLAST_LOOP : Fld := ⟨0x10080018 * 64 + 0, 8, 0⟩
abbrev LPE_NANLAST_COUNT : Fld := ⟨0x10080018 * 64 + 24, 8, 0⟩
abbrev LPE_LASTFAULT_FAULT : Fld := ⟨0x10080020 * 64 + 0, 16, 0⟩
abbrev LPE_CADDR_LOOP : Fld := ⟨0x10080030 * 64 + 0, 8, 0⟩
abbrev LPE_CADDR_BANK : Fld := ⟨0x10080030 * 64 + 8, 1, 0⟩
abbrev LPE_CADDR_DECL : Fld := ⟨0x10080030 * 64 + 9, 1, 0⟩
abbrev LPE_CADDR_INDEX : Fld := ⟨0x10080030 * 64 + 10, 7, 0⟩
abbrev LPE_CDATA_VALUE : Fld := ⟨0x10080034 * 64 + 0, 32, 0⟩
abbrev LPE_LDECL_WORD (i : Nat) (j : Nat) : Fld := ⟨(0x10081000 + 0x40 * i + 0x4 * j) * 64 + 0, 32, 0⟩
abbrev LPE_LDECL_CL_CLAIMED (i : Nat) : Fld := ⟨(0x1008102C + 0x40 * i) * 64 + 0, 1, 0⟩
abbrev LPE_LSTAT_EN (i : Nat) : Fld := ⟨(0x10085000 + 0x4 * i) * 64 + 0, 1, 0⟩
abbrev LPE_LSTAT_MAN (i : Nat) : Fld := ⟨(0x10085000 + 0x4 * i) * 64 + 1, 1, 0⟩
abbrev LPE_LSTAT_OWN (i : Nat) : Fld := ⟨(0x10085000 + 0x4 * i) * 64 + 2, 1, 0⟩
abbrev LPE_LSTAT_TRACK (i : Nat) : Fld := ⟨(0x10085000 + 0x4 * i) * 64 + 3, 1, 0⟩
abbrev LPE_LSTAT_SLEW (i : Nat) : Fld := ⟨(0x10085000 + 0x4 * i) * 64 + 4, 1, 0⟩
abbrev LPE_LSTAT_RAMPING (i : Nat) : Fld := ⟨(0x10085000 + 0x4 * i) * 64 + 5, 1, 0⟩
abbrev LPE_LSTAT_CLHI (i : Nat) : Fld := ⟨(0x10085000 + 0x4 * i) * 64 + 6, 1, 0⟩
abbrev LPE_LSTAT_CLLO (i : Nat) : Fld := ⟨(0x10085000 + 0x4 * i) * 64 + 7, 1, 0⟩
abbrev LPE_LSTAT_NANSEEN (i : Nat) : Fld := ⟨(0x10085000 + 0x4 * i) * 64 + 8, 1, 0⟩
abbrev LPE_LSTAT_SRCQ (i : Nat) : Fld := ⟨(0x10085000 + 0x4 * i) * 64 + 9, 1, 0⟩
abbrev LPE_LSTAT_ACTB (i : Nat) : Fld := ⟨(0x10085000 + 0x4 * i) * 64 + 10, 1, 0⟩
abbrev LPE_LSTAT_SWPEND (i : Nat) : Fld := ⟨(0x10085000 + 0x4 * i) * 64 + 11, 1, 0⟩
abbrev LPE_LSTAT_HELD (i : Nat) : Fld := ⟨(0x10085000 + 0x4 * i) * 64 + 12, 1, 0⟩

/-! ### SLR (R246) -/

abbrev SLR_ID_KIND (i : Nat) : Fld := ⟨(0x10090000 + 0x2000 * i) * 64 + 0, 4, 0⟩
abbrev SLR_ID_ISSUE (i : Nat) : Fld := ⟨(0x10090000 + 0x2000 * i) * 64 + 8, 8, 0⟩
abbrev SLR_FW_VERSION (i : Nat) : Fld := ⟨(0x10090004 + 0x2000 * i) * 64 + 0, 16, 0⟩
abbrev SLR_FW_BANK (i : Nat) : Fld := ⟨(0x10090004 + 0x2000 * i) * 64 + 16, 1, 0⟩
abbrev SLR_SSTAT_PRESENT (i : Nat) : Fld := ⟨(0x10090008 + 0x2000 * i) * 64 + 0, 1, 0⟩
abbrev SLR_SSTAT_SAFE (i : Nat) : Fld := ⟨(0x10090008 + 0x2000 * i) * 64 + 1, 1, 0⟩
abbrev SLR_SSTAT_WDTRIP (i : Nat) : Fld := ⟨(0x10090008 + 0x2000 * i) * 64 + 2, 1, 0⟩
abbrev SLR_SSTAT_SYNCERR (i : Nat) : Fld := ⟨(0x10090008 + 0x2000 * i) * 64 + 3, 1, 0⟩
abbrev SLR_SSTAT_FS_LOW (i : Nat) : Fld := ⟨(0x10090008 + 0x2000 * i) * 64 + 4, 1, 0⟩
abbrev SLR_SSTAT_FS_MISSING (i : Nat) : Fld := ⟨(0x10090008 + 0x2000 * i) * 64 + 5, 1, 0⟩
abbrev SLR_SSTAT_SUMOVER (i : Nat) : Fld := ⟨(0x10090008 + 0x2000 * i) * 64 + 6, 1, 0⟩
abbrev SLR_SSTAT_ANFLT (i : Nat) : Fld := ⟨(0x10090008 + 0x2000 * i) * 64 + 7, 4, 0⟩
abbrev SLR_ALIGN_ERR (i : Nat) : Fld := ⟨(0x1009000C + 0x2000 * i) * 64 + 0, 32, 0⟩
abbrev SLR_ERRCNT_BAD (i : Nat) : Fld := ⟨(0x10090010 + 0x2000 * i) * 64 + 0, 16, 0⟩
abbrev SLR_ERRCNT_WDTRIPS (i : Nat) : Fld := ⟨(0x10090010 + 0x2000 * i) * 64 + 16, 16, 0⟩
abbrev SLR_CFG_DIFSQ (i : Nat) : Fld := ⟨(0x10090040 + 0x2000 * i) * 64 + 0, 1, 0⟩
abbrev SLR_FSV_V (i : Nat) : Fld := ⟨(0x10090044 + 0x2000 * i) * 64 + 0, 16, 0⟩
abbrev SLR_DIIN_STATE (i : Nat) : Fld := ⟨(0x10090048 + 0x2000 * i) * 64 + 0, 12, 0⟩
abbrev SLR_DICFG_DEBOUNCE (i : Nat) (j : Nat) : Fld := ⟨(0x10090100 + 0x2000 * i + 0x4 * j) * 64 + 0, 16, 0⟩
abbrev SLR_DICFG_STAMP (i : Nat) (j : Nat) : Fld := ⟨(0x10090100 + 0x2000 * i + 0x4 * j) * 64 + 16, 2, 0⟩
abbrev SLR_DICFG_CNTEDGE (i : Nat) (j : Nat) : Fld := ⟨(0x10090100 + 0x2000 * i + 0x4 * j) * 64 + 18, 2, 0⟩
abbrev SLR_DICNTL_COUNT (i : Nat) (j : Nat) : Fld := ⟨(0x10090140 + 0x2000 * i + 0x4 * j) * 64 + 0, 32, 0⟩
abbrev SLR_LATCH_SEQ (i : Nat) : Fld := ⟨(0x10090170 + 0x2000 * i) * 64 + 0, 32, 0⟩
abbrev SLR_LATCHT_TIME (i : Nat) : Fld := ⟨(0x10090178 + 0x2000 * i) * 64 + 0, 64, 0⟩
abbrev SLR_DOCFG_MODE (i : Nat) (j : Nat) : Fld := ⟨(0x10090200 + 0x2000 * i + 0x8 * j) * 64 + 0, 1, 0⟩
abbrev SLR_DOCFG_SAFE (i : Nat) (j : Nat) : Fld := ⟨(0x10090200 + 0x2000 * i + 0x8 * j) * 64 + 1, 1, 0⟩
abbrev SLR_DOCFG_THERM (i : Nat) (j : Nat) : Fld := ⟨(0x10090200 + 0x2000 * i + 0x8 * j) * 64 + 2, 1, 0⟩
abbrev SLR_DOCFG_OLDET (i : Nat) (j : Nat) : Fld := ⟨(0x10090200 + 0x2000 * i + 0x8 * j) * 64 + 3, 1, 0⟩
abbrev SLR_DOCFG_PER_PWMPER (i : Nat) (j : Nat) : Fld := ⟨(0x10090204 + 0x2000 * i + 0x8 * j) * 64 + 0, 32, 0x3e8⟩
abbrev SLR_DOSTAT_STATE (i : Nat) (j : Nat) : Fld := ⟨(0x10090280 + 0x2000 * i + 0x4 * j) * 64 + 0, 3, 0⟩
abbrev SLR_DOSTAT_SHUTCNT (i : Nat) (j : Nat) : Fld := ⟨(0x10090280 + 0x2000 * i + 0x4 * j) * 64 + 16, 16, 0⟩
abbrev SLR_DOREL_REL (i : Nat) : Fld := ⟨(0x100902A0 + 0x2000 * i) * 64 + 0, 8, 0⟩
abbrev SLR_AICFG_MODE (i : Nat) (j : Nat) : Fld := ⟨(0x10090300 + 0x2000 * i + 0x10 * j) * 64 + 0, 1, 0⟩
abbrev SLR_AICFG_ELO_ELO (i : Nat) (j : Nat) : Fld := ⟨(0x10090304 + 0x2000 * i + 0x10 * j) * 64 + 0, 32, 0⟩
abbrev SLR_AICFG_EHI_EHI (i : Nat) (j : Nat) : Fld := ⟨(0x10090308 + 0x2000 * i + 0x10 * j) * 64 + 0, 32, 0x3f800000⟩
abbrev SLR_AOCFG_MODE (i : Nat) (j : Nat) : Fld := ⟨(0x10090340 + 0x2000 * i + 0x10 * j) * 64 + 0, 1, 0⟩
abbrev SLR_AOCFG_ELO_ELO (i : Nat) (j : Nat) : Fld := ⟨(0x10090344 + 0x2000 * i + 0x10 * j) * 64 + 0, 32, 0⟩
abbrev SLR_AOCFG_EHI_EHI (i : Nat) (j : Nat) : Fld := ⟨(0x10090348 + 0x2000 * i + 0x10 * j) * 64 + 0, 32, 0x3f800000⟩
abbrev SLR_AOCFG_SAFE_SAFE (i : Nat) (j : Nat) : Fld := ⟨(0x1009034C + 0x2000 * i + 0x10 * j) * 64 + 0, 32, 0⟩
abbrev SLR_STAMPWR_COUNT (i : Nat) : Fld := ⟨(0x10090400 + 0x2000 * i) * 64 + 0, 32, 0⟩
abbrev SLR_STAMPDROP_COUNT (i : Nat) : Fld := ⟨(0x10090404 + 0x2000 * i) * 64 + 0, 32, 0⟩
abbrev SLR_STAMP_TIME_TIME (i : Nat) (j : Nat) : Fld := ⟨(0x10091000 + 0x2000 * i + 0x10 * j) * 64 + 0, 64, 0⟩
abbrev SLR_STAMP_REST_REST (i : Nat) (j : Nat) : Fld := ⟨(0x10091008 + 0x2000 * i + 0x10 * j) * 64 + 0, 64, 0⟩
abbrev SLR_RING_PRESENT : Fld := ⟨0x1009C000 * 64 + 0, 6, 0⟩
abbrev SLR_RING_BROKEN : Fld := ⟨0x1009C000 * 64 + 8, 1, 0⟩
abbrev SLR_RING_SAFE : Fld := ⟨0x1009C000 * 64 + 9, 1, 0⟩
abbrev SLR_RINGCNT_BREAKS : Fld := ⟨0x1009C004 * 64 + 0, 16, 0⟩
abbrev SLR_RINGCNT_BADRET : Fld := ⟨0x1009C004 * 64 + 16, 16, 0⟩
abbrev SLR_LASTFAULT_FAULT : Fld := ⟨0x1009C008 * 64 + 0, 16, 0⟩
abbrev SLR_LASTFAULT_SLICE : Fld := ⟨0x1009C008 * 64 + 16, 4, 0⟩
abbrev SLR_LASTFAULT_CHAN : Fld := ⟨0x1009C008 * 64 + 24, 4, 0⟩
abbrev SLR_BURSTBASE_ADDR : Fld := ⟨0x1009C010 * 64 + 0, 40, 0⟩

/-! ### MET (R272) -/

abbrev MET_STAT_PUBE : Fld := ⟨0x100A0000 * 64 + 0, 1, 0⟩
abbrev MET_STAT_PUBF : Fld := ⟨0x100A0000 * 64 + 1, 1, 0⟩
abbrev MET_LASTFAULT_FAULT : Fld := ⟨0x100A0008 * 64 + 0, 16, 0⟩
abbrev MET_LASTFAULT_FEEDER : Fld := ⟨0x100A0008 * 64 + 16, 4, 0⟩
abbrev MET_FCFG_NOM (i : Nat) : Fld := ⟨(0x100A0100 + 0x40 * i) * 64 + 0, 1, 0⟩
abbrev MET_FCFG_INOM (i : Nat) : Fld := ⟨(0x100A0100 + 0x40 * i) * 64 + 1, 1, 1⟩
abbrev MET_FCFG_VTR_VTR (i : Nat) : Fld := ⟨(0x100A0104 + 0x40 * i) * 64 + 0, 32, 0x3f800000⟩
abbrev MET_FCFG_CTR_CTR (i : Nat) : Fld := ⟨(0x100A0108 + 0x40 * i) * 64 + 0, 32, 0x3f800000⟩
abbrev MET_FCFG_VMIN_VMIN (i : Nat) : Fld := ⟨(0x100A010C + 0x40 * i) * 64 + 0, 32, 0x43480000⟩
abbrev MET_FCFG_ISTART_ISTART (i : Nat) : Fld := ⟨(0x100A0110 + 0x40 * i) * 64 + 0, 32, 0x3ba3d70a⟩
abbrev MET_FSTAT_PRESENT (i : Nat) : Fld := ⟨(0x100A0200 + 0x40 * i) * 64 + 0, 1, 0⟩
abbrev MET_FSTAT_LOCK (i : Nat) : Fld := ⟨(0x100A0200 + 0x40 * i) * 64 + 1, 1, 0⟩
abbrev MET_FSTAT_HOLDOVER (i : Nat) : Fld := ⟨(0x100A0200 + 0x40 * i) * 64 + 2, 1, 0⟩
abbrev MET_FSTAT_LOSS (i : Nat) : Fld := ⟨(0x100A0200 + 0x40 * i) * 64 + 3, 1, 0⟩
abbrev MET_FSTAT_VCLIP (i : Nat) : Fld := ⟨(0x100A0200 + 0x40 * i) * 64 + 4, 4, 0⟩
abbrev MET_FSTAT_ICLIP (i : Nat) : Fld := ⟨(0x100A0200 + 0x40 * i) * 64 + 8, 4, 0⟩
abbrev MET_FSTAT_SEQ (i : Nat) : Fld := ⟨(0x100A0200 + 0x40 * i) * 64 + 16, 16, 0⟩
abbrev MET_UNMET_UNMET (i : Nat) : Fld := ⟨(0x100A0204 + 0x40 * i) * 64 + 0, 32, 0⟩
abbrev MET_FASTP_FASTP (i : Nat) : Fld := ⟨(0x100A0208 + 0x40 * i) * 64 + 0, 32, 0⟩
abbrev MET_CAL_VGAIN_VGAIN (i : Nat) (j : Nat) : Fld := ⟨(0x100A0400 + 0x100 * i + 0x20 * j) * 64 + 0, 32, 0x3f800000⟩
abbrev MET_CAL_VRMSOS_VRMSOS (i : Nat) (j : Nat) : Fld := ⟨(0x100A0404 + 0x100 * i + 0x20 * j) * 64 + 0, 32, 0⟩
abbrev MET_CAL_IGAIN_IGAIN (i : Nat) (j : Nat) : Fld := ⟨(0x100A0408 + 0x100 * i + 0x20 * j) * 64 + 0, 32, 0x3f800000⟩
abbrev MET_CAL_IRMSOS_IRMSOS (i : Nat) (j : Nat) : Fld := ⟨(0x100A040C + 0x100 * i + 0x20 * j) * 64 + 0, 32, 0⟩
abbrev MET_CAL_PHTRIM_PHTRIM (i : Nat) (j : Nat) : Fld := ⟨(0x100A0410 + 0x100 * i + 0x20 * j) * 64 + 0, 16, 0⟩
abbrev MET_CAL_PGAIN_PGAIN (i : Nat) (j : Nat) : Fld := ⟨(0x100A0414 + 0x100 * i + 0x20 * j) * 64 + 0, 32, 0x3f800000⟩
abbrev MET_CAL_POS_POS (i : Nat) (j : Nat) : Fld := ⟨(0x100A0418 + 0x100 * i + 0x20 * j) * 64 + 0, 32, 0⟩
abbrev MET_CAL_Q_QOS (i : Nat) (j : Nat) : Fld := ⟨(0x100A041C + 0x100 * i + 0x20 * j) * 64 + 0, 16, 0⟩
abbrev MET_CAL_Q_QGAIN (i : Nat) (j : Nat) : Fld := ⟨(0x100A041C + 0x100 * i + 0x20 * j) * 64 + 16, 16, 0x3f80⟩
abbrev MET_PCFG_EN (i : Nat) : Fld := ⟨(0x100A0800 + 0x10 * i) * 64 + 0, 1, 0⟩
abbrev MET_PCFG_QTY (i : Nat) : Fld := ⟨(0x100A0800 + 0x10 * i) * 64 + 16, 16, 0⟩
abbrev MET_PCFG_WT_WT (i : Nat) : Fld := ⟨(0x100A0804 + 0x10 * i) * 64 + 0, 32, 0⟩
abbrev MET_PCFG_W_WIDTH (i : Nat) : Fld := ⟨(0x100A0808 + 0x10 * i) * 64 + 0, 9, 0x64⟩
abbrev MET_PCFG_W_DO (i : Nat) : Fld := ⟨(0x100A0808 + 0x10 * i) * 64 + 16, 6, 0x3f⟩
abbrev MET_PSTAT_BACKLOG (i : Nat) : Fld := ⟨(0x100A0900 + 0x10 * i) * 64 + 0, 1, 0⟩
abbrev MET_PSTAT_ACTIVE (i : Nat) : Fld := ⟨(0x100A0900 + 0x10 * i) * 64 + 1, 1, 0⟩
abbrev MET_PENDING_PENDING (i : Nat) : Fld := ⟨(0x100A0904 + 0x10 * i) * 64 + 0, 32, 0⟩
abbrev MET_EMITTED_EMITTED (i : Nat) : Fld := ⟨(0x100A0908 + 0x10 * i) * 64 + 0, 32, 0⟩
abbrev MET_LOST_LOST (i : Nat) : Fld := ⟨(0x100A090C + 0x10 * i) * 64 + 0, 32, 0⟩
abbrev MET_VALUE_VALUE (i : Nat) (j : Nat) (k : Nat) : Fld := ⟨(0x100A2000 + 0x1000 * i + 0x100 * j + 0x4 * k) * 64 + 0, 32, 0⟩
abbrev MET_ENERGY_VALUE (i : Nat) (j : Nat) (k : Nat) : Fld := ⟨(0x100A4000 + 0x4000 * i + 0x800 * j + 0x8 * k) * 64 + 0, 40, 0⟩
abbrev MET_ENERGY_WRAP (i : Nat) (j : Nat) (k : Nat) : Fld := ⟨(0x100A4000 + 0x4000 * i + 0x800 * j + 0x8 * k) * 64 + 40, 8, 0⟩
abbrev MET_ENERGY_SEQ (i : Nat) (j : Nat) (k : Nat) : Fld := ⟨(0x100A4000 + 0x4000 * i + 0x800 * j + 0x8 * k) * 64 + 48, 16, 0⟩

/-! ### MEM (R287) -/

abbrev MEM_STAT_INITDONE : Fld := ⟨0x100B0000 * 64 + 0, 1, 0⟩
abbrev MEM_STAT_ZEROING : Fld := ⟨0x100B0000 * 64 + 1, 1, 0⟩
abbrev MEM_STAT_DIRTY : Fld := ⟨0x100B0000 * 64 + 2, 3, 0⟩
abbrev MEM_STAT_SPOILLOST : Fld := ⟨0x100B0000 * 64 + 5, 1, 0⟩
abbrev MEM_STAT_RETBUSY : Fld := ⟨0x100B0000 * 64 + 6, 1, 0⟩
abbrev MEM_FRONT_ADDR : Fld := ⟨0x100B0008 * 64 + 0, 40, 0x100000000⟩
abbrev MEM_SCRUBCFG_HOURS : Fld := ⟨0x100B0010 * 64 + 0, 5, 0x18⟩
abbrev MEM_SCRUBSTAT_DPASS : Fld := ⟨0x100B0014 * 64 + 0, 16, 0⟩
abbrev MEM_SCRUBSTAT_SPASS : Fld := ⟨0x100B0014 * 64 + 16, 16, 0⟩
abbrev MEM_LASTFAULT_FAULT : Fld := ⟨0x100B0018 * 64 + 0, 16, 0⟩
abbrev MEM_LASTFAULT_MASTER : Fld := ⟨0x100B0018 * 64 + 16, 4, 0⟩
abbrev MEM_BKT_LEVEL (i : Nat) : Fld := ⟨(0x100B0040 + 0x10 * i) * 64 + 0, 16, 0⟩
abbrev MEM_BKT_OVF (i : Nat) : Fld := ⟨(0x100B0040 + 0x10 * i) * 64 + 16, 1, 0⟩
abbrev MEM_BKT_CLR (i : Nat) : Fld := ⟨(0x100B0040 + 0x10 * i) * 64 + 17, 1, 0⟩
abbrev MEM_BKT_THR0_THR : Fld := ⟨0x100B0044 * 64 + 0, 16, 0x10⟩
abbrev MEM_BKT_THR_THR (i : Nat) : Fld := ⟨(0x100B0054 + 0x10 * i) * 64 + 0, 16, 4⟩
abbrev MEM_BKT_LEAK_LEAK (i : Nat) : Fld := ⟨(0x100B0048 + 0x10 * i) * 64 + 0, 32, 0x36ee80⟩
abbrev MEM_BKT_CECNT_CECNT (i : Nat) : Fld := ⟨(0x100B004C + 0x10 * i) * 64 + 0, 32, 0⟩
abbrev MEM_LOGWR_COUNT : Fld := ⟨0x100B0080 * 64 + 0, 32, 0⟩
abbrev MEM_UECNT_COUNT : Fld := ⟨0x100B0084 * 64 + 0, 32, 0⟩
abbrev MEM_UELAST_ADDR : Fld := ⟨0x100B0088 * 64 + 0, 40, 0⟩
abbrev MEM_SPOILCMD_TARGET : Fld := ⟨0x100B0100 * 64 + 0, 40, 0⟩
abbrev MEM_SPOILCMD_KIND : Fld := ⟨0x100B0100 * 64 + 40, 1, 0⟩
abbrev MEM_SPOILCMD_GO : Fld := ⟨0x100B0100 * 64 + 41, 1, 0⟩
abbrev MEM_SPOILSTAT_REASON : Fld := ⟨0x100B0108 * 64 + 0, 3, 0⟩
abbrev MEM_SPOILSTAT_DUSED : Fld := ⟨0x100B0108 * 64 + 3, 10, 0⟩
abbrev MEM_SPOILSTAT_SUSED : Fld := ⟨0x100B0108 * 64 + 13, 3, 0⟩
abbrev MEM_BANKMAP_BANK (i : Nat) : Fld := ⟨(0x100B0140 + 0x4 * i) * 64 + 0, 10, 0⟩
abbrev MEM_BANKMAP_VALID (i : Nat) : Fld := ⟨(0x100B0140 + 0x4 * i) * 64 + 31, 1, 0⟩
abbrev MEM_LOG_W0_WORD0 (i : Nat) : Fld := ⟨(0x100B1000 + 0x20 * i) * 64 + 0, 64, 0⟩
abbrev MEM_LOG_W1_WORD1 (i : Nat) : Fld := ⟨(0x100B1008 + 0x20 * i) * 64 + 0, 64, 0⟩
abbrev MEM_LOG_TIME_TIME (i : Nat) : Fld := ⟨(0x100B1010 + 0x20 * i) * 64 + 0, 64, 0⟩
abbrev MEM_LOG_LAST_LAST (i : Nat) : Fld := ⟨(0x100B1018 + 0x20 * i) * 64 + 0, 64, 0⟩
abbrev MEM_REMAP_PAGE (i : Nat) : Fld := ⟨(0x100B2000 + 0x4 * i) * 64 + 0, 21, 0⟩
abbrev MEM_REMAP_BAD (i : Nat) : Fld := ⟨(0x100B2000 + 0x4 * i) * 64 + 30, 1, 0⟩
abbrev MEM_REMAP_VALID (i : Nat) : Fld := ⟨(0x100B2000 + 0x4 * i) * 64 + 31, 1, 0⟩

/-! ### NET (R322) -/

abbrev NET_STAT_LINKA : Fld := ⟨0x100C0000 * 64 + 0, 1, 0⟩
abbrev NET_STAT_LINKB : Fld := ⟨0x100C0000 * 64 + 1, 1, 0⟩
abbrev NET_STAT_SPEEDA : Fld := ⟨0x100C0000 * 64 + 2, 2, 0⟩
abbrev NET_STAT_SPEEDB : Fld := ⟨0x100C0000 * 64 + 4, 2, 0⟩
abbrev NET_STAT_HOLDA : Fld := ⟨0x100C0000 * 64 + 6, 1, 0⟩
abbrev NET_STAT_HOLDB : Fld := ⟨0x100C0000 * 64 + 7, 1, 0⟩
abbrev NET_STAT_XOFF : Fld := ⟨0x100C0000 * 64 + 8, 1, 0⟩
abbrev NET_STAT_TBLFULL : Fld := ⟨0x100C0000 * 64 + 9, 1, 0⟩
abbrev NET_LASTFAULT_FAULT : Fld := ⟨0x100C0008 * 64 + 0, 16, 0⟩
abbrev NET_PORTCFG_EN (i : Nat) : Fld := ⟨(0x100C0010 + 0x4 * i) * 64 + 0, 1, 0⟩
abbrev NET_PORTCFG_ADV (i : Nat) : Fld := ⟨(0x100C0010 + 0x4 * i) * 64 + 1, 3, 7⟩
abbrev NET_PORTCFG_RXPAUSE (i : Nat) : Fld := ⟨(0x100C0010 + 0x4 * i) * 64 + 4, 1, 0⟩
abbrev NET_PORTCFG_TXPAUSE (i : Nat) : Fld := ⟨(0x100C0010 + 0x4 * i) * 64 + 5, 1, 0⟩
abbrev NET_SWCFG_CUT : Fld := ⟨0x100C0020 * 64 + 0, 1, 1⟩
abbrev NET_SWCFG_TC : Fld := ⟨0x100C0020 * 64 + 1, 1, 1⟩
abbrev NET_SWCFG_DEFQ : Fld := ⟨0x100C0020 * 64 + 2, 2, 0⟩
abbrev NET_SWAGE_SEC : Fld := ⟨0x100C0024 * 64 + 0, 16, 0x12c⟩
abbrev NET_RXCFG_KEEPBAD : Fld := ⟨0x100C0028 * 64 + 0, 1, 0⟩
abbrev NET_TXTHR_BYTES : Fld := ⟨0x100C002C * 64 + 0, 14, 0x100⟩
abbrev NET_PAUSECFG_XOFF : Fld := ⟨0x100C0030 * 64 + 0, 6, 0x18⟩
abbrev NET_PAUSECFG_XON : Fld := ⟨0x100C0030 * 64 + 8, 6, 8⟩
abbrev NET_PAUSECFG_QUANTA : Fld := ⟨0x100C0030 * 64 + 16, 16, 0x200⟩
abbrev NET_CNTHALF_LO_HALF : Fld := ⟨0x100C0040 * 64 + 0, 64, 0⟩
abbrev NET_CNTHALF_HI_HALF : Fld := ⟨0x100C0048 * 64 + 0, 56, 0⟩
abbrev NET_MACADDR_ADDR : Fld := ⟨0x100C0060 * 64 + 0, 48, 0⟩
abbrev NET_TSQ_ID_INDEX : Fld := ⟨0x100C0080 * 64 + 0, 12, 0⟩
abbrev NET_TSQ_ID_RING : Fld := ⟨0x100C0080 * 64 + 12, 2, 0⟩
abbrev NET_TSQ_ID_PORT : Fld := ⟨0x100C0080 * 64 + 14, 1, 0⟩
abbrev NET_TSQ_ID_VALID : Fld := ⟨0x100C0080 * 64 + 15, 1, 0⟩
abbrev NET_TSQ_SEC_SEC : Fld := ⟨0x100C0088 * 64 + 0, 48, 0⟩
abbrev NET_TSQ_NS_NS : Fld := ⟨0x100C0090 * 64 + 0, 32, 0⟩
abbrev NET_TSQ_POP_POP : Fld := ⟨0x100C0094 * 64 + 0, 1, 0⟩
abbrev NET_TSQ_CNT_LEVEL : Fld := ⟨0x100C0098 * 64 + 0, 6, 0⟩
abbrev NET_TSLAT_TX0_FRAC : Fld := ⟨0x100C00A0 * 64 + 0, 8, 0⟩
abbrev NET_TSLAT_TX0_NS : Fld := ⟨0x100C00A0 * 64 + 8, 24, 0x6e0⟩
abbrev NET_TSLAT_TX1_FRAC : Fld := ⟨0x100C00A4 * 64 + 0, 8, 0⟩
abbrev NET_TSLAT_TX1_NS : Fld := ⟨0x100C00A4 * 64 + 8, 24, 0x138⟩
abbrev NET_TSLAT_TX2_FRAC : Fld := ⟨0x100C00A8 * 64 + 0, 8, 0⟩
abbrev NET_TSLAT_TX2_NS : Fld := ⟨0x100C00A8 * 64 + 8, 24, 0x88⟩
abbrev NET_TSLAT_RX0_FRAC : Fld := ⟨0x100C00B0 * 64 + 0, 8, 0⟩
abbrev NET_TSLAT_RX0_NS : Fld := ⟨0x100C00B0 * 64 + 8, 24, 0x1400⟩
abbrev NET_TSLAT_RX1_FRAC : Fld := ⟨0x100C00B4 * 64 + 0, 8, 0⟩
abbrev NET_TSLAT_RX1_NS : Fld := ⟨0x100C00B4 * 64 + 8, 24, 0x210⟩
abbrev NET_TSLAT_RX2_FRAC : Fld := ⟨0x100C00B8 * 64 + 0, 8, 0⟩
abbrev NET_TSLAT_RX2_NS : Fld := ⟨0x100C00B8 * 64 + 8, 24, 0xe0⟩
abbrev NET_RING_BASE_BASE (i : Nat) : Fld := ⟨(0x100C0100 + 0x20 * i) * 64 + 0, 40, 0⟩
abbrev NET_RING_SIZE_SIZE (i : Nat) : Fld := ⟨(0x100C0108 + 0x20 * i) * 64 + 0, 13, 8⟩
abbrev NET_RING_CTL_EN (i : Nat) : Fld := ⟨(0x100C010C + 0x20 * i) * 64 + 0, 1, 0⟩
abbrev NET_RING_CTL_KICK (i : Nat) : Fld := ⟨(0x100C010C + 0x20 * i) * 64 + 1, 1, 0⟩
abbrev NET_RING_HEAD_HEAD (i : Nat) : Fld := ⟨(0x100C0110 + 0x20 * i) * 64 + 0, 12, 0⟩
abbrev NET_RING_STAT_ERR (i : Nat) : Fld := ⟨(0x100C0114 + 0x20 * i) * 64 + 0, 1, 0⟩
abbrev NET_WAKE_LO_MASKLO (i : Nat) : Fld := ⟨(0x100C0200 + 0x20 * i) * 64 + 0, 64, 0⟩
abbrev NET_WAKE_HI_MASKHI (i : Nat) : Fld := ⟨(0x100C0208 + 0x20 * i) * 64 + 0, 64, 0⟩
abbrev NET_WAKE_CRC_CRC (i : Nat) : Fld := ⟨(0x100C0210 + 0x20 * i) * 64 + 0, 16, 0⟩
abbrev NET_WAKE_CRC_EN (i : Nat) : Fld := ⟨(0x100C0210 + 0x20 * i) * 64 + 16, 1, 0⟩
abbrev NET_WAKESTAT_MATCH : Fld := ⟨0x100C0300 * 64 + 0, 8, 0⟩
abbrev NET_VLANF_VID (i : Nat) : Fld := ⟨(0x100C0400 + 0x4 * i) * 64 + 0, 12, 0⟩
abbrev NET_VLANF_EN (i : Nat) : Fld := ⟨(0x100C0400 + 0x4 * i) * 64 + 16, 1, 0⟩
abbrev NET_CNT_COUNT (i : Nat) (j : Nat) : Fld := ⟨(0x100C1000 + 0x100 * i + 0x4 * j) * 64 + 0, 32, 0⟩

/-! ### FBS (R339) -/

abbrev FBS_CFG_EN (i : Nat) : Fld := ⟨(0x100D0000 + 0x4000 * i) * 64 + 0, 1, 0⟩
abbrev FBS_CFG_FD (i : Nat) : Fld := ⟨(0x100D0000 + 0x4000 * i) * 64 + 1, 1, 0⟩
abbrev FBS_CFG_MODE (i : Nat) : Fld := ⟨(0x100D0000 + 0x4000 * i) * 64 + 2, 1, 0⟩
abbrev FBS_CFG_AUTOREC (i : Nat) : Fld := ⟨(0x100D0000 + 0x4000 * i) * 64 + 3, 1, 1⟩
abbrev FBS_CFG_LISTEN (i : Nat) : Fld := ⟨(0x100D0000 + 0x4000 * i) * 64 + 4, 1, 0⟩
abbrev FBS_CFG_SELFRX (i : Nat) : Fld := ⟨(0x100D0000 + 0x4000 * i) * 64 + 5, 1, 0⟩
abbrev FBS_CFG_ONESHOT (i : Nat) : Fld := ⟨(0x100D0000 + 0x4000 * i) * 64 + 6, 1, 0⟩
abbrev FBS_CFG_TERM (i : Nat) : Fld := ⟨(0x100D0000 + 0x4000 * i) * 64 + 7, 1, 0⟩
abbrev FBS_NBT_NBRP (i : Nat) : Fld := ⟨(0x100D0004 + 0x4000 * i) * 64 + 0, 8, 1⟩
abbrev FBS_NBT_NTSEG1 (i : Nat) : Fld := ⟨(0x100D0004 + 0x4000 * i) * 64 + 8, 8, 0x3e⟩
abbrev FBS_NBT_NTSEG2 (i : Nat) : Fld := ⟨(0x100D0004 + 0x4000 * i) * 64 + 16, 7, 0xf⟩
abbrev FBS_NBT_NSJW (i : Nat) : Fld := ⟨(0x100D0004 + 0x4000 * i) * 64 + 24, 7, 0xf⟩
abbrev FBS_DBT_DBRP (i : Nat) : Fld := ⟨(0x100D0008 + 0x4000 * i) * 64 + 0, 5, 0⟩
abbrev FBS_DBT_DTSEG1 (i : Nat) : Fld := ⟨(0x100D0008 + 0x4000 * i) * 64 + 8, 5, 0x1e⟩
abbrev FBS_DBT_DTSEG2 (i : Nat) : Fld := ⟨(0x100D0008 + 0x4000 * i) * 64 + 16, 4, 7⟩
abbrev FBS_DBT_DSJW (i : Nat) : Fld := ⟨(0x100D0008 + 0x4000 * i) * 64 + 24, 4, 7⟩
abbrev FBS_TDC_TDCEN (i : Nat) : Fld := ⟨(0x100D000C + 0x4000 * i) * 64 + 0, 1, 0⟩
abbrev FBS_TDC_TDCO (i : Nat) : Fld := ⟨(0x100D000C + 0x4000 * i) * 64 + 8, 7, 0x20⟩
abbrev FBS_STAT_STATE (i : Nat) : Fld := ⟨(0x100D0010 + 0x4000 * i) * 64 + 0, 2, 3⟩
abbrev FBS_STAT_RECOV (i : Nat) : Fld := ⟨(0x100D0010 + 0x4000 * i) * 64 + 2, 1, 0⟩
abbrev FBS_STAT_RXFULL (i : Nat) : Fld := ⟨(0x100D0010 + 0x4000 * i) * 64 + 3, 1, 0⟩
abbrev FBS_STAT_RINGERR (i : Nat) : Fld := ⟨(0x100D0010 + 0x4000 * i) * 64 + 4, 1, 0⟩
abbrev FBS_STAT_WRPEND (i : Nat) : Fld := ⟨(0x100D0010 + 0x4000 * i) * 64 + 5, 1, 0⟩
abbrev FBS_STAT_LEC (i : Nat) : Fld := ⟨(0x100D0010 + 0x4000 * i) * 64 + 8, 4, 0⟩
abbrev FBS_ERR_TEC (i : Nat) : Fld := ⟨(0x100D0014 + 0x4000 * i) * 64 + 0, 9, 0⟩
abbrev FBS_ERR_REC (i : Nat) : Fld := ⟨(0x100D0014 + 0x4000 * i) * 64 + 16, 9, 0⟩
abbrev FBS_CTRL_RECOVER (i : Nat) : Fld := ⟨(0x100D0018 + 0x4000 * i) * 64 + 0, 1, 0⟩
abbrev FBS_TXREQ_REQ (i : Nat) : Fld := ⟨(0x100D0020 + 0x4000 * i) * 64 + 0, 3, 0⟩
abbrev FBS_TXCAN_CAN (i : Nat) : Fld := ⟨(0x100D0024 + 0x4000 * i) * 64 + 0, 3, 0⟩
abbrev FBS_TXSENT_COUNT (i : Nat) : Fld := ⟨(0x100D0028 + 0x4000 * i) * 64 + 0, 32, 0⟩
abbrev FBS_RXBASE_ADDR (i : Nat) : Fld := ⟨(0x100D0040 + 0x4000 * i) * 64 + 0, 40, 0⟩
abbrev FBS_RXSIZE_SIZE (i : Nat) : Fld := ⟨(0x100D0048 + 0x4000 * i) * 64 + 0, 4, 8⟩
abbrev FBS_RXWR_COUNT (i : Nat) : Fld := ⟨(0x100D004C + 0x4000 * i) * 64 + 0, 32, 0⟩
abbrev FBS_RXRD_COUNT (i : Nat) : Fld := ⟨(0x100D0050 + 0x4000 * i) * 64 + 0, 32, 0⟩
abbrev FBS_RXDROP_COUNT (i : Nat) : Fld := ⟨(0x100D0054 + 0x4000 * i) * 64 + 0, 32, 0⟩
abbrev FBS_LASTFAULT_FAULT (i : Nat) : Fld := ⟨(0x100D0060 + 0x4000 * i) * 64 + 0, 16, 0⟩
abbrev FBS_TXB_ID_ID (i : Nat) (j : Nat) : Fld := ⟨(0x100D0100 + 0x4000 * i + 0x80 * j) * 64 + 0, 29, 0⟩
abbrev FBS_TXB_ID_IDE (i : Nat) (j : Nat) : Fld := ⟨(0x100D0100 + 0x4000 * i + 0x80 * j) * 64 + 29, 1, 0⟩
abbrev FBS_TXB_ID_RTR (i : Nat) (j : Nat) : Fld := ⟨(0x100D0100 + 0x4000 * i + 0x80 * j) * 64 + 30, 1, 0⟩
abbrev FBS_TXB_CTL_DLC (i : Nat) (j : Nat) : Fld := ⟨(0x100D0104 + 0x4000 * i + 0x80 * j) * 64 + 0, 4, 0⟩
abbrev FBS_TXB_CTL_FDF (i : Nat) (j : Nat) : Fld := ⟨(0x100D0104 + 0x4000 * i + 0x80 * j) * 64 + 4, 1, 0⟩
abbrev FBS_TXB_CTL_BRS (i : Nat) (j : Nat) : Fld := ⟨(0x100D0104 + 0x4000 * i + 0x80 * j) * 64 + 5, 1, 0⟩
abbrev FBS_TXB_STAT_STATE (i : Nat) (j : Nat) : Fld := ⟨(0x100D0108 + 0x4000 * i + 0x80 * j) * 64 + 0, 3, 0⟩
abbrev FBS_TXB_STAT_CANPEND (i : Nat) (j : Nat) : Fld := ⟨(0x100D0108 + 0x4000 * i + 0x80 * j) * 64 + 3, 1, 0⟩
abbrev FBS_TXB_STAT_TOOLATE (i : Nat) (j : Nat) : Fld := ⟨(0x100D0108 + 0x4000 * i + 0x80 * j) * 64 + 4, 1, 0⟩
abbrev FBS_TXB_TS_TS (i : Nat) (j : Nat) : Fld := ⟨(0x100D010C + 0x4000 * i + 0x80 * j) * 64 + 0, 32, 0⟩
abbrev FBS_TXB_DATA_DATA (i : Nat) (j : Nat) (k : Nat) : Fld := ⟨(0x100D0110 + 0x4000 * i + 0x80 * j + 0x4 * k) * 64 + 0, 32, 0⟩
abbrev FBS_TSCNT_COUNT (i : Nat) : Fld := ⟨(0x100D3F00 + 0x4000 * i) * 64 + 0, 32, 0⟩
abbrev FBS_TSSNAP_A_SNAPCNT (i : Nat) : Fld := ⟨(0x100D3F08 + 0x4000 * i) * 64 + 0, 32, 0⟩
abbrev FBS_TSSNAP_A_SNAPNS (i : Nat) : Fld := ⟨(0x100D3F08 + 0x4000 * i) * 64 + 32, 32, 0⟩
abbrev FBS_TSSNAP_B_SNAPSEC (i : Nat) : Fld := ⟨(0x100D3F10 + 0x4000 * i) * 64 + 0, 48, 0⟩
abbrev FBS_TSSNAP_B_NUM (i : Nat) : Fld := ⟨(0x100D3F10 + 0x4000 * i) * 64 + 48, 16, 0⟩
abbrev FBS_TSSNAP_CTL_SNAP (i : Nat) : Fld := ⟨(0x100D3F18 + 0x4000 * i) * 64 + 0, 1, 0⟩

/-! ### TIM (R362) -/

abbrev TIM_SEC_SEC : Fld := ⟨0x100E0000 * 64 + 0, 48, 0⟩
abbrev TIM_NSF_FRAC : Fld := ⟨0x100E0008 * 64 + 0, 32, 0⟩
abbrev TIM_NSF_NS : Fld := ⟨0x100E0008 * 64 + 32, 32, 0⟩
abbrev TIM_NOW_NOW : Fld := ⟨0x100E0010 * 64 + 0, 64, 0⟩
abbrev TIM_INCR_INCR : Fld := ⟨0x100E0018 * 64 + 0, 40, 0x800000000⟩
abbrev TIM_STEP_STEP : Fld := ⟨0x100E0020 * 64 + 0, 64, 0⟩
abbrev TIM_STAT_STATE : Fld := ⟨0x100E0038 * 64 + 0, 2, 0⟩
abbrev TIM_STAT_SYNC : Fld := ⟨0x100E0038 * 64 + 2, 1, 0⟩
abbrev TIM_STAT_PORT : Fld := ⟨0x100E0038 * 64 + 3, 1, 0⟩
abbrev TIM_STAT_CLAMP : Fld := ⟨0x100E0038 * 64 + 4, 1, 0⟩
abbrev TIM_STAT_RTCBAD : Fld := ⟨0x100E0038 * 64 + 5, 1, 0⟩
abbrev TIM_CTRL_LOADRTC : Fld := ⟨0x100E0040 * 64 + 0, 1, 0⟩
abbrev TIM_CTRL_STWR : Fld := ⟨0x100E0040 * 64 + 1, 1, 0⟩
abbrev TIM_CTRL_STATE : Fld := ⟨0x100E0040 * 64 + 2, 2, 0⟩
abbrev TIM_CTRL_PORT : Fld := ⟨0x100E0040 * 64 + 4, 1, 0⟩
abbrev TIM_STEPCNT_COUNT : Fld := ⟨0x100E0048 * 64 + 0, 16, 0⟩
abbrev TIM_LASTSTEP_STEP : Fld := ⟨0x100E0050 * 64 + 0, 64, 0⟩
abbrev TIM_LASTFAULT_FAULT : Fld := ⟨0x100E0058 * 64 + 0, 16, 0⟩

/-! ### RTC (R363) -/

abbrev RTC_TIME_TIME : Fld := ⟨0x100F0000 * 64 + 0, 56, 0x7d0c2100000000⟩
abbrev RTC_STAT_OSF : Fld := ⟨0x100F0008 * 64 + 0, 1, 1⟩
abbrev RTC_STAT_WBUSY : Fld := ⟨0x100F0008 * 64 + 1, 1, 0⟩
abbrev RTC_STAT_AONRST : Fld := ⟨0x100F0008 * 64 + 2, 1, 1⟩
abbrev RTC_CTRL_SYNCTIM : Fld := ⟨0x100F0010 * 64 + 0, 1, 0⟩
abbrev RTC_CTRL_CLRSW : Fld := ⟨0x100F0010 * 64 + 1, 1, 0⟩
abbrev RTC_FIRSTSW_TIME : Fld := ⟨0x100F0018 * 64 + 0, 56, 0⟩
abbrev RTC_FIRSTSW_VALID : Fld := ⟨0x100F0018 * 64 + 63, 1, 0⟩
abbrev RTC_SWCOUNT_COUNT : Fld := ⟨0x100F0020 * 64 + 0, 16, 0⟩
abbrev RTC_UTCOFS_OFS : Fld := ⟨0x100F0024 * 64 + 0, 16, 0x25⟩
abbrev RTC_WAKE_K : Fld := ⟨0x100F0028 * 64 + 0, 5, 0⟩
abbrev RTC_WAKE_EN : Fld := ⟨0x100F0028 * 64 + 8, 1, 0⟩
abbrev RTC_W256_COUNT : Fld := ⟨0x100F002C * 64 + 0, 32, 0⟩
abbrev RTC_RAW_COUNT : Fld := ⟨0x100F0030 * 64 + 0, 48, 0⟩
abbrev RTC_TRIM_T0 : Fld := ⟨0x100F0038 * 64 + 0, 16, 0xfa⟩
abbrev RTC_TRIM_CURV : Fld := ⟨0x100F0038 * 64 + 16, 16, 0x22⟩
abbrev RTC_TRIMOFS_OFS : Fld := ⟨0x100F003C * 64 + 0, 16, 0⟩
abbrev RTC_TRIMOFS_RCORR : Fld := ⟨0x100F003C * 64 + 16, 16, 0⟩
abbrev RTC_TRIMNOW_C : Fld := ⟨0x100F0040 * 64 + 0, 16, 0⟩
abbrev RTC_TRIMNOW_TEMP : Fld := ⟨0x100F0040 * 64 + 16, 16, 0⟩
abbrev RTC_LASTFAULT_FAULT : Fld := ⟨0x100F0048 * 64 + 0, 16, 0⟩

/-! ### KEY (R383) -/

abbrev KEY_STAT_ROOTOK : Fld := ⟨0x10100000 * 64 + 0, 1, 0⟩
abbrev KEY_STAT_ROOTFAIL : Fld := ⟨0x10100000 * 64 + 1, 1, 0⟩
abbrev KEY_STAT_SEQLOST : Fld := ⟨0x10100000 * 64 + 2, 1, 0⟩
abbrev KEY_STAT_BUILDING : Fld := ⟨0x10100000 * 64 + 3, 1, 0⟩
abbrev KEY_STAT_GEN : Fld := ⟨0x10100000 * 64 + 8, 7, 0⟩
abbrev KEY_CFG_PERIOD : Fld := ⟨0x10100004 * 64 + 0, 14, 0⟩
abbrev KEY_TENEN_EN : Fld := ⟨0x10100008 * 64 + 0, 64, 0⟩
abbrev KEY_FLBASE_ADDR : Fld := ⟨0x10100010 * 64 + 0, 40, 0⟩
abbrev KEY_FLREQ_REQ : Fld := ⟨0x10100018 * 64 + 0, 64, 0⟩
abbrev KEY_FLSTAT_BUILT : Fld := ⟨0x10100020 * 64 + 0, 16, 0⟩
abbrev KEY_FLSTAT_LATE : Fld := ⟨0x10100020 * 64 + 16, 8, 0⟩
abbrev KEY_FLSTAT_ABANDON : Fld := ⟨0x10100020 * 64 + 24, 8, 0⟩
abbrev KEY_BOOT_BOOT : Fld := ⟨0x10100024 * 64 + 0, 32, 0⟩
abbrev KEY_LASTFAULT_FAULT : Fld := ⟨0x10100028 * 64 + 0, 16, 0⟩
abbrev KEY_CMD_OP : Fld := ⟨0x10100040 * 64 + 0, 4, 0⟩
abbrev KEY_CMD_ATTR : Fld := ⟨0x10100040 * 64 + 4, 3, 0⟩
abbrev KEY_CMD_EXPORT : Fld := ⟨0x10100040 * 64 + 7, 1, 0⟩
abbrev KEY_CMD_SRC : Fld := ⟨0x10100040 * 64 + 16, 7, 0⟩
abbrev KEY_CMD_DST : Fld := ⟨0x10100040 * 64 + 24, 7, 0⟩
abbrev KEY_CMD_DEPTH : Fld := ⟨0x10100040 * 64 + 32, 4, 0⟩
abbrev KEY_CMD_LABLEN : Fld := ⟨0x10100040 * 64 + 40, 6, 0⟩
abbrev KEY_ARG_ADDR (i : Nat) : Fld := ⟨(0x10100048 + 0x8 * i) * 64 + 0, 40, 0⟩
abbrev KEY_LEN_LEN : Fld := ⟨0x10100058 * 64 + 0, 24, 0⟩
abbrev KEY_LEN_AUX : Fld := ⟨0x10100058 * 64 + 24, 8, 0⟩
abbrev KEY_RESULT_STATUS : Fld := ⟨0x1010005C * 64 + 0, 3, 0⟩
abbrev KEY_RESULT_BUSY : Fld := ⟨0x1010005C * 64 + 4, 1, 0⟩
abbrev KEY_RESULT_OP : Fld := ⟨0x1010005C * 64 + 8, 4, 0⟩
abbrev KEY_LABEL_BYTES (i : Nat) : Fld := ⟨(0x10100060 + 0x4 * i) * 64 + 0, 32, 0⟩
abbrev KEY_KDATA_BYTES (i : Nat) : Fld := ⟨(0x10100080 + 0x4 * i) * 64 + 0, 32, 0⟩
abbrev KEY_SLOT_ATTR (i : Nat) : Fld := ⟨(0x10100100 + 0x4 * i) * 64 + 0, 3, 0⟩
abbrev KEY_SLOT_EXPORT (i : Nat) : Fld := ⟨(0x10100100 + 0x4 * i) * 64 + 3, 1, 0⟩
abbrev KEY_SLOT_DEPTH (i : Nat) : Fld := ⟨(0x10100100 + 0x4 * i) * 64 + 4, 4, 0⟩
abbrev KEY_SLOT_ORIGIN (i : Nat) : Fld := ⟨(0x10100100 + 0x4 * i) * 64 + 8, 2, 0⟩
abbrev KEY_SLOT_STORE (i : Nat) : Fld := ⟨(0x10100100 + 0x4 * i) * 64 + 10, 1, 0⟩
abbrev KEY_TSEQ_SEQ (i : Nat) : Fld := ⟨(0x10100200 + 0x8 * i) * 64 + 0, 64, 0⟩

/-! ### TLY (R400) -/

abbrev TLY_CFG_EPOCH : Fld := ⟨0x10110000 * 64 + 0, 17, 0x384⟩
abbrev TLY_CFG_WARN : Fld := ⟨0x10110000 * 64 + 24, 8, 0x5a⟩
abbrev TLY_ALIGN_OFS : Fld := ⟨0x10110004 * 64 + 0, 32, 0x25⟩
abbrev TLY_STAT_FULL : Fld := ⟨0x10110008 * 64 + 0, 1, 0⟩
abbrev TLY_STAT_SEALING : Fld := ⟨0x10110008 * 64 + 1, 1, 0⟩
abbrev TLY_STAT_WARNED : Fld := ⟨0x10110008 * 64 + 2, 1, 0⟩
abbrev TLY_STAT_NOLOG : Fld := ⟨0x10110008 * 64 + 3, 1, 0⟩
abbrev TLY_NEXTSEQ_SEQ : Fld := ⟨0x1011000C * 64 + 0, 32, 0⟩
abbrev TLY_OLDSEQ_SEQ : Fld := ⟨0x10110010 * 64 + 0, 32, 0⟩
abbrev TLY_USED_COUNT : Fld := ⟨0x10110014 * 64 + 0, 25, 0⟩
abbrev TLY_EVLOST_COUNT : Fld := ⟨0x10110018 * 64 + 0, 32, 0⟩
abbrev TLY_ERASES_COUNT : Fld := ⟨0x1011001C * 64 + 0, 32, 0⟩
abbrev TLY_LASTFAULT_FAULT : Fld := ⟨0x10110020 * 64 + 0, 16, 0⟩
abbrev TLY_EPSTART_START : Fld := ⟨0x10110028 * 64 + 0, 64, 0⟩
abbrev TLY_DEF_KIND (i : Nat) : Fld := ⟨(0x10112000 + 0x8 * i) * 64 + 0, 2, 0⟩
abbrev TLY_DEF_DEF (i : Nat) : Fld := ⟨(0x10112000 + 0x8 * i) * 64 + 2, 1, 0⟩
abbrev TLY_DEF_RATE (i : Nat) : Fld := ⟨(0x10112000 + 0x8 * i) * 64 + 16, 16, 0⟩
abbrev TLY_DEF_UPD (i : Nat) : Fld := ⟨(0x10112000 + 0x8 * i) * 64 + 32, 32, 0⟩

/-! ### UPD (R420) -/

abbrev UPD_STAT_STATE : Fld := ⟨0x10120000 * 64 + 0, 4, 0⟩
abbrev UPD_STAT_MOVING : Fld := ⟨0x10120000 * 64 + 4, 1, 0⟩
abbrev UPD_STAT_CELL_LOW : Fld := ⟨0x10120000 * 64 + 5, 1, 0⟩
abbrev UPD_STAT_OWNER_LOCK : Fld := ⟨0x10120000 * 64 + 6, 1, 0⟩
abbrev UPD_STAT_BUSY : Fld := ⟨0x10120000 * 64 + 7, 1, 0⟩
abbrev UPD_STAT_UNSYNCACT : Fld := ⟨0x10120000 * 64 + 8, 1, 0⟩
abbrev UPD_STAT_FALLPEND : Fld := ⟨0x10120000 * 64 + 9, 1, 0⟩
abbrev UPD_CFG_SETMODE : Fld := ⟨0x10120004 * 64 + 0, 1, 0⟩
abbrev UPD_CFG_GAPSAFE : Fld := ⟨0x10120004 * 64 + 1, 1, 0⟩
abbrev UPD_CFG_MOVINEN : Fld := ⟨0x10120004 * 64 + 2, 1, 0⟩
abbrev UPD_CFG_CONFWIN : Fld := ⟨0x10120004 * 64 + 8, 8, 0x48⟩
abbrev UPD_CFG_MOVIN : Fld := ⟨0x10120004 * 64 + 16, 6, 0⟩
abbrev UPD_ACTTIME_TIME : Fld := ⟨0x10120008 * 64 + 0, 64, 0⟩
abbrev UPD_GROUP_GROUP : Fld := ⟨0x10120010 * 64 + 0, 16, 0⟩
abbrev UPD_MOVTHR_CPS : Fld := ⟨0x10120014 * 64 + 0, 32, 0x64⟩
abbrev UPD_FALLSLOT_SEC : Fld := ⟨0x10120018 * 64 + 0, 17, 0x2a30⟩
abbrev UPD_CONFLEFT_SEC : Fld := ⟨0x1012001C * 64 + 0, 32, 0⟩
abbrev UPD_BANK_ACTIVE : Fld := ⟨0x10120020 * 64 + 0, 1, 0⟩
abbrev UPD_BANK_OTHERVALID : Fld := ⟨0x10120020 * 64 + 1, 1, 0⟩
abbrev UPD_VER_VERSION (i : Nat) : Fld := ⟨(0x10120024 + 0x4 * i) * 64 + 0, 32, 0⟩
abbrev UPD_SLSTAT_SLICE : Fld := ⟨0x10120030 * 64 + 0, 12, 0⟩
abbrev UPD_GAPLAST_US : Fld := ⟨0x10120034 * 64 + 0, 32, 0⟩
abbrev UPD_LOCKCNT_COUNT : Fld := ⟨0x10120038 * 64 + 0, 32, 0⟩
abbrev UPD_CELLV_MV : Fld := ⟨0x1012003C * 64 + 0, 16, 0⟩
abbrev UPD_LASTFAULT_FAULT : Fld := ⟨0x10120040 * 64 + 0, 16, 0⟩

/-! ### NVS (R296) -/

abbrev NVS_STAT_READY : Fld := ⟨0x10130000 * 64 + 0, 1, 0⟩
abbrev NVS_STAT_BUSY : Fld := ⟨0x10130000 * 64 + 1, 1, 0⟩
abbrev NVS_STAT_SAVE : Fld := ⟨0x10130000 * 64 + 2, 1, 0⟩
abbrev NVS_STAT_SEAL : Fld := ⟨0x10130000 * 64 + 3, 1, 0⟩
abbrev NVS_STAT_PFWORDER : Fld := ⟨0x10130000 * 64 + 4, 1, 0⟩
abbrev NVS_STAT_HEALTHLOW : Fld := ⟨0x10130000 * 64 + 5, 1, 0⟩
abbrev NVS_CMD_OP : Fld := ⟨0x10130008 * 64 + 0, 2, 0⟩
abbrev NVS_LBA_LBA : Fld := ⟨0x10130010 * 64 + 0, 21, 0⟩
abbrev NVS_COUNT_COUNT : Fld := ⟨0x10130014 * 64 + 0, 15, 1⟩
abbrev NVS_ADDR_ADDR : Fld := ⟨0x10130018 * 64 + 0, 40, 0⟩
abbrev NVS_RESULT_STATUS : Fld := ⟨0x10130020 * 64 + 0, 3, 0⟩
abbrev NVS_RESULT_OP : Fld := ⟨0x10130020 * 64 + 8, 4, 0⟩
abbrev NVS_BADLBA_LBA : Fld := ⟨0x10130024 * 64 + 0, 21, 0⟩
abbrev NVS_HEALTH_SPARE : Fld := ⟨0x10130028 * 64 + 0, 8, 0⟩
abbrev NVS_HEALTH_WEAR : Fld := ⟨0x10130028 * 64 + 8, 8, 0⟩
abbrev NVS_RDERR_COUNT : Fld := ⟨0x1013002C * 64 + 0, 32, 0⟩
abbrev NVS_WRERR_COUNT : Fld := ⟨0x10130030 * 64 + 0, 32, 0⟩
abbrev NVS_LASTFAULT_FAULT : Fld := ⟨0x10130038 * 64 + 0, 16, 0⟩

end R

namespace RegTable

/-- Registers of SYS, part 1 (R32). -/
def sys0 : List RegSpec := [
  ⟨"SYS_ID", 0x0, 32, [], [⟨0, 16, .RO, 0x480⟩, ⟨16, 8, .RO, 1⟩]⟩,
  ⟨"SYS_STAT", 0x8, 32, [], [⟨0, 1, .RO, 0⟩, ⟨1, 1, .W1C, 0⟩, ⟨2, 1, .W1C, 0⟩, ⟨3, 1, .W1C, 0⟩, ⟨4, 1, .RO, 0⟩]⟩,
  ⟨"SYS_CFG", 0x10, 32, [], [⟨0, 1, .RWL, 1⟩]⟩,
  ⟨"SYS_BREACH_ADDR", 0x18, 64, [], [⟨0, 40, .RO, 0⟩]⟩,
  ⟨"SYS_BREACH_INFO", 0x20, 32, [], [⟨0, 4, .RO, 0⟩, ⟨8, 8, .RO, 0⟩, ⟨16, 6, .RO, 0x3f⟩]⟩,
  ⟨"SYS_UNMAP_ADDR", 0x28, 64, [], [⟨0, 40, .RO, 0⟩]⟩,
  ⟨"SYS_UNMAP_INFO", 0x30, 32, [], [⟨0, 4, .RO, 0⟩, ⟨4, 1, .RO, 0⟩, ⟨16, 8, .RO, 0⟩]⟩,
  ⟨"SYS_IRQPEND", 0x40, 64, [(2, 0x8)], [⟨0, 64, .W1C, 0⟩]⟩,
  ⟨"SYS_IRQEN", 0x50, 64, [(2, 0x8)], [⟨0, 64, .RW, 0⟩]⟩,
  ⟨"SYS_PROFILE", 0x100, 32, [], [⟨0, 8, .RO, 1⟩, ⟨8, 8, .RO, 1⟩]⟩,
  ⟨"SYS_PROFMASK", 0x108, 64, [], [⟨0, 64, .RO, 1⟩]⟩]

def sys : List RegSpec := sys0

/-- Registers of PWR, part 1 (R439). -/
def pwr0 : List RegSpec := [
  ⟨"PWR_STAT", 0x0, 32, [], [⟨0, 1, .RO, 0⟩, ⟨1, 1, .RO, 0⟩, ⟨2, 1, .RO, 0⟩, ⟨3, 1, .RO, 0⟩, ⟨4, 1, .RO, 0⟩, ⟨5, 1, .RO, 0⟩, ⟨6, 1, .RO, 0⟩, ⟨7, 1, .RO, 0⟩]⟩,
  ⟨"PWR_CTRL", 0x8, 32, [], [⟨0, 1, .WO, 0⟩, ⟨1, 1, .WO, 0⟩, ⟨2, 1, .WO, 0⟩]⟩,
  ⟨"PWR_DOMEN", 0x10, 32, [], [⟨0, 16, .RW, 3⟩]⟩,
  ⟨"PWR_DOMSTAT", 0x14, 32, [], [⟨0, 16, .RO, 3⟩, ⟨16, 16, .RO, 3⟩]⟩,
  ⟨"PWR_PFHOLD", 0x18, 32, [], [⟨0, 6, .RW, 0x32⟩]⟩,
  ⟨"PWR_VIN", 0x1c, 32, [], [⟨0, 16, .RO, 0⟩, ⟨16, 16, .RO, 0⟩]⟩,
  ⟨"PWR_CELLV", 0x20, 32, [], [⟨0, 16, .RO, 0⟩]⟩,
  ⟨"PWR_HUJ", 0x24, 32, [], [⟨0, 16, .RO, 0⟩]⟩,
  ⟨"PWR_WAKEEN", 0x28, 32, [], [⟨0, 4, .RW, 0⟩]⟩,
  ⟨"PWR_WAKESRC", 0x2c, 32, [], [⟨0, 4, .W1C, 0⟩]⟩,
  ⟨"PWR_SLEEPMASK", 0x30, 32, [], [⟨0, 16, .RW, 0xff3c⟩]⟩,
  ⟨"PWR_RIDE", 0x38, 32, [], [⟨0, 16, .RO, 0⟩, ⟨16, 16, .RO, 0⟩]⟩,
  ⟨"PWR_RSTCAUSE", 0x3c, 32, [], [⟨0, 3, .RO, 0⟩]⟩,
  ⟨"PWR_LASTFAULT", 0x40, 32, [], [⟨0, 16, .RC, 0⟩]⟩]

def pwr : List RegSpec := pwr0

/-- Registers of PHS, part 1 (R59). -/
def phs0 : List RegSpec := [
  ⟨"PHS_CFG", 0x0, 32, [], [⟨0, 2, .RWL, 2⟩, ⟨4, 2, .RWL, 3⟩, ⟨8, 7, .RWL, 0x14⟩, ⟨16, 2, .RWL, 1⟩, ⟨18, 1, .RWL, 0⟩, ⟨20, 1, .RWL, 0⟩]⟩,
  ⟨"PHS_STAT", 0x8, 32, [], [⟨0, 1, .RO, 0⟩, ⟨1, 1, .RO, 0⟩, ⟨2, 1, .RO, 0⟩, ⟨3, 1, .RO, 0⟩, ⟨4, 1, .RO, 0⟩, ⟨5, 1, .RO, 0⟩, ⟨6, 1, .W1C, 0⟩, ⟨7, 1, .W1C, 0⟩, ⟨8, 1, .W1C, 0⟩, ⟨9, 1, .W1C, 0⟩, ⟨10, 1, .W1C, 0⟩]⟩,
  ⟨"PHS_CTRL", 0x10, 32, [], [⟨0, 1, .WO, 0⟩, ⟨4, 2, .WO, 0⟩]⟩,
  ⟨"PHS_FMIN", 0x18, 32, [], [⟨0, 32, .RWL, 0xb98c⟩]⟩,
  ⟨"PHS_FMAX", 0x1c, 32, [], [⟨0, 32, .RWL, 0xc92c⟩]⟩,
  ⟨"PHS_NETPER", 0x20, 32, [], [⟨0, 32, .RWL, 0x1312d00⟩]⟩,
  ⟨"PHS_XTALPER", 0x24, 32, [], [⟨0, 32, .RWL, 0x7a120⟩]⟩,
  ⟨"PHS_SLEW", 0x28, 32, [], [⟨0, 16, .RW, 0x7d0⟩]⟩,
  ⟨"PHS_MAINSMIN", 0x2c, 32, [], [⟨0, 16, .RWL, 0x47e⟩]⟩,
  ⟨"PHS_RELOCKT", 0x30, 32, [], [⟨0, 16, .RW, 0x3e8⟩]⟩,
  ⟨"PHS_PHASE", 0x38, 64, [], [⟨0, 32, .RO, 0⟩, ⟨32, 32, .RO, 0⟩]⟩,
  ⟨"PHS_INC", 0x40, 64, [], [⟨0, 48, .RO, 0x218def416bd⟩]⟩,
  ⟨"PHS_SHPHASE", 0x50, 64, [], [⟨0, 32, .RO, 0⟩, ⟨32, 32, .RO, 0⟩]⟩,
  ⟨"PHS_SHCFG", 0x58, 32, [], [⟨0, 16, .RWL, 0x3ff⟩, ⟨16, 1, .RWL, 0⟩, ⟨17, 1, .RWL, 1⟩, ⟨18, 1, .RWL, 1⟩]⟩,
  ⟨"PHS_SHSPEED", 0x60, 32, [], [⟨0, 32, .RO, 0⟩]⟩,
  ⟨"PHS_WDIFF", 0x68, 32, [], [⟨0, 32, .RO, 0⟩]⟩]

/-- Registers of PHS, part 2 (R59). -/
def phs1 : List RegSpec := [
  ⟨"PHS_WFOFF", 0x6c, 32, [], [⟨0, 32, .RO, 0⟩]⟩,
  ⟨"PHS_WTHR", 0x70, 32, [], [⟨0, 32, .RW, 0xb60b60⟩]⟩,
  ⟨"PHS_EVLAST", 0x78, 32, [], [⟨0, 10, .RO, 0⟩, ⟨16, 8, .RO, 0⟩, ⟨24, 8, .RC, 0⟩]⟩,
  ⟨"PHS_DEFERCNT", 0x80, 32, [], [⟨0, 32, .RC, 0⟩]⟩,
  ⟨"PHS_DISCCNT", 0x84, 32, [], [⟨0, 32, .RC, 0⟩]⟩,
  ⟨"PHS_MOFS", 0x88, 32, [], [⟨0, 32, .RWL, 0⟩]⟩,
  ⟨"PHS_SHOFS", 0x90, 32, [], [⟨0, 32, .RWL, 0⟩]⟩,
  ⟨"PHS_SHLATCH", 0x98, 64, [], [⟨0, 64, .RO, 0⟩]⟩,
  ⟨"PHS_LASTFAULT", 0xa0, 32, [], [⟨0, 16, .RC, 0⟩]⟩,
  ⟨"PHS_SLOT", 0x4000, 32, [(1024, 0x10), (4, 0x4)], [⟨0, 32, .RW, 0⟩]⟩]

def phs : List RegSpec := phs0 ++ phs1

/-- Registers of TSK, part 1 (R109). -/
def tsk0 : List RegSpec := [
  ⟨"TSK_CFG", 0x0, 32, [], [⟨0, 2, .RW, 0⟩, ⟨2, 1, .RW, 0⟩, ⟨3, 1, .RWL, 0⟩, ⟨4, 1, .RWL, 1⟩, ⟨5, 1, .RWL, 0⟩, ⟨8, 8, .RWL, 0⟩]⟩,
  ⟨"TSK_CTRL", 0x8, 32, [], [⟨0, 4, .WO, 0⟩, ⟨4, 1, .WO, 0⟩]⟩,
  ⟨"TSK_STAT", 0x10, 32, [], [⟨0, 2, .RO, 0⟩, ⟨2, 1, .RO, 0⟩, ⟨3, 1, .RO, 0⟩, ⟨4, 1, .RO, 0⟩, ⟨8, 4, .RO, 0⟩, ⟨12, 1, .RO, 0⟩, ⟨13, 1, .W1C, 0⟩]⟩,
  ⟨"TSK_FAULT", 0x18, 32, [], [⟨0, 16, .RO, 0⟩, ⟨16, 4, .RO, 0⟩, ⟨24, 6, .RO, 0x3f⟩]⟩,
  ⟨"TSK_FAULTPH", 0x20, 64, [], [⟨0, 32, .RO, 0⟩, ⟨32, 32, .RO, 0⟩]⟩,
  ⟨"TSK_CYCCNT", 0x28, 32, [], [⟨0, 32, .RO, 0⟩]⟩,
  ⟨"TSK_BRK", 0x30, 64, [], [⟨0, 32, .RO, 0⟩, ⟨32, 2, .RO, 0⟩, ⟨40, 6, .RO, 0x3f⟩]⟩,
  ⟨"TSK_FORCECNT", 0x38, 32, [], [⟨0, 9, .RO, 0⟩, ⟨16, 9, .RO, 0⟩]⟩,
  ⟨"TSK_IMAGE", 0x40, 64, [], [⟨0, 64, .RO, 0⟩]⟩,
  ⟨"TSK_RSTAT", 0x48, 32, [], [⟨0, 2, .RO, 0⟩, ⟨2, 2, .RO, 0⟩, ⟨4, 1, .RO, 0⟩, ⟨5, 1, .RO, 0⟩, ⟨6, 1, .RO, 0⟩, ⟨7, 1, .RO, 0⟩]⟩,
  ⟨"TSK_SNAPSEQ", 0x50, 32, [], [⟨0, 32, .RO, 0⟩]⟩,
  ⟨"TSK_TASK_CTL", 0x100, 32, [(32, 0x10)], [⟨0, 1, .RWL, 0⟩, ⟨1, 1, .RWL, 0⟩, ⟨2, 2, .RWL, 0⟩, ⟨4, 2, .RWL, 0⟩, ⟨16, 14, .RWL, 1⟩]⟩,
  ⟨"TSK_TASK_COMMIT", 0x104, 32, [(32, 0x10)], [⟨0, 32, .RWL, 0⟩]⟩,
  ⟨"TSK_TASK_OFS", 0x108, 32, [(32, 0x10)], [⟨0, 14, .RWL, 0⟩]⟩,
  ⟨"TSK_TASK_W3", 0x10c, 32, [(32, 0x10)], []⟩,
  ⟨"TSK_TSTAT_RELCNT", 0x400, 32, [(32, 0x10)], [⟨0, 32, .RO, 0⟩]⟩]

/-- Registers of TSK, part 2 (R109). -/
def tsk1 : List RegSpec := [
  ⟨"TSK_TSTAT_MAXRUN", 0x404, 32, [(32, 0x10)], [⟨0, 32, .RC, 0⟩]⟩,
  ⟨"TSK_TSTAT_CNT", 0x408, 32, [(32, 0x10)], [⟨0, 16, .RC, 0⟩, ⟨16, 16, .RC, 0⟩]⟩,
  ⟨"TSK_TSTAT_LASTRUN", 0x40c, 32, [(32, 0x10)], [⟨0, 32, .RO, 0⟩]⟩,
  ⟨"TSK_FORCE_CTL", 0x2000, 64, [(256, 0x20)], [⟨0, 12, .RW, 0⟩, ⟨14, 1, .RO, 0⟩, ⟨15, 1, .RW, 0⟩]⟩,
  ⟨"TSK_FORCE_VALUE", 0x2008, 64, [(256, 0x20)], [⟨0, 64, .RW, 0⟩]⟩,
  ⟨"TSK_FORCE_LIVE", 0x2010, 64, [(256, 0x20)], [⟨0, 64, .RO, 0⟩]⟩,
  ⟨"TSK_FORCE_LIVEQ", 0x2018, 64, [(256, 0x20)], [⟨0, 16, .RO, 0⟩]⟩]

def tsk : List RegSpec := tsk0 ++ tsk1

/-- Registers of FBE, part 1 (R138). -/
def fbe0 : List RegSpec := [
  ⟨"FBE_STAT", 0x0, 32, [(4, 0x10000)], [⟨0, 2, .RO, 0⟩, ⟨2, 2, .RO, 0⟩, ⟨4, 6, .RO, 0x3f⟩, ⟨10, 6, .RO, 0⟩]⟩,
  ⟨"FBE_TRAP", 0x8, 32, [(4, 0x10000)], [⟨0, 16, .RO, 0⟩, ⟨16, 6, .RO, 0x3f⟩, ⟨22, 2, .RO, 0⟩]⟩,
  ⟨"FBE_TRAPIP", 0x10, 32, [(4, 0x10000)], [⟨0, 32, .RO, 0⟩]⟩,
  ⟨"FBE_TRAPWORD", 0x14, 32, [(4, 0x10000)], [⟨0, 32, .RO, 0⟩]⟩,
  ⟨"FBE_TADDR", 0x18, 64, [(4, 0x10000)], [⟨0, 40, .RO, 0⟩]⟩,
  ⟨"FBE_EVSUB", 0x40, 64, [(4, 0x10000), (2, 0x8)], [⟨0, 64, .RWL, 0⟩]⟩,
  ⟨"FBE_EVLIVE", 0x50, 64, [(4, 0x10000), (2, 0x8)], [⟨0, 64, .RO, 0⟩]⟩,
  ⟨"FBE_EVSNAP", 0x60, 64, [(4, 0x10000), (2, 0x8)], [⟨0, 64, .RO, 0⟩]⟩,
  ⟨"FBE_BANK_X", 0x1000, 64, [(4, 0x10000), (3, 0x100), (16, 0x8)], [⟨0, 64, .RO, 0⟩]⟩,
  ⟨"FBE_BANK_IB", 0x1080, 64, [(4, 0x10000), (3, 0x100)], [⟨0, 40, .RO, 0⟩]⟩,
  ⟨"FBE_BANK_LB", 0x1088, 64, [(4, 0x10000), (3, 0x100)], [⟨0, 40, .RO, 0⟩]⟩,
  ⟨"FBE_BANK_IP", 0x1090, 64, [(4, 0x10000), (3, 0x100)], [⟨0, 32, .RO, 0⟩]⟩,
  ⟨"FBE_BANK_FS", 0x1098, 64, [(4, 0x10000), (3, 0x100)], [⟨0, 5, .RO, 0⟩]⟩,
  ⟨"FBE_BANK_KB", 0x10a0, 64, [(4, 0x10000), (3, 0x100)], [⟨0, 40, .RO, 0⟩]⟩,
  ⟨"FBE_BANK_WB", 0x10a8, 64, [(4, 0x10000), (3, 0x100)], [⟨0, 40, .RO, 0⟩]⟩,
  ⟨"FBE_BANK_WLIM", 0x10b0, 64, [(4, 0x10000), (3, 0x100)], [⟨0, 40, .RO, 0⟩]⟩]

/-- Registers of FBE, part 2 (R138). -/
def fbe1 : List RegSpec := [
  ⟨"FBE_BANK_SLIM", 0x10b8, 64, [(4, 0x10000), (3, 0x100)], [⟨0, 40, .RO, 0⟩]⟩]

def fbe : List RegSpec := fbe0 ++ fbe1

/-- Registers of LPE, part 1 (R212). -/
def lpe0 : List RegSpec := [
  ⟨"LPE_STAT", 0x0, 32, [], [⟨0, 1, .RO, 1⟩, ⟨1, 1, .RO, 0⟩, ⟨2, 1, .RO, 0⟩]⟩,
  ⟨"LPE_FRAME", 0x8, 64, [], [⟨0, 64, .RO, 0⟩]⟩,
  ⟨"LPE_HYPER", 0x10, 32, [], [⟨0, 25, .RO, 1⟩]⟩,
  ⟨"LPE_HIDX", 0x14, 32, [], [⟨0, 24, .RO, 0⟩]⟩,
  ⟨"LPE_NANLAST", 0x18, 32, [], [⟨0, 8, .RO, 0⟩, ⟨24, 8, .RC, 0⟩]⟩,
  ⟨"LPE_LASTFAULT", 0x20, 32, [], [⟨0, 16, .RC, 0⟩]⟩,
  ⟨"LPE_CADDR", 0x30, 32, [], [⟨0, 8, .RW, 0⟩, ⟨8, 1, .RW, 0⟩, ⟨9, 1, .RW, 0⟩, ⟨10, 7, .RW, 0⟩]⟩,
  ⟨"LPE_CDATA", 0x34, 32, [], [⟨0, 32, .RWL, 0⟩]⟩,
  ⟨"LPE_LDECL", 0x1000, 32, [(256, 0x40), (11, 0x4)], [⟨0, 32, .RWL, 0⟩]⟩,
  ⟨"LPE_LDECL_CL", 0x102c, 32, [(256, 0x40)], [⟨0, 1, .RWL, 0⟩]⟩,
  ⟨"LPE_LDECL_RES", 0x1030, 32, [(256, 0x40), (4, 0x4)], []⟩,
  ⟨"LPE_LSTAT", 0x5000, 32, [(256, 0x4)], [⟨0, 1, .RO, 0⟩, ⟨1, 1, .RO, 0⟩, ⟨2, 1, .RO, 0⟩, ⟨3, 1, .RO, 0⟩, ⟨4, 1, .RO, 0⟩, ⟨5, 1, .RO, 0⟩, ⟨6, 1, .RO, 0⟩, ⟨7, 1, .RO, 0⟩, ⟨8, 1, .RO, 0⟩, ⟨9, 1, .RO, 0⟩, ⟨10, 1, .RO, 0⟩, ⟨11, 1, .RO, 0⟩, ⟨12, 1, .RO, 0⟩]⟩]

def lpe : List RegSpec := lpe0

/-- Registers of SLR, part 1 (R246). -/
def slr0 : List RegSpec := [
  ⟨"SLR_ID", 0x0, 32, [(6, 0x2000)], [⟨0, 4, .RO, 0⟩, ⟨8, 8, .RO, 0⟩]⟩,
  ⟨"SLR_FW", 0x4, 32, [(6, 0x2000)], [⟨0, 16, .RO, 0⟩, ⟨16, 1, .RO, 0⟩]⟩,
  ⟨"SLR_SSTAT", 0x8, 32, [(6, 0x2000)], [⟨0, 1, .RO, 0⟩, ⟨1, 1, .RO, 0⟩, ⟨2, 1, .W1C, 0⟩, ⟨3, 1, .RO, 0⟩, ⟨4, 1, .RO, 0⟩, ⟨5, 1, .RO, 0⟩, ⟨6, 1, .RO, 0⟩, ⟨7, 4, .RO, 0⟩]⟩,
  ⟨"SLR_ALIGN", 0xc, 32, [(6, 0x2000)], [⟨0, 32, .RO, 0⟩]⟩,
  ⟨"SLR_ERRCNT", 0x10, 32, [(6, 0x2000)], [⟨0, 16, .RO, 0⟩, ⟨16, 16, .RO, 0⟩]⟩,
  ⟨"SLR_CFG", 0x40, 32, [(4, 0x2000)], [⟨0, 1, .RWL, 0⟩]⟩,
  ⟨"SLR_FSV", 0x44, 32, [(4, 0x2000)], [⟨0, 16, .RO, 0⟩]⟩,
  ⟨"SLR_DIIN", 0x48, 32, [(4, 0x2000)], [⟨0, 12, .RO, 0⟩]⟩,
  ⟨"SLR_DICFG", 0x100, 32, [(4, 0x2000), (12, 0x4)], [⟨0, 16, .RWL, 0⟩, ⟨16, 2, .RWL, 0⟩, ⟨18, 2, .RWL, 0⟩]⟩,
  ⟨"SLR_DICNTL", 0x140, 32, [(4, 0x2000), (12, 0x4)], [⟨0, 32, .RO, 0⟩]⟩,
  ⟨"SLR_LATCH", 0x170, 32, [(4, 0x2000)], [⟨0, 32, .RO, 0⟩]⟩,
  ⟨"SLR_LATCHT", 0x178, 64, [(4, 0x2000)], [⟨0, 64, .RO, 0⟩]⟩,
  ⟨"SLR_DOCFG", 0x200, 32, [(4, 0x2000), (8, 0x8)], [⟨0, 1, .RWL, 0⟩, ⟨1, 1, .RWL, 0⟩, ⟨2, 1, .RWL, 0⟩, ⟨3, 1, .RWL, 0⟩]⟩,
  ⟨"SLR_DOCFG_PER", 0x204, 32, [(4, 0x2000), (8, 0x8)], [⟨0, 32, .RWL, 0x3e8⟩]⟩,
  ⟨"SLR_DOSTAT", 0x280, 32, [(4, 0x2000), (8, 0x4)], [⟨0, 3, .RO, 0⟩, ⟨16, 16, .RO, 0⟩]⟩,
  ⟨"SLR_DOREL", 0x2a0, 32, [(4, 0x2000)], [⟨0, 8, .WO, 0⟩]⟩]

/-- Registers of SLR, part 2 (R246). -/
def slr1 : List RegSpec := [
  ⟨"SLR_AICFG", 0x300, 32, [(4, 0x2000), (2, 0x10)], [⟨0, 1, .RWL, 0⟩]⟩,
  ⟨"SLR_AICFG_ELO", 0x304, 32, [(4, 0x2000), (2, 0x10)], [⟨0, 32, .RWL, 0⟩]⟩,
  ⟨"SLR_AICFG_EHI", 0x308, 32, [(4, 0x2000), (2, 0x10)], [⟨0, 32, .RWL, 0x3f800000⟩]⟩,
  ⟨"SLR_AICFG_SAFE", 0x30c, 32, [(4, 0x2000), (2, 0x10)], []⟩,
  ⟨"SLR_AOCFG", 0x340, 32, [(4, 0x2000), (2, 0x10)], [⟨0, 1, .RWL, 0⟩]⟩,
  ⟨"SLR_AOCFG_ELO", 0x344, 32, [(4, 0x2000), (2, 0x10)], [⟨0, 32, .RWL, 0⟩]⟩,
  ⟨"SLR_AOCFG_EHI", 0x348, 32, [(4, 0x2000), (2, 0x10)], [⟨0, 32, .RWL, 0x3f800000⟩]⟩,
  ⟨"SLR_AOCFG_SAFE", 0x34c, 32, [(4, 0x2000), (2, 0x10)], [⟨0, 32, .RWL, 0⟩]⟩,
  ⟨"SLR_STAMPWR", 0x400, 32, [(4, 0x2000)], [⟨0, 32, .RO, 0⟩]⟩,
  ⟨"SLR_STAMPDROP", 0x404, 32, [(4, 0x2000)], [⟨0, 32, .RO, 0⟩]⟩,
  ⟨"SLR_STAMP_TIME", 0x1000, 64, [(4, 0x2000), (256, 0x10)], [⟨0, 64, .RO, 0⟩]⟩,
  ⟨"SLR_STAMP_REST", 0x1008, 64, [(4, 0x2000), (256, 0x10)], [⟨0, 64, .RO, 0⟩]⟩,
  ⟨"SLR_RING", 0xc000, 32, [], [⟨0, 6, .RO, 0⟩, ⟨8, 1, .RO, 0⟩, ⟨9, 1, .RO, 0⟩]⟩,
  ⟨"SLR_RINGCNT", 0xc004, 32, [], [⟨0, 16, .RO, 0⟩, ⟨16, 16, .RO, 0⟩]⟩,
  ⟨"SLR_LASTFAULT", 0xc008, 32, [], [⟨0, 16, .RC, 0⟩, ⟨16, 4, .RC, 0⟩, ⟨24, 4, .RC, 0⟩]⟩,
  ⟨"SLR_BURSTBASE", 0xc010, 64, [], [⟨0, 40, .RWL, 0⟩]⟩]

def slr : List RegSpec := slr0 ++ slr1

/-- Registers of MET, part 1 (R272). -/
def met0 : List RegSpec := [
  ⟨"MET_STAT", 0x0, 32, [], [⟨0, 1, .RO, 0⟩, ⟨1, 1, .RO, 0⟩]⟩,
  ⟨"MET_LASTFAULT", 0x8, 32, [], [⟨0, 16, .RC, 0⟩, ⟨16, 4, .RC, 0⟩]⟩,
  ⟨"MET_FCFG", 0x100, 32, [(2, 0x40)], [⟨0, 1, .RWL, 0⟩, ⟨1, 1, .RWL, 1⟩]⟩,
  ⟨"MET_FCFG_VTR", 0x104, 32, [(2, 0x40)], [⟨0, 32, .RWL, 0x3f800000⟩]⟩,
  ⟨"MET_FCFG_CTR", 0x108, 32, [(2, 0x40)], [⟨0, 32, .RWL, 0x3f800000⟩]⟩,
  ⟨"MET_FCFG_VMIN", 0x10c, 32, [(2, 0x40)], [⟨0, 32, .RWL, 0x43480000⟩]⟩,
  ⟨"MET_FCFG_ISTART", 0x110, 32, [(2, 0x40)], [⟨0, 32, .RWL, 0x3ba3d70a⟩]⟩,
  ⟨"MET_FSTAT", 0x200, 32, [(2, 0x40)], [⟨0, 1, .RO, 0⟩, ⟨1, 1, .RO, 0⟩, ⟨2, 1, .RO, 0⟩, ⟨3, 1, .W1C, 0⟩, ⟨4, 4, .RO, 0⟩, ⟨8, 4, .RO, 0⟩, ⟨16, 16, .RO, 0⟩]⟩,
  ⟨"MET_UNMET", 0x204, 32, [(2, 0x40)], [⟨0, 32, .RO, 0⟩]⟩,
  ⟨"MET_FASTP", 0x208, 32, [(2, 0x40)], [⟨0, 32, .RO, 0⟩]⟩,
  ⟨"MET_CAL_VGAIN", 0x400, 32, [(2, 0x100), (4, 0x20)], [⟨0, 32, .RWL, 0x3f800000⟩]⟩,
  ⟨"MET_CAL_VRMSOS", 0x404, 32, [(2, 0x100), (4, 0x20)], [⟨0, 32, .RWL, 0⟩]⟩,
  ⟨"MET_CAL_IGAIN", 0x408, 32, [(2, 0x100), (4, 0x20)], [⟨0, 32, .RWL, 0x3f800000⟩]⟩,
  ⟨"MET_CAL_IRMSOS", 0x40c, 32, [(2, 0x100), (4, 0x20)], [⟨0, 32, .RWL, 0⟩]⟩,
  ⟨"MET_CAL_PHTRIM", 0x410, 32, [(2, 0x100), (4, 0x20)], [⟨0, 16, .RWL, 0⟩]⟩,
  ⟨"MET_CAL_PGAIN", 0x414, 32, [(2, 0x100), (4, 0x20)], [⟨0, 32, .RWL, 0x3f800000⟩]⟩]

/-- Registers of MET, part 2 (R272). -/
def met1 : List RegSpec := [
  ⟨"MET_CAL_POS", 0x418, 32, [(2, 0x100), (4, 0x20)], [⟨0, 32, .RWL, 0⟩]⟩,
  ⟨"MET_CAL_Q", 0x41c, 32, [(2, 0x100), (4, 0x20)], [⟨0, 16, .RWL, 0⟩, ⟨16, 16, .RWL, 0x3f80⟩]⟩,
  ⟨"MET_PCFG", 0x800, 32, [(8, 0x10)], [⟨0, 1, .RWL, 0⟩, ⟨16, 16, .RWL, 0⟩]⟩,
  ⟨"MET_PCFG_WT", 0x804, 32, [(8, 0x10)], [⟨0, 32, .RWL, 0⟩]⟩,
  ⟨"MET_PCFG_W", 0x808, 32, [(8, 0x10)], [⟨0, 9, .RWL, 0x64⟩, ⟨16, 6, .RWL, 0x3f⟩]⟩,
  ⟨"MET_PCFG_RES", 0x80c, 32, [(8, 0x10)], []⟩,
  ⟨"MET_PSTAT", 0x900, 32, [(8, 0x10)], [⟨0, 1, .W1C, 0⟩, ⟨1, 1, .RO, 0⟩]⟩,
  ⟨"MET_PENDING", 0x904, 32, [(8, 0x10)], [⟨0, 32, .RO, 0⟩]⟩,
  ⟨"MET_EMITTED", 0x908, 32, [(8, 0x10)], [⟨0, 32, .RO, 0⟩]⟩,
  ⟨"MET_LOST", 0x90c, 32, [(8, 0x10)], [⟨0, 32, .RO, 0⟩]⟩,
  ⟨"MET_VALUE", 0x2000, 32, [(2, 0x1000), (5, 0x100), (9, 0x4)], [⟨0, 32, .RO, 0⟩]⟩,
  ⟨"MET_ENERGY", 0x4000, 64, [(2, 0x4000), (5, 0x800), (256, 0x8)], [⟨0, 40, .RO, 0⟩, ⟨40, 8, .RO, 0⟩, ⟨48, 16, .RO, 0⟩]⟩]

def met : List RegSpec := met0 ++ met1

/-- Registers of MEM, part 1 (R287). -/
def mem0 : List RegSpec := [
  ⟨"MEM_STAT", 0x0, 32, [], [⟨0, 1, .RO, 0⟩, ⟨1, 1, .RO, 0⟩, ⟨2, 3, .RO, 0⟩, ⟨5, 1, .W1C, 0⟩, ⟨6, 1, .RO, 0⟩]⟩,
  ⟨"MEM_FRONT", 0x8, 64, [], [⟨0, 40, .RO, 0x100000000⟩]⟩,
  ⟨"MEM_SCRUBCFG", 0x10, 32, [], [⟨0, 5, .RW, 0x18⟩]⟩,
  ⟨"MEM_SCRUBSTAT", 0x14, 32, [], [⟨0, 16, .RO, 0⟩, ⟨16, 16, .RO, 0⟩]⟩,
  ⟨"MEM_LASTFAULT", 0x18, 32, [], [⟨0, 16, .RC, 0⟩, ⟨16, 4, .RC, 0⟩]⟩,
  ⟨"MEM_BKT", 0x40, 32, [(4, 0x10)], [⟨0, 16, .RO, 0⟩, ⟨16, 1, .W1C, 0⟩, ⟨17, 1, .WO, 0⟩]⟩,
  ⟨"MEM_BKT_THR0", 0x44, 32, [], [⟨0, 16, .RW, 0x10⟩]⟩,
  ⟨"MEM_BKT_THR", 0x54, 32, [(3, 0x10)], [⟨0, 16, .RW, 4⟩]⟩,
  ⟨"MEM_BKT_LEAK", 0x48, 32, [(4, 0x10)], [⟨0, 32, .RW, 0x36ee80⟩]⟩,
  ⟨"MEM_BKT_CECNT", 0x4c, 32, [(4, 0x10)], [⟨0, 32, .RO, 0⟩]⟩,
  ⟨"MEM_LOGWR", 0x80, 32, [], [⟨0, 32, .RO, 0⟩]⟩,
  ⟨"MEM_UECNT", 0x84, 32, [], [⟨0, 32, .RO, 0⟩]⟩,
  ⟨"MEM_UELAST", 0x88, 64, [], [⟨0, 40, .RO, 0⟩]⟩,
  ⟨"MEM_SPOILCMD", 0x100, 64, [], [⟨0, 40, .WO, 0⟩, ⟨40, 1, .WO, 0⟩, ⟨41, 1, .WO, 0⟩]⟩,
  ⟨"MEM_SPOILSTAT", 0x108, 32, [], [⟨0, 3, .RO, 0⟩, ⟨3, 10, .RO, 0⟩, ⟨13, 3, .RO, 0⟩]⟩,
  ⟨"MEM_BANKMAP", 0x140, 32, [(4, 0x4)], [⟨0, 10, .RO, 0⟩, ⟨31, 1, .RO, 0⟩]⟩]

/-- Registers of MEM, part 2 (R287). -/
def mem1 : List RegSpec := [
  ⟨"MEM_LOG_W0", 0x1000, 64, [(64, 0x20)], [⟨0, 64, .RO, 0⟩]⟩,
  ⟨"MEM_LOG_W1", 0x1008, 64, [(64, 0x20)], [⟨0, 64, .RO, 0⟩]⟩,
  ⟨"MEM_LOG_TIME", 0x1010, 64, [(64, 0x20)], [⟨0, 64, .RO, 0⟩]⟩,
  ⟨"MEM_LOG_LAST", 0x1018, 64, [(64, 0x20)], [⟨0, 64, .RO, 0⟩]⟩,
  ⟨"MEM_REMAP", 0x2000, 32, [(512, 0x4)], [⟨0, 21, .RO, 0⟩, ⟨30, 1, .RO, 0⟩, ⟨31, 1, .RO, 0⟩]⟩]

def mem : List RegSpec := mem0 ++ mem1

/-- Registers of NET, part 1 (R322). -/
def net0 : List RegSpec := [
  ⟨"NET_STAT", 0x0, 32, [], [⟨0, 1, .RO, 0⟩, ⟨1, 1, .RO, 0⟩, ⟨2, 2, .RO, 0⟩, ⟨4, 2, .RO, 0⟩, ⟨6, 1, .RO, 0⟩, ⟨7, 1, .RO, 0⟩, ⟨8, 1, .RO, 0⟩, ⟨9, 1, .RO, 0⟩]⟩,
  ⟨"NET_LASTFAULT", 0x8, 32, [], [⟨0, 16, .RC, 0⟩]⟩,
  ⟨"NET_PORTCFG", 0x10, 32, [(2, 0x4)], [⟨0, 1, .RW, 0⟩, ⟨1, 3, .RW, 7⟩, ⟨4, 1, .RW, 0⟩, ⟨5, 1, .RW, 0⟩]⟩,
  ⟨"NET_SWCFG", 0x20, 32, [], [⟨0, 1, .RW, 1⟩, ⟨1, 1, .RW, 1⟩, ⟨2, 2, .RW, 0⟩]⟩,
  ⟨"NET_SWAGE", 0x24, 32, [], [⟨0, 16, .RW, 0x12c⟩]⟩,
  ⟨"NET_RXCFG", 0x28, 32, [], [⟨0, 1, .RW, 0⟩]⟩,
  ⟨"NET_TXTHR", 0x2c, 32, [], [⟨0, 14, .RW, 0x100⟩]⟩,
  ⟨"NET_PAUSECFG", 0x30, 32, [], [⟨0, 6, .RW, 0x18⟩, ⟨8, 6, .RW, 8⟩, ⟨16, 16, .RW, 0x200⟩]⟩,
  ⟨"NET_CNTHALF_LO", 0x40, 64, [], [⟨0, 64, .W1C, 0⟩]⟩,
  ⟨"NET_CNTHALF_HI", 0x48, 64, [], [⟨0, 56, .W1C, 0⟩]⟩,
  ⟨"NET_MACADDR", 0x60, 64, [], [⟨0, 48, .RO, 0⟩]⟩,
  ⟨"NET_TSQ_ID", 0x80, 32, [], [⟨0, 12, .RO, 0⟩, ⟨12, 2, .RO, 0⟩, ⟨14, 1, .RO, 0⟩, ⟨15, 1, .RO, 0⟩]⟩,
  ⟨"NET_TSQ_SEC", 0x88, 64, [], [⟨0, 48, .RO, 0⟩]⟩,
  ⟨"NET_TSQ_NS", 0x90, 32, [], [⟨0, 32, .RO, 0⟩]⟩,
  ⟨"NET_TSQ_POP", 0x94, 32, [], [⟨0, 1, .WO, 0⟩]⟩,
  ⟨"NET_TSQ_CNT", 0x98, 32, [], [⟨0, 6, .RO, 0⟩]⟩]

/-- Registers of NET, part 2 (R322). -/
def net1 : List RegSpec := [
  ⟨"NET_TSLAT_TX0", 0xa0, 32, [], [⟨0, 8, .RW, 0⟩, ⟨8, 24, .RW, 0x6e0⟩]⟩,
  ⟨"NET_TSLAT_TX1", 0xa4, 32, [], [⟨0, 8, .RW, 0⟩, ⟨8, 24, .RW, 0x138⟩]⟩,
  ⟨"NET_TSLAT_TX2", 0xa8, 32, [], [⟨0, 8, .RW, 0⟩, ⟨8, 24, .RW, 0x88⟩]⟩,
  ⟨"NET_TSLAT_RX0", 0xb0, 32, [], [⟨0, 8, .RW, 0⟩, ⟨8, 24, .RW, 0x1400⟩]⟩,
  ⟨"NET_TSLAT_RX1", 0xb4, 32, [], [⟨0, 8, .RW, 0⟩, ⟨8, 24, .RW, 0x210⟩]⟩,
  ⟨"NET_TSLAT_RX2", 0xb8, 32, [], [⟨0, 8, .RW, 0⟩, ⟨8, 24, .RW, 0xe0⟩]⟩,
  ⟨"NET_RING_BASE", 0x100, 64, [(6, 0x20)], [⟨0, 40, .RW, 0⟩]⟩,
  ⟨"NET_RING_SIZE", 0x108, 32, [(6, 0x20)], [⟨0, 13, .RW, 8⟩]⟩,
  ⟨"NET_RING_CTL", 0x10c, 32, [(6, 0x20)], [⟨0, 1, .RW, 0⟩, ⟨1, 1, .WO, 0⟩]⟩,
  ⟨"NET_RING_HEAD", 0x110, 32, [(6, 0x20)], [⟨0, 12, .RO, 0⟩]⟩,
  ⟨"NET_RING_STAT", 0x114, 32, [(6, 0x20)], [⟨0, 1, .RO, 0⟩]⟩,
  ⟨"NET_WAKE_LO", 0x200, 64, [(8, 0x20)], [⟨0, 64, .RW, 0⟩]⟩,
  ⟨"NET_WAKE_HI", 0x208, 64, [(8, 0x20)], [⟨0, 64, .RW, 0⟩]⟩,
  ⟨"NET_WAKE_CRC", 0x210, 32, [(8, 0x20)], [⟨0, 16, .RW, 0⟩, ⟨16, 1, .RW, 0⟩]⟩,
  ⟨"NET_WAKESTAT", 0x300, 32, [], [⟨0, 8, .W1C, 0⟩]⟩,
  ⟨"NET_VLANF", 0x400, 32, [(16, 0x4)], [⟨0, 12, .RW, 0⟩, ⟨16, 1, .RW, 0⟩]⟩]

/-- Registers of NET, part 3 (R322). -/
def net2 : List RegSpec := [
  ⟨"NET_CNT", 0x1000, 32, [(3, 0x100), (40, 0x4)], [⟨0, 32, .RO, 0⟩]⟩]

def net : List RegSpec := net0 ++ net1 ++ net2

/-- Registers of FBS, part 1 (R339). -/
def fbs0 : List RegSpec := [
  ⟨"FBS_CFG", 0x0, 32, [(4, 0x4000)], [⟨0, 1, .RW, 0⟩, ⟨1, 1, .RW, 0⟩, ⟨2, 1, .RW, 0⟩, ⟨3, 1, .RW, 1⟩, ⟨4, 1, .RW, 0⟩, ⟨5, 1, .RW, 0⟩, ⟨6, 1, .RW, 0⟩, ⟨7, 1, .RW, 0⟩]⟩,
  ⟨"FBS_NBT", 0x4, 32, [(4, 0x4000)], [⟨0, 8, .RW, 1⟩, ⟨8, 8, .RW, 0x3e⟩, ⟨16, 7, .RW, 0xf⟩, ⟨24, 7, .RW, 0xf⟩]⟩,
  ⟨"FBS_DBT", 0x8, 32, [(4, 0x4000)], [⟨0, 5, .RW, 0⟩, ⟨8, 5, .RW, 0x1e⟩, ⟨16, 4, .RW, 7⟩, ⟨24, 4, .RW, 7⟩]⟩,
  ⟨"FBS_TDC", 0xc, 32, [(4, 0x4000)], [⟨0, 1, .RW, 0⟩, ⟨8, 7, .RW, 0x20⟩]⟩,
  ⟨"FBS_STAT", 0x10, 32, [(4, 0x4000)], [⟨0, 2, .RO, 3⟩, ⟨2, 1, .RO, 0⟩, ⟨3, 1, .RO, 0⟩, ⟨4, 1, .RO, 0⟩, ⟨5, 1, .W1C, 0⟩, ⟨8, 4, .RO, 0⟩]⟩,
  ⟨"FBS_ERR", 0x14, 32, [(4, 0x4000)], [⟨0, 9, .RO, 0⟩, ⟨16, 9, .RO, 0⟩]⟩,
  ⟨"FBS_CTRL", 0x18, 32, [(4, 0x4000)], [⟨0, 1, .WO, 0⟩]⟩,
  ⟨"FBS_TXREQ", 0x20, 32, [(4, 0x4000)], [⟨0, 3, .WO, 0⟩]⟩,
  ⟨"FBS_TXCAN", 0x24, 32, [(4, 0x4000)], [⟨0, 3, .WO, 0⟩]⟩,
  ⟨"FBS_TXSENT", 0x28, 32, [(4, 0x4000)], [⟨0, 32, .RO, 0⟩]⟩,
  ⟨"FBS_RXBASE", 0x40, 64, [(4, 0x4000)], [⟨0, 40, .RW, 0⟩]⟩,
  ⟨"FBS_RXSIZE", 0x48, 32, [(4, 0x4000)], [⟨0, 4, .RW, 8⟩]⟩,
  ⟨"FBS_RXWR", 0x4c, 32, [(4, 0x4000)], [⟨0, 32, .RO, 0⟩]⟩,
  ⟨"FBS_RXRD", 0x50, 32, [(4, 0x4000)], [⟨0, 32, .RW, 0⟩]⟩,
  ⟨"FBS_RXDROP", 0x54, 32, [(4, 0x4000)], [⟨0, 32, .RO, 0⟩]⟩,
  ⟨"FBS_LASTFAULT", 0x60, 32, [(4, 0x4000)], [⟨0, 16, .RC, 0⟩]⟩]

/-- Registers of FBS, part 2 (R339). -/
def fbs1 : List RegSpec := [
  ⟨"FBS_TXB_ID", 0x100, 32, [(4, 0x4000), (3, 0x80)], [⟨0, 29, .RW, 0⟩, ⟨29, 1, .RW, 0⟩, ⟨30, 1, .RW, 0⟩]⟩,
  ⟨"FBS_TXB_CTL", 0x104, 32, [(4, 0x4000), (3, 0x80)], [⟨0, 4, .RW, 0⟩, ⟨4, 1, .RW, 0⟩, ⟨5, 1, .RW, 0⟩]⟩,
  ⟨"FBS_TXB_STAT", 0x108, 32, [(4, 0x4000), (3, 0x80)], [⟨0, 3, .RO, 0⟩, ⟨3, 1, .RO, 0⟩, ⟨4, 1, .W1C, 0⟩]⟩,
  ⟨"FBS_TXB_TS", 0x10c, 32, [(4, 0x4000), (3, 0x80)], [⟨0, 32, .RO, 0⟩]⟩,
  ⟨"FBS_TXB_DATA", 0x110, 32, [(4, 0x4000), (3, 0x80), (16, 0x4)], [⟨0, 32, .RW, 0⟩]⟩,
  ⟨"FBS_TSCNT", 0x3f00, 32, [(4, 0x4000)], [⟨0, 32, .RO, 0⟩]⟩,
  ⟨"FBS_TSSNAP_A", 0x3f08, 64, [(4, 0x4000)], [⟨0, 32, .RO, 0⟩, ⟨32, 32, .RO, 0⟩]⟩,
  ⟨"FBS_TSSNAP_B", 0x3f10, 64, [(4, 0x4000)], [⟨0, 48, .RO, 0⟩, ⟨48, 16, .RO, 0⟩]⟩,
  ⟨"FBS_TSSNAP_CTL", 0x3f18, 32, [(4, 0x4000)], [⟨0, 1, .WO, 0⟩]⟩]

def fbs : List RegSpec := fbs0 ++ fbs1

/-- Registers of TIM, part 1 (R362). -/
def tim0 : List RegSpec := [
  ⟨"TIM_SEC", 0x0, 64, [], [⟨0, 48, .RO, 0⟩]⟩,
  ⟨"TIM_NSF", 0x8, 64, [], [⟨0, 32, .RO, 0⟩, ⟨32, 32, .RO, 0⟩]⟩,
  ⟨"TIM_NOW", 0x10, 64, [], [⟨0, 64, .RO, 0⟩]⟩,
  ⟨"TIM_INCR", 0x18, 64, [], [⟨0, 40, .RW, 0x800000000⟩]⟩,
  ⟨"TIM_STEP", 0x20, 64, [], [⟨0, 64, .WO, 0⟩]⟩,
  ⟨"TIM_STAT", 0x38, 32, [], [⟨0, 2, .RO, 0⟩, ⟨2, 1, .RO, 0⟩, ⟨3, 1, .RO, 0⟩, ⟨4, 1, .W1C, 0⟩, ⟨5, 1, .W1C, 0⟩]⟩,
  ⟨"TIM_CTRL", 0x40, 32, [], [⟨0, 1, .WO, 0⟩, ⟨1, 1, .WO, 0⟩, ⟨2, 2, .WO, 0⟩, ⟨4, 1, .WO, 0⟩]⟩,
  ⟨"TIM_STEPCNT", 0x48, 32, [], [⟨0, 16, .RO, 0⟩]⟩,
  ⟨"TIM_LASTSTEP", 0x50, 64, [], [⟨0, 64, .RO, 0⟩]⟩,
  ⟨"TIM_LASTFAULT", 0x58, 32, [], [⟨0, 16, .RC, 0⟩]⟩]

def tim : List RegSpec := tim0

/-- Registers of RTC, part 1 (R363). -/
def rtc0 : List RegSpec := [
  ⟨"RTC_TIME", 0x0, 64, [], [⟨0, 56, .RW, 0x7d0c2100000000⟩]⟩,
  ⟨"RTC_STAT", 0x8, 32, [], [⟨0, 1, .RO, 1⟩, ⟨1, 1, .RO, 0⟩, ⟨2, 1, .W1C, 1⟩]⟩,
  ⟨"RTC_CTRL", 0x10, 32, [], [⟨0, 1, .WO, 0⟩, ⟨1, 1, .WO, 0⟩]⟩,
  ⟨"RTC_FIRSTSW", 0x18, 64, [], [⟨0, 56, .RO, 0⟩, ⟨63, 1, .RO, 0⟩]⟩,
  ⟨"RTC_SWCOUNT", 0x20, 32, [], [⟨0, 16, .RO, 0⟩]⟩,
  ⟨"RTC_UTCOFS", 0x24, 32, [], [⟨0, 16, .RW, 0x25⟩]⟩,
  ⟨"RTC_WAKE", 0x28, 32, [], [⟨0, 5, .RW, 0⟩, ⟨8, 1, .RW, 0⟩]⟩,
  ⟨"RTC_W256", 0x2c, 32, [], [⟨0, 32, .RO, 0⟩]⟩,
  ⟨"RTC_RAW", 0x30, 64, [], [⟨0, 48, .RO, 0⟩]⟩,
  ⟨"RTC_TRIM", 0x38, 32, [], [⟨0, 16, .RW, 0xfa⟩, ⟨16, 16, .RW, 0x22⟩]⟩,
  ⟨"RTC_TRIMOFS", 0x3c, 32, [], [⟨0, 16, .RW, 0⟩, ⟨16, 16, .RW, 0⟩]⟩,
  ⟨"RTC_TRIMNOW", 0x40, 32, [], [⟨0, 16, .RO, 0⟩, ⟨16, 16, .RO, 0⟩]⟩,
  ⟨"RTC_LASTFAULT", 0x48, 32, [], [⟨0, 16, .RC, 0⟩]⟩]

def rtc : List RegSpec := rtc0

/-- Registers of KEY, part 1 (R383). -/
def key0 : List RegSpec := [
  ⟨"KEY_STAT", 0x0, 32, [], [⟨0, 1, .RO, 0⟩, ⟨1, 1, .RO, 0⟩, ⟨2, 1, .RO, 0⟩, ⟨3, 1, .RO, 0⟩, ⟨8, 7, .RO, 0⟩]⟩,
  ⟨"KEY_CFG", 0x4, 32, [], [⟨0, 14, .RW, 0⟩]⟩,
  ⟨"KEY_TENEN", 0x8, 64, [], [⟨0, 64, .RW, 0⟩]⟩,
  ⟨"KEY_FLBASE", 0x10, 64, [], [⟨0, 40, .RW, 0⟩]⟩,
  ⟨"KEY_FLREQ", 0x18, 64, [], [⟨0, 64, .WO, 0⟩]⟩,
  ⟨"KEY_FLSTAT", 0x20, 32, [], [⟨0, 16, .RO, 0⟩, ⟨16, 8, .RO, 0⟩, ⟨24, 8, .RO, 0⟩]⟩,
  ⟨"KEY_BOOT", 0x24, 32, [], [⟨0, 32, .RO, 0⟩]⟩,
  ⟨"KEY_LASTFAULT", 0x28, 32, [], [⟨0, 16, .RC, 0⟩]⟩,
  ⟨"KEY_CMD", 0x40, 64, [], [⟨0, 4, .WO, 0⟩, ⟨4, 3, .WO, 0⟩, ⟨7, 1, .WO, 0⟩, ⟨16, 7, .WO, 0⟩, ⟨24, 7, .WO, 0⟩, ⟨32, 4, .WO, 0⟩, ⟨40, 6, .WO, 0⟩]⟩,
  ⟨"KEY_ARG", 0x48, 64, [(2, 0x8)], [⟨0, 40, .RW, 0⟩]⟩,
  ⟨"KEY_LEN", 0x58, 32, [], [⟨0, 24, .RW, 0⟩, ⟨24, 8, .RW, 0⟩]⟩,
  ⟨"KEY_RESULT", 0x5c, 32, [], [⟨0, 3, .RO, 0⟩, ⟨4, 1, .RO, 0⟩, ⟨8, 4, .RO, 0⟩]⟩,
  ⟨"KEY_LABEL", 0x60, 32, [(8, 0x4)], [⟨0, 32, .RW, 0⟩]⟩,
  ⟨"KEY_KDATA", 0x80, 32, [(8, 0x4)], [⟨0, 32, .WO, 0⟩]⟩,
  ⟨"KEY_SLOT", 0x100, 32, [(64, 0x4)], [⟨0, 3, .RO, 0⟩, ⟨3, 1, .RO, 0⟩, ⟨4, 4, .RO, 0⟩, ⟨8, 2, .RO, 0⟩, ⟨10, 1, .RO, 0⟩]⟩,
  ⟨"KEY_TSEQ", 0x200, 64, [(64, 0x8)], [⟨0, 64, .RO, 0⟩]⟩]

def key : List RegSpec := key0

/-- Registers of TLY, part 1 (R400). -/
def tly0 : List RegSpec := [
  ⟨"TLY_CFG", 0x0, 32, [], [⟨0, 17, .RW, 0x384⟩, ⟨24, 8, .RW, 0x5a⟩]⟩,
  ⟨"TLY_ALIGN", 0x4, 32, [], [⟨0, 32, .RW, 0x25⟩]⟩,
  ⟨"TLY_STAT", 0x8, 32, [], [⟨0, 1, .RO, 0⟩, ⟨1, 1, .RO, 0⟩, ⟨2, 1, .W1C, 0⟩, ⟨3, 1, .RO, 0⟩]⟩,
  ⟨"TLY_NEXTSEQ", 0xc, 32, [], [⟨0, 32, .RO, 0⟩]⟩,
  ⟨"TLY_OLDSEQ", 0x10, 32, [], [⟨0, 32, .RO, 0⟩]⟩,
  ⟨"TLY_USED", 0x14, 32, [], [⟨0, 25, .RO, 0⟩]⟩,
  ⟨"TLY_EVLOST", 0x18, 32, [], [⟨0, 32, .RO, 0⟩]⟩,
  ⟨"TLY_ERASES", 0x1c, 32, [], [⟨0, 32, .RO, 0⟩]⟩,
  ⟨"TLY_LASTFAULT", 0x20, 32, [], [⟨0, 16, .RC, 0⟩]⟩,
  ⟨"TLY_EPSTART", 0x28, 64, [], [⟨0, 64, .RO, 0⟩]⟩,
  ⟨"TLY_DEF", 0x2000, 64, [(1024, 0x8)], [⟨0, 2, .RWL, 0⟩, ⟨2, 1, .RWL, 0⟩, ⟨16, 16, .RWL, 0⟩, ⟨32, 32, .RO, 0⟩]⟩]

def tly : List RegSpec := tly0

/-- Registers of UPD, part 1 (R420). -/
def upd0 : List RegSpec := [
  ⟨"UPD_STAT", 0x0, 32, [], [⟨0, 4, .RO, 0⟩, ⟨4, 1, .RO, 0⟩, ⟨5, 1, .RO, 0⟩, ⟨6, 1, .RO, 0⟩, ⟨7, 1, .RO, 0⟩, ⟨8, 1, .W1C, 0⟩, ⟨9, 1, .RO, 0⟩]⟩,
  ⟨"UPD_CFG", 0x4, 32, [], [⟨0, 1, .RWL, 0⟩, ⟨1, 1, .RW, 0⟩, ⟨2, 1, .RW, 0⟩, ⟨8, 8, .RW, 0x48⟩, ⟨16, 6, .RW, 0⟩]⟩,
  ⟨"UPD_ACTTIME", 0x8, 64, [], [⟨0, 64, .RW, 0⟩]⟩,
  ⟨"UPD_GROUP", 0x10, 32, [], [⟨0, 16, .RW, 0⟩]⟩,
  ⟨"UPD_MOVTHR", 0x14, 32, [], [⟨0, 32, .RW, 0x64⟩]⟩,
  ⟨"UPD_FALLSLOT", 0x18, 32, [], [⟨0, 17, .RW, 0x2a30⟩]⟩,
  ⟨"UPD_CONFLEFT", 0x1c, 32, [], [⟨0, 32, .RO, 0⟩]⟩,
  ⟨"UPD_BANK", 0x20, 32, [], [⟨0, 1, .RO, 0⟩, ⟨1, 1, .RO, 0⟩]⟩,
  ⟨"UPD_VER", 0x24, 32, [(2, 0x4)], [⟨0, 32, .RO, 0⟩]⟩,
  ⟨"UPD_SLSTAT", 0x30, 32, [], [⟨0, 12, .RO, 0⟩]⟩,
  ⟨"UPD_GAPLAST", 0x34, 32, [], [⟨0, 32, .RO, 0⟩]⟩,
  ⟨"UPD_LOCKCNT", 0x38, 32, [], [⟨0, 32, .RO, 0⟩]⟩,
  ⟨"UPD_CELLV", 0x3c, 32, [], [⟨0, 16, .RO, 0⟩]⟩,
  ⟨"UPD_LASTFAULT", 0x40, 32, [], [⟨0, 16, .RC, 0⟩]⟩]

def upd : List RegSpec := upd0

/-- Registers of NVS, part 1 (R296). -/
def nvs0 : List RegSpec := [
  ⟨"NVS_STAT", 0x0, 32, [], [⟨0, 1, .RO, 0⟩, ⟨1, 1, .RO, 0⟩, ⟨2, 1, .RO, 0⟩, ⟨3, 1, .RO, 0⟩, ⟨4, 1, .RO, 0⟩, ⟨5, 1, .RO, 0⟩]⟩,
  ⟨"NVS_CMD", 0x8, 32, [], [⟨0, 2, .WO, 0⟩]⟩,
  ⟨"NVS_LBA", 0x10, 32, [], [⟨0, 21, .RW, 0⟩]⟩,
  ⟨"NVS_COUNT", 0x14, 32, [], [⟨0, 15, .RW, 1⟩]⟩,
  ⟨"NVS_ADDR", 0x18, 64, [], [⟨0, 40, .RW, 0⟩]⟩,
  ⟨"NVS_RESULT", 0x20, 32, [], [⟨0, 3, .RO, 0⟩, ⟨8, 4, .RO, 0⟩]⟩,
  ⟨"NVS_BADLBA", 0x24, 32, [], [⟨0, 21, .RO, 0⟩]⟩,
  ⟨"NVS_HEALTH", 0x28, 32, [], [⟨0, 8, .RO, 0⟩, ⟨8, 8, .RO, 0⟩]⟩,
  ⟨"NVS_RDERR", 0x2c, 32, [], [⟨0, 32, .RO, 0⟩]⟩,
  ⟨"NVS_WRERR", 0x30, 32, [], [⟨0, 32, .RO, 0⟩]⟩,
  ⟨"NVS_LASTFAULT", 0x38, 32, [], [⟨0, 16, .RC, 0⟩]⟩]

def nvs : List RegSpec := nvs0

end RegTable

/-- The register block whose window holds an address, with the block's base (Table 1.6, R24). The four engine
windows share one table whose array stride is the window. -/
def blockOf (a : Nat) : Nat × List RegSpec :=
  match (a - 0x10000000) / 0x10000 with
  | 0 => (0x10000000, RegTable.sys)
  | 1 => (0x10010000, RegTable.pwr)
  | 2 => (0x10020000, RegTable.phs)
  | 3 => (0x10030000, RegTable.tsk)
  | 4 => (0x10040000, RegTable.fbe)
  | 5 => (0x10040000, RegTable.fbe)
  | 6 => (0x10040000, RegTable.fbe)
  | 7 => (0x10040000, RegTable.fbe)
  | 8 => (0x10080000, RegTable.lpe)
  | 9 => (0x10090000, RegTable.slr)
  | 10 => (0x100A0000, RegTable.met)
  | 11 => (0x100B0000, RegTable.mem)
  | 12 => (0x100C0000, RegTable.net)
  | 13 => (0x100D0000, RegTable.fbs)
  | 14 => (0x100E0000, RegTable.tim)
  | 15 => (0x100F0000, RegTable.rtc)
  | 16 => (0x10100000, RegTable.key)
  | 17 => (0x10110000, RegTable.tly)
  | 18 => (0x10120000, RegTable.upd)
  | 19 => (0x10130000, RegTable.nvs)
  | _ => (0, [])

/-- Whether `off` is the offset of an element of an array of the given dimensions that starts at 0. The strides
fall from the first dimension to the last, but for arrays of one dimension. -/
def inDims : List (Nat × Nat) → Nat → Bool
  | [], off => off == 0
  | (c, s) :: ds, off => if off / s < c then inDims ds (off % s) else false

/-- Whether a register specification has a register at this offset of its block. -/
def RegSpec.at (r : RegSpec) (off : Nat) : Bool := r.off ≤ off && inDims r.dims (off - r.off)

/-- The register at an address, if the block's table has one there (R10: other offsets carry no register). -/
def regAt (a : Nat) : Option RegSpec :=
  let b := blockOf a
  b.2.find? fun r => r.at (a - b.1)

/-- The field of the register at address `a` that a table row describes. -/
def FieldSpec.fld (f : FieldSpec) (a : Nat) : Fld := ⟨a * 64 + f.lo, f.width, f.reset⟩

end Sys2Proof.Machine
end

