-- ==== Sys2Proof/Machine/State.lean ====
section
/-! DEFINITION. The state of the module: registers, memory, flash and everything else the spec gives it, as plain data,
the queue of waiting commands, the outcomes of a step, and the state at reset. -/

namespace Sys2Proof.Machine

/-- Why a step can stop with a fault. Each stop is safe: nothing is claimed of a machine that has stopped. -/
inductive Fault where
  /-- An operand that names a unit the module has not. Raised by no command of this model: every operand's type names only units
  that exist, and the spec gives every command an effect. Safe. -/
  | noSuchUnit (what : String)
  deriving DecidableEq, Repr

/-- Why a step can be refused. -/
inductive Refusal where
  /-- Raised by a command that the model gives no meaning yet. Safe. -/
  | notModelled (mnemonic : String)
  deriving DecidableEq, Repr

/-- The bits in error of one codeword (R273): bits that flipped since they were written, cells stuck at a level, and
whether the codeword carries the poison syndrome (R278). Data bit n is n; check bit k of a codeword of w data bits is
w + k (Table 11.2). -/
structure CwErr where
  soft : List Nat := []
  stuck : List (Nat × Bool) := []
  poison : Bool := false
  deriving DecidableEq, Repr

/-- An access that waits above MEM_FRONT (R281): master, size in bytes, address, and the value of a write. -/
structure FrontWait where
  master : Nat
  size : Nat
  addr : Nat
  value : Option Nat
  deriving DecidableEq, Repr

/-- MEM and the retirement engine (R273 to R285). -/
structure MemState where
  /-- Codewords in error, by the address of their first byte. -/
  ecc : Sparse CwErr := []
  /-- Accesses waiting above the front, oldest first (R281). -/
  waiting : List FrontWait := []
  /-- The retirement copy in progress: true for an SRAM bank, its page or bank number, and its spare (R283, R284). -/
  retiring : Option (Bool × Nat × Nat) := none
  /-- The initialiser of R281: 1 the SRAM initialiser runs, 2 the DRAM initialiser runs, 0 neither. -/
  init : Nat := 1
  deriving DecidableEq, Repr

/-- A supervisor block command in progress: OP, LBA, COUNT, ADDR, the blocks that fail, and the status it will end with
(R290); with no status yet, it waits for MEM_FRONT or for the end of a power-fail warning (R281, R429). -/
structure NvsCmd where
  op : Nat
  lba : Nat
  count : Nat
  addr : Nat
  failed : List Nat
  status : Option Nat
  deriving DecidableEq, Repr

/-- A piece of a flash record that goes by way of NVS: bytes at a flash address, or blocks that read as zeros again. -/
inductive FlashJob where
  | put (addr : Nat) (bytes : List (BitVec 8))
  | trim (addr : Nat) (len : Nat)
  deriving DecidableEq, Repr

/-- NVS beyond its registers (R288 to R294). -/
structure NvsState where
  cmd : Option NvsCmd := none
  /-- Flash did not become ready within 1 s (R294). -/
  notReady : Bool := false
  /-- The program slot marked active: 0 PROG0, 1 PROG1; and whether a load has marked one yet (R169). -/
  activeSlot : Nat := 0
  marked : Bool := false
  /-- The snapshot slot of a save that was left with COMPLETE at 0, until the next save (R430). -/
  cut : Option Nat := none
  /-- Blocks that the flash cannot read, by LBA, until they are written again (R292). -/
  unreadable : List Nat := []
  /-- Blocks that a command of the supervisor has written or trimmed since their record was last written: first block and count
  (R288, R290). -/
  foreign : List (Nat × Nat) := []
  /-- Records that wait for NVS to serve the supervisor, oldest first (R291, R294, R429). -/
  due : List FlashJob := []
  /-- Blocks that the latest WRITE command on them could not write (R292). -/
  worn : List Nat := []
  deriving DecidableEq, Repr

/-- A slot action placed in a frame (R53): the frame, the slot, the instant within the frame in 20 ns steps, and the
action with its target and argument as they stood when placed; the edges of a PWM edge pair are placed as actions 1 and 2. -/
structure Placed where
  frame : Nat
  slot : Nat
  instant : Nat
  action : Nat
  target : Nat
  arg : Nat
  deriving DecidableEq, Repr

/-- The clear edge of a PWM edge pair whose set edge has been placed (Table 2.3, code 7). -/
structure ClearEdge where
  slot : Nat
  phase : Nat
  shaft : Bool
  dir : Nat
  target : Nat
  deriving DecidableEq, Repr

/-- PHS beyond its registers (R33 to R57). -/
structure PhsState where
  /-- The 32 fraction bits of the main word below PHS_PHASE (R36). -/
  frac : Nat := 0
  /-- The tracking increment, slew offset left out, 16.32 (R44, R46). -/
  trackInc : Nat := 0x218DEF416BD
  /-- Tracking increments given up, oldest first, each with the engine clock at which the next one took its place, and the tracking
  increment at the latest good frame with slice E's section (R44). -/
  replaced : List (Nat × Nat) := []
  frameInc : Nat := 0x218DEF416BD
  /-- The increment and the phase of the MAINS tracker, 16.32 and 32.32 (R37, R38). -/
  mainsInc : Nat := 0x218DEF416BD
  mainsPhase : Nat := 0
  /-- The phase of XTAL, 32.32: free, and fixed when XTAL becomes active (R37). -/
  xtalPhase : Nat := 0
  /-- The references lost now (R43), in STAT's codes: MAINS, NET, XTAL. -/
  mainsLost : Bool := true
  netLost : Bool := true
  xtalLost : Bool := false
  /-- The slew goes the longer way round (R46). -/
  slewLong : Bool := false
  /-- The slew offset in force, signed, added to the tracking increment (R46). -/
  slewOfs : Int := 0
  /-- A switch requested through PHS_CTRL and not yet taken (R47). -/
  switchTo : Option Nat := none
  /-- The latest measured frequency of MAINS in mHz (R41). -/
  measMHz : Nat := 50000
  /-- Shaft counts since the latest index crossing, signed (R40, R43). -/
  shCount : Int := 0
  /-- The direction of the latest shaft count (R40). -/
  shForward : Bool := true
  /-- The rate of the latest count interval, signed counts per second in 32 bits, and the engine clocks since that count (R40). -/
  shRate : Nat := 0
  shIdle : Nat := 0
  /-- The shaft word at its latest count, and how far interpolation has come since, in counts times 4 * 10^8 (R40). -/
  shBase : Nat := 0
  shAcc : Nat := 0
  /-- The SYNC output is high until this engine clock (R448). -/
  syncUntil : Nat := 0
  /-- The shaft word relocks at its next index crossing (R45). -/
  shRelock : Bool := false
  /-- The SCH writes of the latest engine clock that had one: slot, engine and clock (R161). -/
  schWrites : List (Nat × Nat × Nat) := []
  /-- Actions placed and not yet executed, in the order placed (R53). -/
  placed : List Placed := []
  /-- Clear edges not yet placed (Table 2.3). -/
  clears : List ClearEdge := []
  /-- Actions deferred to the start of the next predicted frame (R55, R72). -/
  deferred : List Placed := []
  deriving DecidableEq, Repr

/-- What TSK holds of one run in progress (R82, R88, R112, R154). -/
structure TaskState where
  /-- The release countdown (R82). -/
  countdown : Nat := 0
  /-- A run is in progress: released and not finished. -/
  running : Bool := false
  /-- The bank of its note holds this run (R112), and the run has been dispatched on its engine. -/
  loaded : Bool := false
  started : Bool := false
  /-- A deadline is due for the latest release (R83). -/
  armed : Bool := false
  /-- The run was carried through HOLD (R101). -/
  carried : Bool := false
  /-- Lenient overruns in a row (R96). -/
  streak : Nat := 0
  /-- TSTAMP, PSTAMP and TSK_CYCCNT at the release latch (R154, R162). -/
  tstamp : Nat := 0
  pstamp : Nat := 0
  cycnow : Nat := 0
  /-- The engine's tick count at the release (R162, TICKS). -/
  tick0 : Nat := 0
  /-- Window lines moved since the release (R153). -/
  lines : Nat := 0
  /-- Call depth of the run (R128). -/
  depth : Nat := 0
  deriving DecidableEq, Repr

/-- A mode request that waits: for its boundary, or for a save, a restart or a retirement copy to end (R97, R175). -/
inductive Request where
  | stop (cause : Nat)
  | hold
  | step
  | runFromHold
  deriving DecidableEq, Repr

/-- Where an entry to RUN from STOP stands (R97, R175, R177). -/
inductive RunEntry where
  /-- No entry in progress. -/
  | none
  /-- Waits for the end of a retain save; true for RUN-cold (R175). -/
  | waitSave (cold : Bool)
  /-- Waits for the end of a fallback gap; true for RUN-cold (R416). -/
  | waitGap (cold : Bool)
  /-- The checks have passed and the restart runs (R177). -/
  | restarting
  /-- The restart is complete: RUN begins at the next boundary. -/
  | ready
  deriving DecidableEq, Repr

/-- TSK beyond its registers (R80 to R107). -/
structure TskState where
  tasks : Sparse TaskState := []
  /-- Requests waiting for the next boundary (R97). -/
  requests : List Request := []
  entry : RunEntry := .none
  /-- An engine has halted at BRK and the canary is suspended for the rest of the step (R100). -/
  canaryOff : Bool := false
  /-- The live copies of the sources, by point: value, 256 plus the quality delivered, and 1 where the source has updated
  the point since the latest latch (R84, R85, R90). -/
  live : Sparse Nat := []
  liveQ : Sparse Nat := []
  fresh : Sparse Nat := []
  /-- Points under an input force whose Q_INIT stands beneath it, each 1 (R90, R105). -/
  initOwed : Sparse Nat := []
  /-- The value last sent to a remote station's output plus one, by point, since RUN was entered (R107), and the stations that the
  supervisor has heard since the latest latch, by BIND. -/
  stationSent : Sparse Nat := []
  heard : List Nat := []
  /-- Bit 2 once the supervisor has taken a fieldbus frame since the latest latch, bit 3 once an Ethernet one (R107). -/
  frames : Nat := 0
  /-- The engines whose instruction was under way in the clock of the latest controller stop, a mask, and that clock (R132). -/
  inFlight : Nat := 0
  stopClk : Nat := 0
  /-- Engine clock of the latest latch, whole µs only counted (R90). -/
  latchClk : Nat := 0
  /-- Network time and TSK_CYCCNT of the latest latch (R376). -/
  latchTime : Nat := 0
  latchCyc : Nat := 0
  /-- Output points written by the host that wait for a boundary of RUN, each with the value written (R319). -/
  hostCommits : List (Nat × Nat) := []
  /-- Q_RANGE and Q_FAULT that QUALSET gave an output point, plus 16, waiting for its next commit, by point (R162). -/
  qualWait : Sparse Nat := []
  /-- Output points whose Q_FAULT was set by QUALSET at their latest such commit, each 1 (R162). -/
  qualOwn : Sparse Nat := []
  /-- The retain save in progress: its slot and its cause (R173). -/
  save : Option (Nat × Nat) := none
  /-- Bytes of the retain store that this save has copied so far, and the blocks in which it met poison (R174, R279). -/
  saved : Nat := 0
  savePoison : List Nat := []
  /-- What NVS has read of the block in hand, by place in the block: flash takes it whole (R289). -/
  saveBlock : Sparse (BitVec 8) := []
  /-- Network time and TSK_CYCCNT at the start of that save (Table 7.7). -/
  saveTime : Nat := 0
  saveCyc : Nat := 0
  /-- A reset by the logic supply preceded the next restart (R106, R178). -/
  afterReset : Bool := true
  deriving DecidableEq, Repr

/-- An instance record (Table 7.3). -/
structure InstRec where
  addr : Nat
  desc : Nat
  initOff : Nat
  initLen : Nat
  flags : Nat
  deriving DecidableEq, Repr

/-- A task record (Table 7.4). -/
structure TaskRec where
  w0 : Nat
  commit : Nat
  ofs : Nat
  entry : Nat
  wclaim : Nat
  inst : Nat
  stack : Nat
  wbase : Nat
  stackSz : Nat
  wsize : Nat
  lines : Nat
  deriving DecidableEq, Repr

/-- A point declaration (Table 7.5). -/
structure PointDecl where
  point : Nat
  ty : Nat
  flags : Nat
  tenant : Nat
  wkind : Nat
  who : Nat
  stale : Nat
  bind : Nat
  deriving DecidableEq, Repr

/-- A slot claim (R73, R74, R157): slot, domain, action, TARGET's slice code and channel, the range of the action and
the range of the clear edge. -/
structure SlotClaim where
  slot : Nat
  shaft : Bool
  action : Nat
  slice : Nat
  chan : Nat
  lo : Nat
  hi : Nat
  clo : Nat
  chi : Nat
  deriving DecidableEq, Repr

/-- A loaded image, parsed (R165, Tables 7.1 to 7.5). -/
structure Image where
  profile : Nat := 1
  imageId : Nat := 0
  rlayout : Nat := 0
  /-- CODE and POOL bytes by section: target address and contents. -/
  code : List (Nat × List (BitVec 8)) := []
  poolBase : Nat := 0
  poolBytes : List (BitVec 8) := []
  types : List Nat := []
  insts : List InstRec := []
  init : List (BitVec 8) := []
  tasks : List TaskRec := []
  points : List PointDecl := []
  loops : List (List Nat) := []
  /-- The LOOPS section, for the coefficient data (R207). -/
  loopBytes : List (BitVec 8) := []
  slots : List SlotClaim := []
  slicecfg : List (BitVec 8) := []
  tally : List (List (BitVec 8)) := []
  evsub : List Nat := []
  deriving DecidableEq, Repr

/-- An entry of the admission's record that the supervisor keeps (R78): ledger in the order of Table 3.1, task, engine,
slice or frame, claim, capacity and margin. -/
structure LedgerEntry where
  ledger : Nat
  idx : Nat
  claim : Nat
  capacity : Nat
  margin : Nat
  deriving DecidableEq, Repr

/-- The load in progress (R167, R168, R175): the bytes received so far, and, once checked, the image that waits to be
committed, with the ledger of its admission. -/
inductive LoadState where
  | idle
  | receiving (bytes : List (BitVec 8))
  | checking (bytes : List (BitVec 8))
  | waitSave (bytes : List (BitVec 8)) (img : Image) (ledger : List LedgerEntry)
  deriving DecidableEq, Repr

/-- A tally event waiting to be sealed as its own record (R396): its code, its payload and its time. -/
structure TallyEvent where
  code : Nat
  payload : List (BitVec 8)
  time : Nat
  deriving DecidableEq, Repr

/-- The live set of one tally code (R389, R390, R392); MIN and MAX are f64 patterns, empty at +inf and -inf. -/
structure TallyLive where
  bins : List Nat := [0, 0, 0, 0, 0, 0, 0, 0, 0, 0, 0, 0, 0, 0, 0, 0]
  min : Nat := 0x7FF0000000000000
  mint : Nat := 0
  max : Nat := 0xFFF0000000000000
  maxt : Nat := 0
  updates : Nat := 0
  suppressed : Nat := 0
  /-- Updates accepted in the current second (R389). -/
  second : Nat := 0
  nan : Bool := false
  /-- A live epoch of its own, after a CUT by a load (R387): its START, and the boundaries missed before it. -/
  own : Option (Nat × Nat) := none
  /-- TIM was stepped, or unsynchronised, in the epoch of its own (R393). -/
  stepped : Bool := false
  unsync : Bool := false
  /-- The record of the epoch before was given up, so the next one carries PARTIAL (Table 20.4). -/
  marred : Bool := false
  deriving DecidableEq, Repr

/-- A record in the sealing bank (R392, R395): its fields but for SEQ, HMAC and CRC, and the bytes 0x20 to 0xBB. -/
structure TallyRec where
  code : Nat
  kind : Nat
  flags : Nat
  start : Nat
  stop : Nat
  epochs : Nat
  rate : Nat
  body : List (BitVec 8)
  updates : Nat
  suppressed : Nat
  imageId : Nat
  deriving DecidableEq, Repr

/-- The TLY updates of one code in one engine clock: the live set before them and as they left it, and each one's engine, value and stamp
in engine order (R161). -/
structure TallyTurn where
  clk : Nat
  code : Nat
  before : TallyLive
  after : TallyLive
  ups : List (Nat × Nat × Nat)
  deriving DecidableEq, Repr

/-- TLY beyond its registers (R384 to R398). -/
structure TlyState where
  /-- The TLY updates of the latest engine clock that had one, code by code (R161). -/
  turns : List TallyTurn := []
  /-- Events waiting to be sealed, oldest first (R396). -/
  events : List TallyEvent := []
  /-- Definitions by code, 72 bytes each (Table 16.2): program codes from the image, statistics codes from the settings. -/
  defs : Sparse (List (BitVec 8)) := []
  /-- Live sets by code. -/
  live : Sparse TallyLive := []
  /-- The index of the live epoch (R391). -/
  idx : Int := 0
  /-- TIM was stepped, or unsynchronised, in the live epoch; the live epoch is PARTIAL (R393). -/
  stepped : Bool := false
  unsync : Bool := true
  cutBefore : Bool := true
  /-- Epoch boundaries that the live sets were kept through (R397). -/
  missed : Nat := 0
  /-- EPOCH has been written since the latest second boundary (R393). -/
  epochWritten : Bool := false
  /-- The sealing bank, in the order of writing. -/
  sealing : List TallyRec := []
  /-- The log as flash keeps it: next SEQ, oldest SEQ, records held, erases, the next free place, and the place of each
  record held plus one, by SEQ (R395, R397). -/
  next : Nat := 0
  old : Nat := 0
  used : Nat := 0
  erases : Nat := 0
  place : Nat := 0
  index : Sparse Nat := []
  deriving DecidableEq, Repr

/-- A stamp of a debounced edge in a slice's FIFO (Table 9.4). -/
structure Stamp where
  time : Nat
  phase : Nat
  chan : Nat
  flags : Nat
  seq : Nat
  deriving DecidableEq, Repr

/-- What one ring frame carries to a field slice (Table 9.2, R216, R217): whether the slice receives it good, SAFE, the DO
levels, the PWM duty codes of the half that the frame carries, the AO codes, COMMIT with its mask and instant, the force
mask, and the mask of channels that follow every good frame. Masks hold DO 0 to 7 and AO 8 to 9. -/
structure SliceFrame where
  good : Bool := false
  safe : Bool := false
  levels : Nat := 0
  half : Nat := 0
  duty : List Nat := []
  ao : List Nat := []
  commit : Nat := 0
  instant : Nat := 0
  forced : Nat := 0
  every : Nat := 0
  deriving DecidableEq, Repr

/-- What a field slice puts into its section of a frame at T_f (R214, Tables 9.2 and 9.3): the debounced inputs, status bytes 0
and 1 but for the AI faults, which go with the AI codes, and the state of DO channel f mod 8. -/
structure SliceSample where
  di : Nat := 0
  status : Nat := 0
  doBad : Nat := 0
  chan : Nat := 0
  code : Nat := 0
  deriving DecidableEq, Repr

/-- A slice, as it stands on its own side of the barrier (R213 to R244). -/
structure SliceState where
  /-- It has booted and inserts its upstream section (R223). -/
  up : Bool := false
  issue : Nat := 0
  version : Nat := 0
  bank : Nat := 0
  /-- It has booted before, so its active bank and the version in it are known (R244). -/
  known : Bool := false
  /-- Its own joining is not complete (R221). -/
  bootSafe : Bool := true
  /-- The watchdog has tripped and 40 good frames with SAFE = 0 have not yet followed (R221). -/
  wdSafe : Bool := false
  /-- The latest good frame carried SAFE = 1 (R221). -/
  frameSafe : Bool := false
  /-- Good frames received in a row since it inserted its section, and good frames in a row with SAFE = 0, to 40 (R221). -/
  goodRun : Nat := 0
  clearRun : Nat := 0
  /-- The frame now in effect, and the frame received since (R214). -/
  cur : SliceFrame := {}
  next : SliceFrame := {}
  /-- Commanded DO levels (R231). -/
  levels : Nat := 0
  /-- The newest PWM duty codes, and the on-time of the period in progress in 20 ns steps (R237). -/
  duty : List Nat := [0, 0, 0, 0, 0, 0, 0, 0]
  onTime : List Nat := [0, 0, 0, 0, 0, 0, 0, 0]
  /-- The AO codes applied; at 0 V or 0 mA until the boot has ended (R223). -/
  ao : List Nat := [0, 0]
  /-- DO channels in a condition of Table 9.5. -/
  latched : Nat := 0
  thermal : Nat := 0
  limit : Nat := 0
  openLoad : Nat := 0
  /-- DO channels whose current has been below 5 mA for 10 ms (Table 9.5). -/
  below : Nat := 0
  /-- Its status (R221, R234, R235, R241): field supply low and missing, SUMOVER, the watchdog has tripped, the field supply in
  0.1 V, AO faults. -/
  fsLow : Bool := false
  fsMissing : Bool := false
  sumover : Bool := false
  tripped : Bool := false
  volts : Nat := 0
  aoFault : Nat := 0
  /-- Debounced inputs, edge counters, and the counters copied by the latches that wait to be reported, oldest first (R226,
  R227). -/
  di : Nat := 0
  counts : List Nat := [0, 0, 0, 0, 0, 0, 0, 0, 0, 0, 0, 0]
  latch : List (Nat × List Nat) := []
  /-- What its section of the frame now on its way holds (R214). -/
  sample : SliceSample := {}
  /-- The stamp FIFO, the number of the next stamp, and whether stamps were dropped since the latest queued (R229). -/
  fifo : List Stamp := []
  stampSeq : Nat := 0
  dropped : Bool := false
  /-- The firmware version in the inactive bank, once verified there (R405, R411). -/
  staged : Option Nat := none
  /-- It has switched banks in a gap and not yet booted (R411). -/
  switching : Bool := false
  deriving DecidableEq, Repr

/-- A commit handed to the gateway (R86, R216): the frame that carries it, its slice, its instant in 20 ns steps and the
values by channel (DO 0 to 7, AO 8 to 9). -/
structure Commit where
  frame : Nat
  slice : Nat
  instant : Nat
  vals : List (Nat × Nat)
  deriving DecidableEq, Repr

/-- An AI burst record in progress or ended (R240, Table 9.6). -/
structure BurstRec where
  chan : Nat
  count : Nat
  done : Nat
  status : Nat
  time : Nat
  main : Nat
  shaft : Nat
  ofs : Nat
  /-- The frame that brings the first sample. -/
  first : Nat
  deriving DecidableEq, Repr

/-- The ring gateway and the slices (R213 to R246). -/
structure RingState where
  /-- The number of the next frame, and the engine clock of the latest frame's start. -/
  frame : Nat := 0
  frameClk : Nat := 0
  /-- Watchdog trips not yet reported, by slice (R245, fault 0x0703). -/
  tripOwed : Nat := 0
  /-- A slice has set CORRUPT in the frame now on its way; returned frames in a row that were not good (R218). -/
  corrupt : Bool := false
  bad : Nat := 0
  /-- Status bytes 0 and 1 as each field slice last delivered them: byte 0 plus 256 times byte 1 (Table 9.3). -/
  status : Sparse Nat := []
  slices : Sparse SliceState := []
  /-- The committed value of each output channel plus one, by 16 * slice + channel; 0 before the first commit (R222). -/
  committed : Sparse Nat := []
  commits : List Commit := []
  /-- The value last sent to each channel that a loop drives plus one, by 16 * slice + channel (R409). -/
  sent : Sparse Nat := []
  /-- The same, those of frames in a gap too: what mirror points show (R189). -/
  shown : Sparse Nat := []
  /-- The latest AI codes by 2 * slice + channel, plus one; 0 before the first (R238). -/
  aiCode : Sparse Nat := []
  bursts : List BurstRec := []
  /-- Ended records whose header is not yet written (R240). -/
  ended : List BurstRec := []
  burstSeq : Sparse Nat := []
  deriving DecidableEq, Repr

/-- A metering feeder, slice side (R247 to R266). Powers are fixed-point numbers of 40 fraction bits in W and var, energies
of 40 fraction bits in µWh (log entry 23). -/
structure FeederState where
  /-- The cycle length in samples, that of the latest cycle, in force while the feeder is locked, and the lock (R252). -/
  nc : Nat := 640
  ncLatest : Nat := 640
  locked : Bool := false
  holdover : Bool := false
  /-- The ratios and trims in force, taken at a rotation (R250). -/
  cal : Sparse Nat := []
  /-- The products of the latest samples, newest first, of L1 to L3 (R253). -/
  winP : List (List Int) := [[], [], []]
  winQ : List (List Int) := [[], [], []]
  /-- Sums of squares of the four voltages and currents over the cycle in progress, and its samples (R256). -/
  sumV : List Nat := [0, 0, 0, 0]
  sumI : List Nat := [0, 0, 0, 0]
  samples : Nat := 0
  /-- Samples and cycles of the block in progress (R252, R256). -/
  blockLen : Nat := 0
  blockCycles : Nat := 0
  /-- Good cycles in a row, to 50 (R252), and the latest current samples of L1 to L3 (R249). -/
  goodCycles : Nat := 0
  prevI : List Int := []
  /-- Whether the phase was below ISTART over the previous complete cycle (R255). -/
  noLoad : List Bool := [true, true, true]
  /-- p and q of L1 to L3 and the total at the latest sample. -/
  p : List Int := [0, 0, 0, 0]
  q : List Int := [0, 0, 0, 0]
  /-- Accumulators by 256 * phase + quantity number (R258). -/
  acc : Sparse Nat := []
  /-- Values by 256 * phase + quantity number, as f32 patterns (Table 10.4). -/
  vals : Sparse Nat := []
  /-- Channels that clipped in the cycle in progress, and in the latest cycle: V in [3:0], I in [7:4]. -/
  clipNow : Nat := 0
  clip : Nat := 0
  /-- The set of the latest snapshot and its SEQ (R259). -/
  seq : Nat := 0
  setAcc : Sparse Nat := []
  setVals : Sparse Nat := []
  setHold : Bool := false
  /-- Nanoseconds without samples or on the watchdog oscillator (R251). -/
  unmetNs : Nat := 0
  /-- The engine clock at which a firmware switch stopped the samples (R266). -/
  gapClk : Option Nat := none
  /-- What its section of the frame now on its way holds: total P, LOCK and the clip flags (R260). -/
  sentP : Nat := 0
  sentLock : Bool := false
  sentClip : Nat := 0
  /-- What it has still to report: bit 0 LOSS, bit 1 a restore that failed (R265). -/
  report : Nat := 0
  /-- The two newest writes of the accumulators to the slice's own memory (R265). -/
  saved : Sparse Nat := []
  savedOld : Sparse Nat := []
  deriving DecidableEq, Repr

/-- A pulse channel beyond its registers (R268). -/
structure PulseState where
  spill : Nat := 0
  last : Option Nat := none
  deriving DecidableEq, Repr

/-- MET beyond its registers (R247 to R272). -/
structure MetState where
  feeders : Sparse FeederState := []
  /-- Every frame of the set in progress has arrived good, by feeder (R261). -/
  setGood : Sparse Nat := []
  pulses : Sparse PulseState := []
  deriving DecidableEq, Repr

/-- The live state of one loop (R192 to R204). Values are f32 patterns. -/
structure LoopState where
  en : Bool := false
  man : Bool := false
  ramp : Bool := false
  dir : Bool := false
  own : Bool := false
  spt : Nat := 0
  rate : Nat := 0
  mv : Nat := 0
  omin : Nat := 0
  omax : Nat := 0
  hslew : Nat := 0
  /-- The freeze section; 16 names none. -/
  frz : Nat := 16
  spw : Nat := 0
  pv : Nat := 0
  err : Nat := 0
  out : Nat := 0
  raw : Nat := 0
  track : Bool := false
  clhi : Bool := false
  cllo : Bool := false
  nanSeen : Bool := false
  srcq : Bool := false
  actb : Bool := false
  held : Bool := false
  cltime : Nat := 0
  clrun : Nat := 0
  nsamp : Nat := 0
  /-- s1, s2, xl and yl by section. -/
  s1 : List Nat := []
  s2 : List Nat := []
  xl : List Nat := []
  yl : List Nat := []
  /-- The next sample is an enable sample (R202). -/
  enPend : Bool := false
  /-- The target has changed since the latest sample (R193). -/
  sptPend : Bool := false
  /-- The swap requested, true for RESCALE (R197). -/
  swap : Option Bool := none
  /-- Ownership is requested (R203). -/
  ownReq : Bool := false
  /-- The handover slew's end value G (R203). -/
  slew : Option Nat := none
  deriving DecidableEq, Repr

/-- An LPW write that has retired and has not yet been taken (R187), with its engine and the engine clock in which it acted (R161). -/
structure LoopWrite where
  loop : Nat
  sel : Nat
  value : Nat
  eng : Nat := 0
  clk : Nat := 0
  deriving DecidableEq, Repr

/-- LPE beyond its registers (R185 to R212). -/
structure LpeState where
  loops : Sparse LoopState := []
  /-- The loops as the latest frame's start left them: what LPR reads of computed values (R187). -/
  seen : Sparse LoopState := []
  /-- Coefficients of the live banks and of the declared copies, by 256 * loop + 128 * bank + index (R212). -/
  coef : Sparse Nat := []
  declared : Sparse Nat := []
  writes : List LoopWrite := []
  /-- The loop declarations have been committed since the latest frame: the next one has index 0 (R186). -/
  fresh : Bool := false
  deriving DecidableEq, Repr

/-- A flacon build in progress (R376 to R380): its tenant, its SEQ and the address of its buffer. -/
structure FlaconBuild where
  tenant : Nat
  seq : Nat
  addr : Nat
  deriving DecidableEq, Repr

/-- A KEY operation in progress (R371): its OP, and the STATUS it will end with; with no status yet, the command waits for
buffers above MEM_FRONT (R281). -/
structure KeyOp where
  op : Nat
  cmd : Nat
  status : Option Nat
  deriving DecidableEq, Repr

/-- What the supervisor has KEY do once the operation in progress has ended (R371): the owner node clear-written with the tree below it
(R372), the owner node loaded again from flash (R413), or TENANT for every enabled tenant (R379). -/
inductive KeyDue where
  | owner (node : List (BitVec 8))
  | reload
  | tenants
  deriving DecidableEq, Repr

/-- KEY beyond its registers (R364 to R381). -/
structure KeyState where
  /-- The keys in the working slots, 32 bytes each. -/
  keys : Sparse (List (BitVec 8)) := []
  /-- The tenant table: flacon keys by tenant number. -/
  tenants : Sparse (List (BitVec 8)) := []
  /-- The OTP root field, and the OTP generation fuses blown (R364, R379). -/
  root : Option (List (BitVec 8)) := none
  fuses : Nat := 0
  op : Option KeyOp := none
  /-- The supervisor's operations that wait for the one in progress, oldest first (R371). -/
  due : List KeyDue := []
  /-- An owner node that came without a store key to wrap it for flash (R372). -/
  ownerDue : Option (List (BitVec 8)) := none
  /-- Tenants queued, and those of them that a request queued, as masks with tenant t at bit t - 1 (R375). -/
  queue : Nat := 0
  byReq : Nat := 0
  /-- Build counts by tenant (R378). -/
  counts : Sparse Nat := []
  /-- Top-note boundaries counted since the latest periodic round. -/
  round : Nat := 0
  build : Option FlaconBuild := none
  /-- Draws from the entropy source so far. -/
  draws : Nat := 0
  /-- The root generation has failed since the latest reset, which alone brings another try (R364). -/
  rootTried : Bool := false
  /-- The boot record is to be read and written as soon as NVS can (R291, R294, R379). -/
  bootDue : Bool := false
  deriving DecidableEq, Repr

/-- TIM beyond its registers (R340 to R349): NS and FRAC as they count, a load from the calendar that waits for its second, the
frequency term at the latest accepted Sync, the Syncs in a row within 1 µs, and whether LOCKED has been reached. -/
structure TimState where
  ns : Nat := 0
  frac : Nat := 0
  loading : Bool := false
  freq : Nat := 0x800000000
  good : Nat := 0
  everLocked : Bool := false
  deriving DecidableEq, Repr

/-- A window over which the supervisor measures the crystal (R359): against network time or the main word, RTC_RAW at its start,
and the network seconds or turns there. -/
structure RateWindow where
  net : Bool
  raw : Nat
  start : Nat
  deriving DecidableEq, Repr

/-- RTC beyond its registers (R351 to R359): a written time not yet taken and the calendar clock edges since, a transfer from TIM
requested, the part of a count that the trim owes, in units of 10^-7, the part of a crystal period that has passed, in units of
1/390,625, and the window of the rate measurement. -/
structure RtcState where
  write : Option Nat := none
  edges : Nat := 0
  sync : Bool := false
  trim : Nat := 0
  frac : Nat := 0
  window : Option RateWindow := none
  deriving DecidableEq, Repr

/-- A learned address (R298): its port, A 0, B 1 or I 2, and the engine clock of its last refresh. -/
structure LearnedAddr where
  addr : Nat
  port : Nat
  seen : Nat
  deriving DecidableEq, Repr

/-- An entry of the transmit stamp queue (R312). -/
structure TxStamp where
  ring : Nat
  index : Nat
  port : Nat
  sec : Nat
  ns : Nat
  deriving DecidableEq, Repr

/-- A frame in the receive FIFO (R305): its bytes, its ingress port, its PHY errors, and the network time of its SFD. -/
structure RxFrame where
  bytes : List (BitVec 8)
  port : Nat
  align : Bool
  symbol : Bool
  sec : Nat
  ns : Nat
  deriving DecidableEq, Repr

/-- The frame that the MAC is sending (R304): ring, first descriptor, number of descriptors, PORTS, TSREQ, PRIO, the bytes
without FCS, and whether its data met poison. -/
structure TxFrame where
  ring : Nat
  first : Nat
  count : Nat
  ports : Nat
  tsreq : Bool
  prio : Nat
  bytes : List (BitVec 8)
  poison : Bool
  deriving DecidableEq, Repr

/-- A frame that has left a port, or waits in its egress buffer: port, queue, bytes with FCS. Queue 4 is a pause frame's. -/
structure Egress where
  port : Nat
  queue : Nat
  bytes : List (BitVec 8)
  deriving DecidableEq, Repr

/-- NET beyond its registers (R297 to R315). -/
structure NetState where
  table : List LearnedAddr := []
  fifo : List RxFrame := []
  tx : Option TxFrame := none
  stamps : List TxStamp := []
  /-- Frames that wait in egress buffers for the end of a pause hold-off. -/
  held : List Egress := []
  /-- The model's own: the frames that left ports A and B at the latest command. -/
  sent : List Egress := []
  /-- Engine clock plus one of the latest report of a fault reported at most once a second, by cause. -/
  reported : Sparse Nat := []
  deriving DecidableEq, Repr

/-- A reply on the host channel or the adit port (R317): session, 8 the adit port, TYPE, REQID, FAULT and body. -/
structure HostReply where
  sess : Nat
  type : Nat
  reqid : Nat
  fault : Nat
  body : List (BitVec 8)
  deriving DecidableEq, Repr

/-- A request of the host channel that is outstanding, by the head of the reply that it will have, or a reply that waits behind one
(R317). -/
structure OwedReply where
  reply : HostReply
  ready : Bool
  deriving DecidableEq, Repr

/-- A tally export that orders an erase: the session and REQID that it answers, LAST, the MAC, and the records exported (R398). -/
structure EraseAsk where
  sess : Nat
  reqid : Nat
  last : Nat
  mac : List (BitVec 8)
  body : List (BitVec 8)
  deriving DecidableEq, Repr

/-- The host channel (R316 to R320): the scope of each open session, 1 the owner's and 1 + t that of tenant t, and the
latest reply. -/
structure HostState where
  sessions : Sparse Nat := []
  reply : Option HostReply := none
  /-- The session and REQID that the reply to a load's last chunk answers (R167). -/
  loader : Nat × Nat := (8, 0)
  /-- The requests whose reply is outstanding and the replies that wait behind them, oldest first (R317). -/
  owed : List OwedReply := []
  /-- Erases of the tally log that wait for NVS, oldest first (R291, R398). -/
  erases : List EraseAsk := []
  /-- The session and REQID of the mode change by which a RUN request came that waits (R78, R175, R416). -/
  runAsk : Option (Nat × Nat) := none
  /-- The model's own: the replies that left at the latest answer. -/
  sent : List HostReply := []
  deriving DecidableEq, Repr

/-- The transmit copy of a buffer (R327). -/
structure TxCopy where
  id : Nat := 0
  ide : Bool := false
  rtr : Bool := false
  dlc : Nat := 0
  fdf : Bool := false
  brs : Bool := false
  data : List (BitVec 8) := []
  deriving DecidableEq, Repr

/-- A fieldbus channel beyond its registers (R323 to R335). -/
structure FbsChan where
  /-- FBS_CFG, FBS_NBT, FBS_DBT and FBS_TDC as the latest write of 1 to EN latched them (R325). -/
  fd : Bool := false
  order : Bool := false
  autorec : Bool := true
  listen : Bool := false
  selfrx : Bool := false
  oneshot : Bool := false
  term : Bool := false
  nbt : Nat := 0x0F0F3E01
  dbt : Nat := 0x07071E00
  tdc : Nat := 0x2000
  copies : Sparse TxCopy := []
  /-- The buffer whose frame is on the bus, and its SOF stamp. -/
  tx : Option (Nat × Nat) := none
  /-- The latest frame on the bus was its own, completed or broken by an error, and no other has come since (R331). -/
  broken : Bool := false
  seq : Nat := 0
  /-- Frames were dropped since the latest entry; a frame was dropped on a ring that has been full since (R334). -/
  drop : Bool := false
  full : Bool := false
  /-- The addresses of the entries whose write waits above MEM_FRONT, oldest first (R281, R334). -/
  onWay : List Nat := []
  /-- Engine clock plus one of the latest report of fault 0x0B03. -/
  reported : Nat := 0
  deriving DecidableEq, Repr

/-- A firmware bank of the module (R401, R404): whether it verifies, and the fields of its image's header. -/
structure FwBank where
  valid : Bool := false
  version : Nat := 0
  setfmt : Nat := 1
  dualfmt : Nat := 0
  migfrom : Nat := 0
  profiles : Nat := 1
  deriving DecidableEq, Repr

/-- A gap in progress (R408 to R411, R416): the engine clock of its start, whether it began in RUN, whether the new bank is
marked, whether it must end in STOP, whether it is a fallback, its cause in record 0x00A, whether the slices have switched, the
versions before and after, whether a controller stop has come in it or a stop fault stood at its start, whether a power-fail warning
has aborted it (R464), and whether its firmware and its slices are done, so that only the controller's part is left. -/
structure Gap where
  start : Nat
  fromRun : Bool
  marked : Bool
  toStop : Bool
  fallback : Bool
  cause : Nat
  switched : Bool
  oldVer : Nat
  newVer : Nat
  stopped : Bool := false
  aborted : Bool := false
  closed : Bool := false
  deriving DecidableEq, Repr

/-- The settings as a slot of the partition SET holds them (R412): the record, the wrapped owner node, and the number of the write. -/
structure SetCopy where
  record : SettingsRec := {}
  owner : List (BitVec 8) := []
  seq : Nat := 0
  deriving DecidableEq, Repr

/-- UPD beyond its registers, and the module settings (R401 to R416). -/
structure UpdState where
  bankA : FwBank := { valid := true }
  bankB : FwBank := {}
  /-- The bank marked active in flash: 0 A, 1 B. -/
  marked : Nat := 0
  /-- Bytes received of each KIND of the staging set, and the kinds whose last chunk has come. -/
  images : Sparse (List (BitVec 8)) := []
  whole : List Nat := []
  /-- The module image of the set has verified; a KIND was staged twice. -/
  verified : Bool := false
  twice : Bool := false
  gap : Option Gap := none
  /-- A fallback starts at the next boundary, with its cause in record 0x00A. -/
  fallDue : Option Nat := none
  /-- The gap that has just ended waits for its first boundary of RUN, when it is recorded. -/
  ended : Option Gap := none
  /-- A fallback that is due was held off by MOVING or CELL_LOW and is tried again (R416). -/
  heldOff : Bool := false
  /-- OTP: the signing keys revoked (R402). -/
  revoked : List Nat := []
  /-- The settings in force, the copies in the settings slots, newest first, and whether the settings in force wait to be written
  (R412, R429). -/
  settings : SettingsRec := {}
  setSlots : List SetCopy := [{}]
  setDue : Bool := false
  /-- The owner node wrapped under the store key, as flash keeps it; empty before commissioning (R372). -/
  owner : List (BitVec 8) := []
  /-- The backup slot of the settings: the record and the owner node (R413). -/
  backup : Option SetCopy := none
  /-- The bank marked active has not yet started with its settings carried across (R413). -/
  firstStart : Bool := false
  /-- Passings of UPD_FALLSLOT that a backward step of TIM owes (Table 20.4). -/
  slotBack : Nat := 0
  /-- The update record as flash kept it through a reset, or keeps it through a power-fail warning (R420, R429). -/
  record : Sparse Nat := []
  /-- The bank that the record kept through a warning has a boot start from. -/
  recordMark : Nat := 0
  /-- The calendar second, since 1970, of that record (R414). -/
  stopped : Int := 0
  /-- The payload of a record 0x00A that the next boot writes, for a gap that a reset has ended; empty for none (R419, R463). -/
  bootRec : List (BitVec 8) := []
  deriving DecidableEq, Repr

/-- PWR beyond its registers (R427 to R437). -/
structure PwrState where
  /-- The module is held in reset, and PWR_RSTCAUSE of the reset. -/
  held : Bool := true
  cause : Nat := 0
  /-- The reset path of R433: 0 none, 2 the reset input, 3 PWR_CTRL.RESET. -/
  path : Nat := 0
  /-- The PFHOLD timer runs; the engine clock and the network time of the trip. -/
  pfhold : Bool := false
  tripClk : Nat := 0
  tripTime : Nat := 0
  /-- PFW has cleared after the power-down stop began. -/
  returned : Bool := false
  /-- NET and FBS are still to be shed (R430). -/
  shed : Bool := false
  /-- The stored image is still to be read (R181 step 2), and the start action waits (R181 step 4). -/
  imageDue : Bool := false
  starting : Bool := false
  /-- MEM has returned and the stored image is still to be read into it (R426). -/
  refillDue : Bool := false
  deriving DecidableEq, Repr

/-- The state of the module. -/
structure State where
  /-- Every register field of the register tables, by key; an unlisted field holds its reset value (R8). -/
  regs : Sparse Nat := []
  /-- The stores, the process image and DRAM, byte by byte; an unlisted byte reads 0 (R281). -/
  mem : List Host.Cell := []
  /-- The logical blocks of flash, byte by byte from LBA times 4096; an unlisted byte reads 0 (R288). -/
  flash : List Host.Cell := []
  memx : MemState := {}
  nvs : NvsState := {}
  phs : PhsState := {}
  tsk : TskState := {}
  /-- Ticks that each engine has spent (R133). -/
  engTicks : Sparse Nat := []
  /-- The loaded image (R169). -/
  img : Option Image := none
  /-- What the supervisor keeps of the latest successful admission (R78). -/
  ledger : List LedgerEntry := []
  /-- The report of an admission refused in the request now taken (R78). -/
  admission : List (BitVec 8) := []
  loading : LoadState := .idle
  tly : TlyState := {}
  ring : RingState := {}
  met : MetState := {}
  lpe : LpeState := {}
  key : KeyState := {}
  tim : TimState := {}
  rtc : RtcState := {}
  net : NetState := {}
  host : HostState := {}
  fbs : Sparse FbsChan := []
  upd : UpdState := {}
  pwr : PwrState := {}
  /-- The model's own: the value that the latest bus read returned, and the poison indication that came with it (Table 11.3). -/
  busData : Nat := 0
  busPoison : Bool := false
  /-- Engine clocks since reset (R30). -/
  clk : Nat := 0
  /-- The model's own: uses of a free value so far. -/
  free : Nat := 0
  /-- The fault number most recently reported by any block (R25). -/
  lastReport : Nat := 0
  /-- Commands waiting, first in first out. -/
  pending : List Instr := []
  deriving DecidableEq, Repr

/-- The module right after reset, held in reset: every register at its reset value, every store and DRAM zero, nothing waiting
(DESIGN CHOICE, log entries 5 and 6). -/
def State.reset : State := {}

end Sys2Proof.Machine
end

