-- ==== Sys2Proof/Machine/Ops.lean ====
section
/-! DEFINITION. The named operations over the state: register fields, lines and reported faults, the phase and the network
time, and memory with its codewords (chapters 1, 2 and 11). -/

namespace Sys2Proof.Machine

/-- The outcome of a command. -/
abbrev Res := Host.Outcome State Fault Refusal

/-! ### Register fields -/

/-- What a register field holds: a value of the field's width. -/
def State.rd (s : State) (f : Fld) : Nat := sget f.reset s.regs f.key % 2 ^ f.width

/-- A register field set; the value is cut to the field's width. -/
def State.wr (s : State) (f : Fld) (v : Nat) : State :=
  { s with regs := sput f.reset s.regs f.key (v % 2 ^ f.width) }

/-- A one-bit field as a bool. -/
def State.on (s : State) (f : Fld) : Bool := s.rd f != 0

/-- A one-bit field set from a bool. -/
def State.wrB (s : State) (f : Fld) (b : Bool) : State := s.wr f (b2n b)

/-- A counter field that wraps. -/
def State.inc (s : State) (f : Fld) (n : Nat := 1) : State := s.wr f (s.rd f + n)

/-- A counter field that saturates at its width. -/
def State.incSat (s : State) (f : Fld) (n : Nat := 1) : State := s.wr f (min (2 ^ f.width - 1) (s.rd f + n))

/-- Bit `i` of a field set. -/
def State.setBit (s : State) (f : Fld) (i : Nat) : State := s.wr f (s.rd f ||| 2 ^ i)

/-- Bit `i` of a field cleared. -/
def State.clrBit (s : State) (f : Fld) (i : Nat) : State :=
  s.wr f (if bitOf (s.rd f) i then s.rd f - 2 ^ i else s.rd f)

/-- Bit `i` of a field set or cleared. -/
def State.putBit (s : State) (f : Fld) (i : Nat) (b : Bool) : State := if b then s.setBit f i else s.clrBit f i

/-- Every register with an address in `lo ≤ a < hi` back at its reset value. -/
def State.resetRegs (s : State) (lo hi : Nat) : State := { s with regs := sclear s.regs (lo * 64) (hi * 64) }

/-! ### Lines and faults -/

/-- An engine's half of a rising line: a subscribed source sets its bit in FBE_EVLIVE (R29, R130). -/
def State.raiseEng (s : State) (e n : Nat) : State :=
  if bitOf (s.rd (R.FBE_EVSUB_SUB e (n / 64))) (n % 64) then s.setBit (R.FBE_EVLIVE_LIVE e (n / 64)) (n % 64) else s

/-- A source raises line `n`: its bit in SYS_IRQPEND is set, and the engines subscribed to it receive it (R28, R29). -/
def State.raise (s : State) (n : Nat) : State :=
  ((((s.setBit (R.SYS_IRQPEND_PEND (n / 64)) (n % 64)).raiseEng 0 n).raiseEng 1 n).raiseEng 2 n).raiseEng 3 n

/-- The supervisor is interrupted: some line is set in a pending register and in the matching enable register (R28). -/
def State.interrupted (s : State) : Bool :=
  (s.rd (R.SYS_IRQPEND_PEND 0) &&& s.rd (R.SYS_IRQEN_EN 0)) != 0 ||
    (s.rd (R.SYS_IRQPEND_PEND 1) &&& s.rd (R.SYS_IRQEN_EN 1)) != 0

/-- A block reports a fault in its LASTFAULT register (R25). -/
def State.report (s : State) (lf : Fld) (code : Nat) : State := { s.wr lf code with lastReport := code }

/-- A block without a LASTFAULT register reports a fault (R25). -/
def State.note (s : State) (code : Nat) : State := { s with lastReport := code }

/-- The next free value and the state that has used it (log entry 1). -/
def State.freeVal (s : State) : Nat := Config.freeValue s.free

/-- The free value has been used. -/
def State.useFree (s : State) : State := { s with free := s.free + 1 }

/-! ### Units -/

/-- A power domain is on (Table 18.1). -/
def State.domOn (s : State) (d : Nat) : Bool := bitOf (s.rd R.PWR_DOMSTAT_ON) d

/-- The controller mode: 0 STOP, 1 RUN, 2 HOLD (TSK_STAT). -/
def State.mode (s : State) : Nat := s.rd R.TSK_STAT_MODE

/-- What TSK holds of task `t`. -/
def State.task (s : State) (t : Nat) : TaskState := sget {} s.tsk.tasks t

/-- What TSK holds of task `t`, replaced. -/
def State.setTask (s : State) (t : Nat) (v : TaskState) : State :=
  { s with tsk := { s.tsk with tasks := sput {} s.tsk.tasks t v } }

/-- What a channel of FBS holds beyond its registers. -/
def State.chan (s : State) (n : Nat) : FbsChan := sget {} s.fbs n

/-- What a channel of FBS holds beyond its registers, replaced. -/
def State.setChan (s : State) (n : Nat) (c : FbsChan) : State := { s with fbs := sput {} s.fbs n c }

/-! ### Phase and time -/

/-- PHS_PHASE as one number: turn count above the main word (R35). -/
def State.phase64 (s : State) : Nat := s.rd R.PHS_PHASE_TURN * 2 ^ 32 + s.rd R.PHS_PHASE_PHASE

/-- PHS_SHPHASE as one number. -/
def State.shPhase64 (s : State) : Nat := s.rd R.PHS_SHPHASE_TURN * 2 ^ 32 + s.rd R.PHS_SHPHASE_PHASE

/-- The number of cycles per turn: N limited to 1 to 64 (R49). -/
def State.cycles (s : State) : Nat := max 1 (min 64 (s.rd R.PHS_CFG_N))

/-- The phase at which cycle `j` of a turn of `n` cycles begins (R49). -/
def boundaryPhase (n j : Nat) : Nat := j * 2 ^ 32 / n

/-- The cycle of a turn of `n` cycles that holds phase `p`: the largest j with boundary at or before it (R49). -/
def cycleOf (n p : Nat) : Nat := ((p + 1) * n - 1) / 2 ^ 32

/-- PSTAMP of a release at the present boundary (R154). -/
def State.pstampNow (s : State) : Nat :=
  s.rd R.PHS_PHASE_TURN * 2 ^ 32 + boundaryPhase s.cycles (cycleOf s.cycles (s.rd R.PHS_PHASE_PHASE))

/-- Network time as TSTAMP: wrap64 of seconds times 10^9 plus nanoseconds (R154). -/
def State.tstampNow (s : State) : Nat := wrap 64 (s.rd R.TIM_SEC_SEC * 1000000000 + s.tim.ns)

/-! ### Memory -/

/-- The parts of the address space (Table 1.5). -/
inductive Region where
  | code | inst | retain | image | regs | dramSup | dramProg | spare | unmapped
  deriving DecidableEq, Repr

/-- The part of the address space that holds an address (Table 1.5). -/
def regionOf (a : Nat) : Region :=
  if a < 0x800000 then .code
  else if a < 0x1000000 then .unmapped
  else if a < 0x2800000 then .inst
  else if a < 0x3000000 then .unmapped
  else if a < 0x3200000 then .retain
  else if a < 0x4000000 then .unmapped
  else if a < 0x4010000 then .image
  else if a < 0x10000000 then .unmapped
  else if a < 0x20000000 then .regs
  else if a < 0x100000000 then .unmapped
  else if a < 0x180000000 then .dramSup
  else if a < 0x2FFE00000 then .dramProg
  else if a < 0x300000000 then .spare
  else .unmapped

/-- The address is in DRAM. -/
def isDram (a : Nat) : Bool := decide (0x100000000 ≤ a) && decide (a < 0x300000000)

/-- The address is in one of the SRAM stores or the process image. -/
def isSram (a : Nat) : Bool :=
  match regionOf a with
  | .code | .inst | .retain | .image => true
  | _ => false

/-- The bytes of data in the codeword at an address (Table 11.1). -/
def cwSize (a : Nat) : Nat := if isDram a then 8 else 4

/-- The address of the first byte of the codeword that holds an address. -/
def cwBase (a : Nat) : Nat := a - a % cwSize a

/-- The region code and the bucket of an address (Table 11.1). -/
def regionCode (a : Nat) : Nat :=
  match regionOf a with
  | .code => 1
  | .inst => 2
  | .retain => 3
  | .image => 4
  | _ => 0

/-- The bucket that counts a region's correctable errors (Table 11.1). -/
def bucketOf (a : Nat) : Nat := if regionCode a = 4 then 2 else regionCode a

/-- The logical address behind a physical one: a place in the spare pool holds the page mapped to it (R283). -/
def State.logical (s : State) (a : Nat) : Nat :=
  if regionOf a = .spare then
    let n := (a - 0x2FFE00000) / 4096
    if s.on (R.MEM_REMAP_VALID n) then 0x100000000 + s.rd (R.MEM_REMAP_PAGE n) * 4096 + a % 4096 else a
  else a

/-- `n` bytes of memory as they stand, lowest first. -/
def State.bytes (s : State) (a n : Nat) : List (BitVec 8) := readBytes s.mem (s.logical a) n

/-- The `n`-byte number in memory at `a`, as it stands. -/
def State.peek (s : State) (a n : Nat) : Nat := readLE s.mem (s.logical a) n

/-- The DIRTY bit that a write at `a` sets, if any (R282). -/
def dirtyBit (a : Nat) : Option Nat :=
  match regionOf a with
  | .inst => some 0
  | .retain => some 1
  | .dramProg => some 2
  | _ => none

/-- The DIRTY bit of a written region set (R282). -/
def State.markDirty (s : State) (a : Nat) : State :=
  match dirtyBit a with
  | some i => s.setBit R.MEM_STAT_DIRTY i
  | none => s

/-- The errors of the codeword at `cw`. -/
def State.cwErr (s : State) (cw : Nat) : CwErr := sget {} s.memx.ecc cw

/-- The errors of the codeword at `cw` replaced. -/
def State.setCw (s : State) (cw : Nat) (e : CwErr) : State :=
  { s with memx := { s.memx with ecc := sput {} s.memx.ecc cw e } }

/-- The errors of the codewords that hold `n` bytes from `a`, as a write with fresh check bits leaves them: stuck cells
stay, everything else is gone (R278). -/
def rewriteCw (ecc : Sparse CwErr) (a n : Nat) : Sparse CwErr :=
  (ecc.map fun c =>
    if n != 0 && decide (cwBase a ≤ c.1) && decide (c.1 < a + n) then (c.1, { stuck := c.2.stuck }) else c).filter
      fun c => decide (c.2 ≠ {})

/-- Bytes stored with fresh check bits over whole codewords, the DIRTY bit of the region that they change set (R274, R282, R283).
The caller has read the codewords that the bytes do not cover. -/
def State.poke (s : State) (a : Nat) (bs : List (BitVec 8)) : State :=
  let l := s.logical a
  ({ s with mem := writeBytes s.mem l bs
            memx := { s.memx with ecc := rewriteCw s.memx.ecc l bs.length } }).markDirty l

/-- The `n`-byte number `v` stored at `a`. -/
def State.pokeN (s : State) (a n v : Nat) : State := s.poke a (toLE n v)

/-- The bit positions in error of a codeword that holds `v` (R273): the cells that flipped, and the stuck cells whose
level differs from the bit written to them. -/
def errBits (e : CwErr) (w v : Nat) : List Nat :=
  let stuck := e.stuck.filter fun c => (if c.1 < w then bitOf v c.1 else Config.checkBit w (c.1 - w) v) != c.2
  (e.soft.filter fun b => !(e.stuck.any fun c => c.1 == b)) ++ stuck.map (·.1)

/-- A data word with some of its bits turned over. -/
def flipBits (w v : Nat) (bits : List Nat) : Nat := (bits.filter (· < w)).foldl (fun x b => x ^^^ 2 ^ b) v

/-- One error counted in bucket `b` (R277). -/
def State.bucketAdd (s : State) (b : Nat) : State :=
  let thr := max 1 (min 65534 (if b = 0 then s.rd R.MEM_BKT_THR0_THR else s.rd (R.MEM_BKT_THR_THR (b - 1))))
  let lev := s.rd (R.MEM_BKT_LEVEL b)
  let s := s.incSat (R.MEM_BKT_CECNT_CECNT b)
  let s := if lev ≤ thr then s.wr (R.MEM_BKT_LEVEL b) (lev + 1) else s
  if lev = thr then ((s.wr (R.MEM_BKT_OVF b) 1).report R.MEM_LASTFAULT_FAULT 0x0902).raise (72 + b) else s

/-- The bits of a codeword: data and check bits (Table 11.1). -/
def cwBits (a : Nat) : Nat := if isDram a then 72 else 39

/-- An error entered in the log (R276): a repetition of the newest entry, or a new entry. SYNDROME has 8 bits for DRAM and 7 for
SRAM. -/
def State.logError (s : State) (master : Nat) (scrub ue : Bool) (cw synd bit : Nat) : State :=
  let synd := synd % (if isDram cw then 256 else 128)
  let n := s.rd R.MEM_LOGWR_COUNT
  let last := (n + 63) % 64
  let w0 := s.rd (R.MEM_LOG_W0_WORD0 last)
  let w1 := s.rd (R.MEM_LOG_W1_WORD1 last)
  if n ≠ 0 && w0 % 2 ^ 40 == cw && w1 % 256 == synd then
    (s.wr (R.MEM_LOG_W1_WORD1 last) (w1 % 65536 + min 65535 (w1 / 65536 + 1) * 65536)).wr
      (R.MEM_LOG_LAST_LAST last) s.tstampNow
  else
    let i := n % 64
    let m := if scrub then 15 else master
    let s := s.wr (R.MEM_LOG_W0_WORD0 i)
      (cw + regionCode cw * 2 ^ 40 + m * 2 ^ 48 + b2n scrub * 2 ^ 52 + b2n ue * 2 ^ 53)
    let s := s.wr (R.MEM_LOG_W1_WORD1 i) (synd + bit * 256)
    let s := s.wr (R.MEM_LOG_TIME_TIME i) s.tstampNow
    (s.wr (R.MEM_LOG_LAST_LAST i) s.tstampNow).inc R.MEM_LOGWR_COUNT

/-- A correctable error (R275): logged and counted, the corrected codeword written back. -/
def State.correct (s : State) (master : Nat) (scrub : Bool) (cw bit : Nat) : State :=
  let w := cwSize cw * 8
  let s := s.setCw cw { stuck := (s.cwErr cw).stuck }
  (s.logError master scrub false cw (Config.syndrome w [bit]) bit).bucketAdd (bucketOf cw)

/-- An uncorrectable error (R278): the data bits as read are written back under the poison syndrome. -/
def State.poisonCw (s : State) (master : Nat) (scrub : Bool) (cw : Nat) (bits : List Nat) : State :=
  let w := cwSize cw * 8
  let v := flipBits w (readLE s.mem cw (cwSize cw)) bits
  let s := { s with mem := writeLE s.mem cw (cwSize cw) v }
  let s := s.setCw cw { stuck := (s.cwErr cw).stuck, poison := true }
  let s := s.logError master scrub true cw (Config.syndrome w bits) 127
  (((s.incSat R.MEM_UECNT_COUNT).wr R.MEM_UELAST_ADDR cw).report R.MEM_LASTFAULT_FAULT 0x0901).raise 76

/-- An error of three or more bits: which of the four outcomes of R278 occurs is a free value (DESIGN CHOICE, log entry 19).
-/
def State.manyBits (s : State) (master : Nat) (scrub : Bool) (cw : Nat) (bits : List Nat) : State × Bool :=
  let w := cwSize cw * 8
  let c := s.freeVal
  let d := Config.freeValue (s.free + 1)
  let b := Config.freeValue (s.free + 2) % cwBits cw
  let s := s.useFree.useFree.useFree
  match c % 4 with
  | 0 => (s.poisonCw master scrub cw bits, true)
  | 1 =>
    let v := (readLE s.mem cw (cwSize cw) ^^^ d) % 2 ^ w
    (({ s with mem := writeLE s.mem cw (cwSize cw) v }).correct master scrub cw b, false)
  | 2 =>
    let v := flipBits w (readLE s.mem cw (cwSize cw)) bits
    (({ s with mem := writeLE s.mem cw (cwSize cw) v }).setCw cw { stuck := (s.cwErr cw).stuck, poison := true }, true)
  | _ =>
    let v := flipBits w (readLE s.mem cw (cwSize cw)) bits
    (({ s with mem := writeLE s.mem cw (cwSize cw) v }).setCw cw { stuck := (s.cwErr cw).stuck }, false)

/-- A read of the codeword at `cw` by a master or a scrubber (R273 to R278): the state after it, and whether the reader
meets poison. -/
def State.readCw (s : State) (master : Nat) (scrub : Bool) (cw : Nat) : State × Bool :=
  let e := s.cwErr cw
  if e.poison then (s, true)
  else
    match errBits e (cwSize cw * 8) (readLE s.mem cw (cwSize cw)) with
    | [] => (s, false)
    | [b] => (s.correct master scrub cw b, false)
    | [a, b] => (s.poisonCw master scrub cw [a, b], true)
    | bits => s.manyBits master scrub cw bits

/-- Codewords read in turn; poison in any of them is met. -/
def readCws (master : Nat) : List Nat → State → State × Bool
  | [], s => (s, false)
  | cw :: t, s =>
    let r := s.readCw master false cw
    let q := readCws master t r.1
    (q.1, r.2 || q.2)

/-- The codewords with errors among those that hold the `n` bytes from `a`; the others read clean. -/
def State.dirtyCws (s : State) (a n : Nat) : List Nat :=
  (s.memx.ecc.map (·.1)).filter fun cw => n != 0 && decide (cwBase a ≤ cw) && decide (cw < a + n)

/-- A read of `n` bytes at `a` by a master: every codeword that holds them is checked (R273). -/
def State.readChecked (s : State) (master a n : Nat) : State × Bool :=
  readCws master (s.dirtyCws (s.logical a) n) s

/-- The codewords with errors that a write of `n` bytes at `a` covers only in part, and so reads (R274). -/
def State.partCws (s : State) (a n : Nat) : List Nat :=
  (s.dirtyCws a n).filter fun cw => decide (cw < a) || decide (a + n < cw + cwSize cw)

/-- A non-engine master meets poison (R274, R279). -/
def State.poisonReport (s : State) (master : Nat) : State :=
  (s.report R.MEM_LASTFAULT_FAULT 0x0904).wr R.MEM_LASTFAULT_MASTER master

/-- A write by a master other than an engine (R274): a codeword written in part is read first, and a write that meets
poison there is dropped with fault 0x0904. -/
def State.masterWrite (s : State) (master a : Nat) (bs : List (BitVec 8)) : State :=
  let r := readCws master (s.partCws (s.logical a) bs.length) s
  if r.2 then r.1.poisonReport master else r.1.poke a bs

/-- A DMA read by a master: the bytes, or none with fault 0x0904 where poison is met (R279). -/
def State.dmaRead (s : State) (master a n : Nat) : State × Option (List (BitVec 8)) :=
  let r := s.readChecked master a n
  if r.2 then (r.1.poisonReport master, none) else (r.1, some (r.1.bytes a n))

/-- An access in DRAM at or above the front waits (R281). -/
def State.aboveFront (s : State) (a n : Nat) : Bool := isDram a && decide (s.rd R.MEM_FRONT_ADDR < a + n)

/-- An access kept waiting for the front. -/
def State.waitFront (s : State) (w : FrontWait) : State :=
  { s with memx := { s.memx with waiting := s.memx.waiting ++ [w] } }


/-- A read by the supervisor itself: every codeword is checked (R273), and it handles the poison that it meets (Table 11.3). -/
def State.supRead (s : State) (a n : Nat) : State := (s.readChecked 0 a n).1

/-- Parts of codewords written by a master: each is read first, and poison in one is reported (R274). -/
def State.partReads (s : State) (master : Nat) (cws : List Nat) : State :=
  cws.foldl (fun s cw =>
    let r := s.readCw master false cw
    if r.2 then r.1.poisonReport master else r.1) s

/-- A range of memory zeroed with fresh check bits (R281, R282). -/
def State.zeroRange (s : State) (lo hi : Nat) : State :=
  { s with mem := sclear s.mem lo hi
           memx := { s.memx with ecc := rewriteCw s.memx.ecc lo (hi - lo) } }

/-! ### Flash blocks (R288 to R294, R429) -/

/-- The flash as NVS delivers it: a block that cannot be read comes as zeros (R292). -/
def State.legible (s : State) : Sparse (BitVec 8) :=
  s.nvs.unreadable.foldl (fun m l => sclear m (4096 * l) (4096 * (l + 1))) s.flash

/-- Blocks that failed to read (R292). -/
def State.readFailures (s : State) (bad : List Nat) : State :=
  bad.foldl (fun s l =>
    (((s.wr R.NVS_BADLBA_LBA l).incSat R.NVS_RDERR_COUNT).report R.NVS_LASTFAULT_FAULT 0x1102).raise 126) s

/-- NVS, where it is on, reads `n` blocks from `lba`: those that cannot be read are reported (R292). -/
def State.nvsReads (s : State) (lba n : Nat) : State :=
  if !s.domOn 6 then s
  else s.readFailures (s.nvs.unreadable.filter fun l => decide (lba ≤ l) && decide (l < lba + n))

/-- A block that failed to write (R292). -/
def State.writeFailure (s : State) : State :=
  ((s.incSat R.NVS_WRERR_COUNT).report R.NVS_LASTFAULT_FAULT 0x1101).raise 126

/-- The flash takes new contents in the blocks of `n` bytes from `a`: blocks written again can be read (R292). -/
def State.setFlash (s : State) (a n : Nat) (fl : Sparse (BitVec 8)) : State :=
  { s with flash := fl
           nvs := { s.nvs with unreadable := s.nvs.unreadable.filter fun l =>
             !(n != 0 && decide (a < 4096 * (l + 1)) && decide (4096 * l < a + n)) } }

/-- How many of the `n` bytes from `a` lie before the first block that cannot be written (R292). -/
def State.writable (s : State) (a n : Nat) : Nat :=
  s.nvs.worn.foldl (fun m l => if decide (a < 4096 * (l + 1)) && decide (4096 * l < a + n) then min m (4096 * l - a) else m) n

/-- Bytes written to flash for the supervisor or for KEY, up to the first block that cannot be written (R292) (DESIGN CHOICE, log entry
60). -/
def State.flashPut (s : State) (a : Nat) (bs : List (BitVec 8)) : State :=
  let n := s.writable a bs.length
  let t := s.setFlash a n (writeBytes s.flash a (bs.take n))
  if n < bs.length then t.writeFailure else t

/-- A piece of a record goes into flash. -/
def State.flashDo (s : State) : FlashJob → State
  | .put a bs => s.flashPut a bs
  | .trim a n => s.setFlash a n (sclear s.flash a (a + n))

/-- NVS is ready (R294). -/
def State.nvsReady (s : State) : Bool := s.domOn 6 && s.on R.NVS_STAT_READY

/-- Records can be sealed: KEY, MEM and NVS are on, and the log header was readable (R395, Table 16.7) (DEDUCED, log entry
34). -/
def State.tallyReady (s : State) : Bool := s.domOn 9 && s.domOn 5 && s.domOn 6 && !s.on R.TLY_STAT_NOLOG

/-- An event waits for its tally record, which goes before the KEY boot record and the supervisor (R291, R396). -/
def State.tallyWaits (s : State) : Bool := s.tallyReady && !s.tly.events.isEmpty

/-- NVS can serve the boot record or the supervisor: it is ready, no retain save and no tally record stands before them, and no
power-fail warning suspends them (R291, R294, R429). -/
def State.nvsFree (s : State) : Bool :=
  s.nvsReady && !s.on R.NVS_STAT_SAVE && !s.on R.NVS_STAT_SEAL && !s.on R.NVS_STAT_PFWORDER && !s.tallyWaits

/-- A piece of a record for flash by way of NVS: done, or waiting behind those that wait (R291, R294, R429). -/
def State.nvsPut (s : State) (j : FlashJob) : State :=
  if s.nvsFree && s.nvs.due.isEmpty then s.flashDo j
  else { s with nvs := { s.nvs with due := s.nvs.due ++ [j] } }

/-! ### The contract monitor (R20, R22) -/

/-- An access to an unmapped address (R22): the first since UNMAP was clear is latched, with line 1; each is counted. -/
def State.unmapAccess (s : State) (master a : Nat) (write : Bool) : State :=
  let s := if s.on R.SYS_STAT_UNMAP then s
    else
      let s := (s.wr R.SYS_UNMAP_ADDR_ADDR a).wr R.SYS_UNMAP_INFO_MASTER master
      (((s.wrB R.SYS_UNMAP_INFO_WRITE write).wr R.SYS_UNMAP_INFO_COUNT 0).wr R.SYS_STAT_UNMAP 1).raise 1
  s.incSat R.SYS_UNMAP_INFO_COUNT

/-- A write by engine `e` at `a` has landed (R18, R20, R122): anywhere but in the instance and the retain store it breaches the
contract. The first since BREACH was clear is latched with master and task, with line 0; each is counted. -/
def State.engWrote (s : State) (e a : Nat) : State :=
  if regionOf a = .inst || regionOf a = .retain then s
  else
    let s := if s.on R.SYS_STAT_BREACH then s
      else
        let s := (s.wr R.SYS_BREACH_ADDR_ADDR a).wr R.SYS_BREACH_INFO_MASTER (2 + e)
        let s := s.wr R.SYS_BREACH_INFO_TASK (s.rd (R.FBE_STAT_TASK e))
        ((s.wr R.SYS_BREACH_INFO_COUNT 0).wr R.SYS_STAT_BREACH 1).raise 0
    s.incSat R.SYS_BREACH_INFO_COUNT

/-- A write by a DMA master, which waits where it reaches the front (R281). One to an unmapped address is ignored and latched (R22);
in register space one takes no effect (DESIGN CHOICE, log entry 74). -/
def State.dmaWrite (s : State) (master a : Nat) (bs : List (BitVec 8)) : State :=
  match regionOf a with
  | .unmapped => s.unmapAccess master a true
  | .regs => s
  | _ =>
    if s.aboveFront a bs.length then s.waitFront ⟨master, bs.length, a, some (leNat bs)⟩ else s.masterWrite master a bs

/-- A byte string written by a DMA master in accesses of 4 bytes, the lowest address first. -/
def State.dmaWords (s : State) (master : Nat) : Nat → List (BitVec 8) → State
  | a, b0 :: b1 :: b2 :: b3 :: t => (s.dmaWrite master a [b0, b1, b2, b3]).dmaWords master (a + 4) t
  | _, _ => s

/-! ### The process image (R89) -/

/-- The address of a point's entry. -/
def pointAddr (n : Nat) : Nat := 0x4000000 + 16 * (n % 4096)

/-- VALUE of a point. -/
def State.ptValue (s : State) (n : Nat) : Nat := readLE s.mem (pointAddr n) 8

/-- QUAL of a point. -/
def State.ptQual (s : State) (n : Nat) : Nat := readLE s.mem (pointAddr n + 8) 2

/-- FLAGS of a point. -/
def State.ptFlags (s : State) (n : Nat) : Nat := readLE s.mem (pointAddr n + 11) 1

/-- VALUE of a point carries poison (Table 11.3). -/
def State.ptPoison (s : State) (n : Nat) : Bool := (s.cwErr (pointAddr n)).poison || (s.cwErr (pointAddr n + 4)).poison

/-- SRC of a point: FLAGS[7:4]. -/
def State.ptSrc (s : State) (n : Nat) : Nat := s.ptFlags n / 16

/-- A memory with QUAL of a point set. -/
def putQual (m : Sparse (BitVec 8)) (n q : Nat) : Sparse (BitVec 8) := writeLE m (pointAddr n + 8) 2 q

/-- Bit `i` of a number set or cleared. -/
def withBit (v i : Nat) (b : Bool) : Nat := if bitOf v i = b then v else if b then v + 2 ^ i else v - 2 ^ i

/-- The supervisor has taken a frame of a network since the latest latch: 2 a fieldbus, 3 Ethernet (R107). -/
def State.heardOn (s : State) (src : Nat) : State := { s with tsk := { s.tsk with frames := withBit s.tsk.frames src true } }

/-- The declaration of a point in the loaded image. -/
def State.decl (s : State) (n : Nat) : Option PointDecl :=
  match s.img with
  | some im => im.points.find? fun p => p.point == n
  | none => none

/-- The task that owns a point: the one declared as its writer (R91). -/
def State.ownedBy (s : State) (n t : Nat) : Bool :=
  match s.decl n with
  | some p => p.wkind == 1 && p.who == t
  | none => false

end Sys2Proof.Machine
end

