-- ==== Sys2Proof/Machine/Flags.lean ====
section
/-! DEFINITION. The flags of FS and every flag computation of the Zhevarn instructions (R116 to R118, Tables 5.4 and 5.5). -/

namespace Sys2Proof.Machine

/-- Z, N, C, V and Q of FS (Table 5.1). -/
structure Flags where
  z : Bool
  n : Bool
  c : Bool
  v : Bool
  q : Bool
  deriving DecidableEq, Repr

/-- The flags in an FS register. -/
def unpackFlags (fs : Nat) : Flags := ⟨bitOf fs 0, bitOf fs 1, bitOf fs 2, bitOf fs 3, bitOf fs 4⟩

/-- The FS register that holds the flags; bits [7:5] read 0. -/
def packFlags (f : Flags) : Nat := b2n f.z + 2 * b2n f.n + 4 * b2n f.c + 8 * b2n f.v + 16 * b2n f.q

/-- Z and N set from a result at width `w` (R116). -/
def Flags.zn (f : Flags) (w r : Nat) : Flags := { f with z := r % 2 ^ w == 0, n := bitOf r (w - 1) }

/-- ADD at width `w`: C the carry out, V signed overflow (R116). -/
def Flags.add (f : Flags) (w a b : Nat) : Flags :=
  let a := a % 2 ^ w
  let b := b % 2 ^ w
  let v := toSigned w a + toSigned w b
  { f.zn w (a + b) with c := decide (2 ^ w ≤ a + b), v := v != toSigned w (a + b) }

/-- SUB, NEG and CMP at width `w`: C where no borrow occurs, V signed overflow (R116). -/
def Flags.sub (f : Flags) (w a b : Nat) : Flags :=
  let a := a % 2 ^ w
  let b := b % 2 ^ w
  let r := a + 2 ^ w - b
  { f.zn w r with c := decide (b ≤ a), v := toSigned w a - toSigned w b != toSigned w r }

/-- Logic operations, BIT and MUL: Z and N from the result, C and V cleared (R116). -/
def Flags.logic (f : Flags) (w r : Nat) : Flags := { f.zn w r with c := false, v := false }

/-- Shifts and ROT: Z and N from the result, C the last bit out, V cleared (R116). -/
def Flags.shift (f : Flags) (w r : Nat) (c : Bool) : Flags := { f.zn w r with c := c, v := false }

/-- ABS and DIV: Z and N from the result, C cleared, V as given (R116, Table 6.4). -/
def Flags.withV (f : Flags) (w r : Nat) (v : Bool) : Flags := { f.zn w r with c := false, v := v }

/-- FCMP (Table 5.4). -/
def Flags.fcmp (f : Flags) : Option Ordering → Flags
  | some .eq => { f with z := true, n := false, c := true, v := false }
  | some .lt => { f with z := false, n := true, c := false, v := false }
  | some .gt => { f with z := false, n := false, c := true, v := false }
  | none => { f with z := false, n := false, c := false, v := true }

/-- The conditions of BC and SEL (Table 5.5). -/
def Flags.cond (f : Flags) (k : BitVec 4) : Bool :=
  match k.toNat with
  | 0 => f.z
  | 1 => !f.z
  | 2 => f.c
  | 3 => !f.c
  | 4 => f.n
  | 5 => !f.n
  | 6 => f.v
  | 7 => !f.v
  | 8 => f.c && !f.z
  | 9 => !f.c || f.z
  | 10 => f.n == f.v
  | 11 => f.n != f.v
  | 12 => !f.z && f.n == f.v
  | 13 => f.z || f.n != f.v
  | 14 => f.q
  | _ => !f.q

end Sys2Proof.Machine
end

