-- ==== Sys2Proof/Machine/Float.lean ====
section
/-! DEFINITION. IEEE 754 arithmetic on binary32 and binary64 patterns, computed exactly and rounded once (R113, R115,
R149, R150). A NaN result is always the canonical quiet NaN (R115). -/

namespace Sys2Proof.Machine

/-- A binary format: exponent bits and fraction bits. -/
structure FFmt where
  eb : Nat
  mb : Nat
  deriving DecidableEq, Repr

/-- binary32, type code 4. -/
def f32 : FFmt := ⟨8, 23⟩

/-- binary64, type code 5. -/
def f64 : FFmt := ⟨11, 52⟩

/-- The exponent bias. -/
def FFmt.bias (f : FFmt) : Int := 2 ^ (f.eb - 1) - 1

/-- The exponent of the last place of the subnormals. -/
def FFmt.qmin (f : FFmt) : Int := 1 - f.bias - f.mb

/-- The all-ones exponent field. -/
def FFmt.top (f : FFmt) : Nat := 2 ^ f.eb - 1

/-- Positive infinity. -/
def FFmt.inf (f : FFmt) : Nat := f.top * 2 ^ f.mb

/-- The canonical quiet NaN (R115). -/
def FFmt.nan (f : FFmt) : Nat := f.inf + 2 ^ (f.mb - 1)

/-- The sign bit's weight. -/
def FFmt.signBit (f : FFmt) : Nat := 2 ^ (f.eb + f.mb)

/-- What a pattern stands for: a NaN, a signed infinity, or `(-1)^s * m * 2^e`. -/
inductive FVal where
  | nan
  | inf (s : Bool)
  | num (s : Bool) (m : Nat) (e : Int)
  deriving DecidableEq, Repr

/-- The value of a pattern. -/
def FFmt.unpack (f : FFmt) (x : Nat) : FVal :=
  let s := bitOf x (f.eb + f.mb)
  let ef := x / 2 ^ f.mb % 2 ^ f.eb
  let m := x % 2 ^ f.mb
  if ef = f.top then if m = 0 then .inf s else .nan
  else if ef = 0 then .num s m f.qmin
  else .num s (m + 2 ^ f.mb) (f.qmin + ef - 1)

/-- A sign put before a magnitude. -/
def FFmt.withSign (f : FFmt) (s : Bool) (mag : Nat) : Nat := if s then f.signBit + mag else mag

/-- The bits of a positive number: how many it takes. -/
def bitLen (m : Nat) : Nat := if m = 0 then 0 else m.log2 + 1

/-- Whether a rounding mode (FN[4:3] of CVT: 0 nearest even, 1 toward zero, 2 toward minus infinity, 3 toward plus
infinity) takes the next larger magnitude for a rest `rem` of `2^sh`. -/
def roundUp (mode : Nat) (s odd : Bool) (rem sh : Nat) : Bool :=
  match mode with
  | 0 => decide (2 * rem > 2 ^ sh) || (2 * rem == 2 ^ sh && odd)
  | 1 => false
  | 2 => s && rem != 0
  | _ => !s && rem != 0

/-- `(-1)^s * m * 2^e` rounded to the format. -/
def FFmt.round (f : FFmt) (mode : Nat) (s : Bool) (m : Nat) (e : Int) : Nat :=
  if m = 0 then f.withSign s 0
  else
    let q := max (e + bitLen m - 1 - f.mb) f.qmin
    let sh := (q - e).toNat
    let base := if q ≤ e then m * 2 ^ (e - q).toNat else m / 2 ^ sh
    let up := if q ≤ e then false else roundUp mode s (base % 2 == 1) (m % 2 ^ sh) sh
    let r := if up then base + 1 else base
    let mant := if r = 2 ^ (f.mb + 1) then r / 2 else r
    let q' := if r = 2 ^ (f.mb + 1) then q + 1 else q
    let ef := (q' - f.qmin + 1).toNat
    if mant < 2 ^ f.mb then f.withSign s mant
    else if f.top ≤ ef then
      let toInf := match mode with
        | 0 => true
        | 1 => false
        | 2 => s
        | _ => !s
      f.withSign s (if toInf then f.inf else f.inf - 1)
    else f.withSign s (ef * 2 ^ f.mb + (mant - 2 ^ f.mb))

/-- The signed mantissa at a common exponent. -/
def scaleTo (s : Bool) (m : Nat) (e e0 : Int) : Int :=
  let v : Int := (m * 2 ^ (e - e0).toNat : Nat)
  if s then -v else v

/-- The sum of two values; both zero signs equal keep the sign, else the sum of opposites is +0 (round to nearest). -/
def FFmt.addV (f : FFmt) (x y : FVal) : Nat :=
  match x, y with
  | .nan, _ => f.nan
  | _, .nan => f.nan
  | .inf s, .inf t => if s = t then f.withSign s f.inf else f.nan
  | .inf s, _ => f.withSign s f.inf
  | _, .inf t => f.withSign t f.inf
  | .num s m e, .num t n g =>
    let e0 := min e g
    let v := scaleTo s m e e0 + scaleTo t n g e0
    if v = 0 then f.withSign (s && t) 0
    else f.round 0 (decide (v < 0)) v.natAbs e0

/-- A value with its sign turned. -/
def FVal.neg : FVal → FVal
  | .nan => .nan
  | .inf s => .inf (!s)
  | .num s m e => .num (!s) m e

/-- FADD. -/
def FFmt.add (f : FFmt) (a b : Nat) : Nat := f.addV (f.unpack a) (f.unpack b)

/-- FSUB. -/
def FFmt.sub (f : FFmt) (a b : Nat) : Nat := f.addV (f.unpack a) (f.unpack b).neg

/-- FMUL. -/
def FFmt.mul (f : FFmt) (a b : Nat) : Nat :=
  match f.unpack a, f.unpack b with
  | .nan, _ => f.nan
  | _, .nan => f.nan
  | .inf s, .inf t => f.withSign (s != t) f.inf
  | .inf s, .num t n _ => if n = 0 then f.nan else f.withSign (s != t) f.inf
  | .num s m _, .inf t => if m = 0 then f.nan else f.withSign (s != t) f.inf
  | .num s m e, .num t n g => f.round 0 (s != t) (m * n) (e + g)

/-- FDIV: division by zero gives a signed infinity, 0/0 the canonical NaN (Table 6.5). -/
def FFmt.div (f : FFmt) (a b : Nat) : Nat :=
  match f.unpack a, f.unpack b with
  | .nan, _ => f.nan
  | _, .nan => f.nan
  | .inf _, .inf _ => f.nan
  | .inf s, .num t _ _ => f.withSign (s != t) f.inf
  | .num s _ _, .inf t => f.withSign (s != t) 0
  | .num s m e, .num t n g =>
    if n = 0 then if m = 0 then f.nan else f.withSign (s != t) f.inf
    else
      let k := 2 * f.mb + 6
      let x := m * 2 ^ k
      f.round 0 (s != t) (2 * (x / n) + b2n (x % n != 0)) (e - g - k - 1)

/-- The integer square root, by `n` bits from the top. -/
def isqrtGo : Nat → Nat → Nat → Nat
  | 0, _, r => r
  | n + 1, x, r =>
    let c := r + 2 ^ n
    if c * c ≤ x then isqrtGo n x c else isqrtGo n x r

/-- The integer square root. -/
def isqrt (x : Nat) : Nat := isqrtGo (bitLen x / 2 + 1) x 0

/-- FSQRT: -0 gives -0, a negative value the canonical NaN (Table 6.5). -/
def FFmt.sqrt (f : FFmt) (a : Nat) : Nat :=
  match f.unpack a with
  | .nan => f.nan
  | .inf s => if s then f.nan else f.inf
  | .num s m e =>
    if m = 0 then f.withSign s 0
    else if s then f.nan
    else
      let k := 2 * f.mb + 6 + (if e % 2 = 0 then 0 else 1)
      let x := m * 2 ^ k
      let r := isqrt x
      f.round 0 false (2 * r + b2n (r * r != x)) ((e - k) / 2 - 1)

/-- The order of two values; none where they are unordered. -/
def FVal.cmp (x y : FVal) : Option Ordering :=
  match x, y with
  | .nan, _ => none
  | _, .nan => none
  | .inf s, .inf t => some (if s = t then .eq else if s then .lt else .gt)
  | .inf s, _ => some (if s then .lt else .gt)
  | _, .inf t => some (if t then .gt else .lt)
  | .num s m e, .num t n g =>
    let e0 := min e g
    let v := scaleTo s m e e0
    let w := scaleTo t n g e0
    some (if v = w then .eq else if v < w then .lt else .gt)

/-- FMIN and FMAX (R115): the non-NaN operand where exactly one is a NaN, -0 below +0. -/
def FFmt.minMax (f : FFmt) (wantMax : Bool) (a b : Nat) : Nat :=
  let x := f.unpack a
  let y := f.unpack b
  if x = .nan then if y = .nan then f.nan else b
  else if y = .nan then a
  else
    match x.cmp y with
    | some .lt => if wantMax then b else a
    | some .gt => if wantMax then a else b
    | _ =>
      let aNeg := bitOf a (f.eb + f.mb)
      if aNeg = wantMax then b else a

/-- A float pattern made of an integer. -/
def FFmt.ofInt (f : FFmt) (mode : Nat) (v : Int) : Nat :=
  if v = 0 then 0 else f.round mode (decide (v < 0)) v.natAbs 0

/-- A value carried to another format; a NaN gives the canonical NaN. -/
def FFmt.ofVal (f : FFmt) (mode : Nat) : FVal → Nat
  | .nan => f.nan
  | .inf s => f.withSign s f.inf
  | .num s m e => f.round mode s m e

/-- A value rounded toward zero to an integer, where it is finite. -/
def FVal.trunc : FVal → Option Int
  | .num s m e =>
    let v : Nat := if e < 0 then m / 2 ^ (-e).toNat else m * 2 ^ e.toNat
    some (if s then -(v : Int) else v)
  | _ => none

/-- Whether a value is finite. -/
def FVal.finite : FVal → Bool
  | .num _ _ _ => true
  | _ => false

/-- The sign of a value. -/
def FVal.sign : FVal → Bool
  | .nan => false
  | .inf s => s
  | .num s _ _ => s

end Sys2Proof.Machine
end

