-- ==== Sys2Proof/Machine/Reply.lean ====
section
/-! DEFINITION. The replies of the host channel: in the order in which the requests of a session came, the outstanding ones among
them (R78, R167, R317). -/

namespace Sys2Proof.Machine

/-- The port, the TYPE and the REQID of a request. -/
structure Ask where
  sess : Nat
  type : Nat
  reqid : Nat
  deriving DecidableEq, Repr

/-- The outstanding requests of a session, oldest first, with the replies that wait behind them (R317). -/
def State.owedTo (s : State) (sess : Nat) : List OwedReply := s.host.owed.filter fun o => o.reply.sess == sess

/-- Replies leave (R317). -/
def State.send (s : State) (rs : List HostReply) : State :=
  match rs.getLast? with
  | none => s
  | some r => { s with host := { s.host with reply := some r, sent := rs } }

/-- A request whose reply comes later (R78, R167). -/
def State.owe (s : State) (q : Ask) : State :=
  { s with host := { s.host with owed := s.host.owed ++ [⟨⟨q.sess, q.type, q.reqid, 0, []⟩, false⟩] } }

/-- A reply (R317). Replies leave in the order in which the requests of a session came, so one behind an outstanding request waits for
that request's reply. -/
def State.answer (s : State) (q : Ask) (fault : Nat) (body : List (BitVec 8)) : State :=
  let r : HostReply := ⟨q.sess, q.type, q.reqid, fault, body⟩
  if (s.owedTo q.sess).isEmpty then s.send [r] else { s with host := { s.host with owed := s.host.owed ++ [⟨r, true⟩] } }

/-- The oldest outstanding request that a reply answers takes it. -/
def fillOwed (r : HostReply) : List OwedReply → List OwedReply
  | [] => []
  | o :: t =>
    if !o.ready && o.reply.sess == r.sess && o.reply.type == r.type && o.reply.reqid == r.reqid then ⟨r, true⟩ :: t
    else o :: fillOwed r t

/-- The reply to an outstanding request; those that waited behind it leave after it (R317). -/
def State.settle (s : State) (q : Ask) (fault : Nat) (body : List (BitVec 8)) : State :=
  let s := { s with host := { s.host with owed := fillOwed ⟨q.sess, q.type, q.reqid, fault, body⟩ s.host.owed } }
  let mine := s.owedTo q.sess
  let rest := s.host.owed.filter fun o => o.reply.sess != q.sess
  { s with host := { s.host with owed := rest ++ mine.dropWhile OwedReply.ready } }.send ((mine.takeWhile OwedReply.ready).map OwedReply.reply)

/-- The 16 header bytes and the body of a reply, as they go out (R317). -/
def HostReply.bytes (r : HostReply) : List (BitVec 8) :=
  toLE 4 (16 + r.body.length) ++ toLE 1 r.type ++ toLE 1 1 ++ zeros 2 ++ toLE 4 r.reqid ++ toLE 2 r.fault ++ zeros 2 ++ r.body

/-- An action with the fault that it reports and the report of an admission that it refuses (R78); a fault of Table 7.11 that lets RUN
proceed is none. -/
def State.reporting (s : State) (f : State → State) : State × Nat × List (BitVec 8) :=
  let t := f { s with lastReport := 0, admission := [] }
  let fault := if t.lastReport = 0x0418 || t.lastReport = 0x0419 then 0 else t.lastReport
  ({ t with lastReport := if t.lastReport = 0 then s.lastReport else t.lastReport, admission := [] }, fault, t.admission)

/-! ### A RUN request that waits (R78, R175, R416) -/

/-- A RUN request waits for the end of a save or of a fallback gap (R175, R416). -/
def State.runWaits (s : State) : Bool :=
  match s.tsk.entry with
  | .waitSave _ | .waitGap _ => true
  | _ => false

/-- The mode change of the host that a waiting RUN request came by. -/
def runAsk (a : Nat × Nat) : Ask := ⟨a.1, 0x50, a.2⟩

/-- A mode change of the host: its reply carries the fault that it reports and the report of a refused admission (R78), for a RUN
request that waits at the end of its wait (DEDUCED, log entry 39). -/
def State.answerReport (s : State) (q : Ask) (f : State → State) : State :=
  let r := s.reporting f
  if r.1.runWaits && !s.runWaits then { r.1 with host := { r.1.host with runAsk := some (q.sess, q.reqid) } }.owe q
  else r.1.answer q r.2.1 r.2.2

/-- A waiting RUN request goes on by `f`: once it waits no longer, the host that ordered it has its reply (R78). -/
def State.settleRun (s : State) (f : State → State) : State :=
  match s.host.runAsk with
  | none => f s
  | some a =>
    let r := s.reporting f
    if r.1.runWaits then r.1 else { r.1 with host := { r.1.host with runAsk := none } }.settle (runAsk a) r.2.1 r.2.2

/-- A waiting RUN request that is given up is answered as a refused mode request (R97) (DEDUCED, log entry 39). -/
def State.dropRun (s : State) : State :=
  match s.host.runAsk with
  | none => s
  | some a => { s with host := { s.host with runAsk := none } }.settle (runAsk a) 0x0403 []

end Sys2Proof.Machine
end

