-- ==== Sys2Proof/Machine/Modes.lean ====
section
/-! DEFINITION. Operations that many commands share: tally events, the phase references and relock (R37, R41, R46), retain
saves (R172 to R176), the dispatch of tasks on engines (R64, R112), and the controller stop (R93). -/

namespace Sys2Proof.Machine

/-! ### Tally events (R396) -/

/-- An event handed to the tally book, to be sealed as its own record (R396). -/
def State.tallyEvent (s : State) (code : Nat) (payload : List (BitVec 8)) : State :=
  { s with tly := { s.tly with events := s.tly.events ++ [⟨code, payload, s.tstampNow⟩] } }

/-! ### References -/

/-- The increment, 16.32 per engine clock, of a frequency in mHz. -/
def incOfMHz (f : Nat) : Nat := f * 2 ^ 64 / 400000000000

/-- The smallest increment inside the band (R41). -/
def State.incMin (s : State) : Nat := ceilDiv (s.rd R.PHS_FMIN_F * 2 ^ 64) 400000000000

/-- The largest increment inside the band (R41). -/
def State.incMax (s : State) : Nat := incOfMHz (s.rd R.PHS_FMAX_F)

/-- An increment held inside the band (R41). -/
def State.clampInc (s : State) (i : Nat) : Nat := max s.incMin (min s.incMax i)

/-- The increment of a reference, MAINS 0, NET 1 or XTAL 2, as it now runs (R37); NET runs at the rate of TIM_INCR, nanoseconds in
8.32 a clock of 125 MHz. -/
def State.refInc (s : State) (r : Nat) : Nat :=
  match r with
  | 0 => s.phs.mainsInc
  | 1 => s.rd R.TIM_INCR_INCR * 5 * 2 ^ 28 / max 1 (s.rd R.PHS_NETPER_PER)
  | 2 => 2 ^ 64 / (16 * max 1 (s.rd R.PHS_XTALPER_PER))
  | _ => s.phs.trackInc

/-- The phase of a reference now, with PHS_MOFS for MAINS (R37). -/
def State.refPhase (s : State) (r : Nat) : Nat :=
  match r with
  | 0 => (s.phs.mainsPhase / 2 ^ 32 + s.rd R.PHS_MOFS_OFS) % 2 ^ 32
  | 1 =>
    let per := max 1 (s.rd R.PHS_NETPER_PER)
    (s.rd R.TIM_SEC_SEC * 1000000000 + s.tim.ns) % per * 2 ^ 32 / per
  | 2 => s.phs.xtalPhase / 2 ^ 32
  | _ => s.rd R.PHS_PHASE_PHASE

/-- A reference is lost now (R43). -/
def State.refLost (s : State) (r : Nat) : Bool :=
  match r with
  | 0 => s.phs.mainsLost
  | 1 => s.phs.netLost
  | 2 => s.phs.xtalLost
  | _ => true

/-- A number of events per 10^12 ns, one each `per`, lies inside the declared band, compared exactly. -/
def State.perInBand (s : State) (num per : Nat) : Bool :=
  decide (s.rd R.PHS_FMIN_F * per ≤ num) && decide (num ≤ s.rd R.PHS_FMAX_F * per)

/-- The reference's frequency lies inside the declared band (R41, R47): the measured one of MAINS, and 10^12 / PHS_NETPER or
25 * 10^9 / PHS_XTALPER mHz. -/
def State.refInBand (s : State) (r : Nat) : Bool :=
  match r with
  | 0 => s.perInBand s.phs.measMHz 1
  | 1 => s.perInBand 1000000000000 (s.rd R.PHS_NETPER_PER)
  | 2 => s.perInBand 25000000000 (s.rd R.PHS_XTALPER_PER)
  | _ => false

/-- The clocks of the detection window of a loss of MAINS: three half-periods of its nominal frequency (R43, R44) (DESIGN CHOICE, log
entry 28). -/
def State.lossWindow (s : State) : Nat := if s.on R.PHS_CFG_MNOM then 10000000 else 12000000

/-- The tracking increment in force at the start of the detection window of a loss of MAINS (R44). -/
def State.windowInc (s : State) : Nat :=
  match s.phs.replaced.find? fun c => decide (s.clk < c.1 + s.lossWindow) with
  | some c => c.2
  | none => s.phs.trackInc

/-- The tracking increment takes a value; the one given up is kept while a detection window can reach it (R44). -/
def State.setTrack (s : State) (i : Nat) : State :=
  let old := s.phs.replaced.filter fun c => decide (s.clk < c.1 + 12000000)
  { s with phs := { s.phs with
      trackInc := i, replaced := if i = s.phs.trackInc then old else old ++ [(s.clk, s.phs.trackInc)] } }

/-- The main word runs at the tracking increment, inside the band (R41). -/
def State.track (s : State) (i : Nat) : State :=
  let t := (s.wr R.PHS_INC_INC (s.clampInc i)).setTrack (s.clampInc i)
  { t with phs := { t.phs with slewOfs := 0 } }

/-- PHS follows its reference's increment (R36): the offset of a slew in progress stays on it. -/
def State.retrack (s : State) (i : Nat) : State :=
  if s.on R.PHS_STAT_SLEWING then
    (s.wr R.PHS_INC_INC (s.clampInc ((s.clampInc i : Int) + s.phs.slewOfs).toNat)).setTrack (s.clampInc i)
  else s.track i

/-- PHS writes the reference phase into the main word at once, the turn count unchanged (R46). -/
def State.snap (s : State) (r : Nat) : State :=
  { s.wr R.PHS_PHASE_PHASE (s.refPhase r) with phs := { s.phs with frac := 0 } }

/-- The slew offset of R46 for a phase error `e` of the word against a reference of increment `i`: the smaller of the
PHS_SLEW offset and the distance to the band edge, the shorter way unless the band forbids it. -/
def State.slewOffset (s : State) (e : Int) (i : Nat) : Int :=
  let ppm := max 100 (min 20000 (s.rd R.PHS_SLEW_PPM))
  let step := i * ppm / 1000000
  let up := min step (s.incMax - i)
  let down := min step (i - s.incMin)
  if 0 < e then if down = 0 then (up : Int) else -(down : Int)
  else if up = 0 then -(down : Int) else (up : Int)

/-- The main word relocks to reference `r`: a snap in STOP, a slew in RUN and HOLD (R46). The offset of a slew is fixed when it
begins: a write of PHS_SLEW during it acts on the next slew (DESIGN CHOICE, log entry 28). -/
def State.relock (s : State) (r : Nat) : State :=
  let i := s.clampInc (s.refInc r)
  let s := s.track i
  if s.mode = 0 then (s.snap r).wr R.PHS_STAT_SLEWING 0
  else
    let e := toSigned 32 (s.rd R.PHS_PHASE_PHASE + 2 ^ 32 - s.refPhase r)
    if e = 0 then (if s.on R.PHS_STAT_SLEWING then (s.wr R.PHS_STAT_SLEWING 0).raise 22 else s)
    else
      let o := s.slewOffset e i
      let s := s.wr R.PHS_STAT_SLEWING 1
      let s := s.wr R.PHS_INC_INC (s.clampInc ((i : Int) + o).toNat)
      { s with phs := { s.phs with slewOfs := o, slewLong := decide (0 < e) == decide (0 < o) } }

/-- BANDX shows whether the frequency of the active reference lies outside the band, and line 17 rises on a change (R41). -/
def State.showBand (s : State) (r : Nat) : State :=
  if s.on R.PHS_STAT_BANDX = !s.refInBand r then s else (s.wrB R.PHS_STAT_BANDX (!s.refInBand r)).raise 17

/-- A slew in progress at an entry to STOP ends there with a snap and line 22 (R46). -/
def State.stopEndsSlew (s : State) : State :=
  if s.on R.PHS_STAT_SLEWING then
    (((s.snap (s.rd R.PHS_CFG_REF)).track s.phs.trackInc).wr R.PHS_STAT_SLEWING 0).raise 22
  else s

/-! ### Event slots -/

/-- The slots whose QUAL is not 0, in slot order. -/
def State.armed (s : State) : List Nat :=
  (swindow s.regs (R.PHS_SLOT_WORD 0 1).key ((R.PHS_SLOT_WORD 1023 1).key + 1)).filterMap fun c =>
    if (c.1 - (R.PHS_SLOT_WORD 0 1).key) % 1024 = 0 && c.2 % 4 != 0 then
      some ((c.1 - (R.PHS_SLOT_WORD 0 1).key) / 1024) else none

/-- A once-slot whose C lies behind the turn count of its word is disarmed and PASTC is set (R54). -/
def State.disarmPast (s : State) (n : Nat) : State :=
  let w1 := s.rd (R.PHS_SLOT_WORD n 1)
  let turn := if bitOf w1 2 then s.rd R.PHS_SHPHASE_TURN else s.rd R.PHS_PHASE_TURN
  if w1 % 4 = 3 && decide (2 ^ 31 ≤ (s.rd (R.PHS_SLOT_WORD n 2) + 2 ^ 32 - turn) % 2 ^ 32) then
    (s.wr (R.PHS_SLOT_WORD n 1) (w1 - 3)).wr R.PHS_STAT_PASTC 1
  else s

/-- Every once-slot whose C a turn count has just passed is disarmed (R54). -/
def State.disarmAll (s : State) : State := s.armed.foldl State.disarmPast s

/-! ### Retain snapshots -/

/-- The flash address of snapshot slot `i` (R172, Table 11.7). -/
def snapBase (i : Nat) : Nat := (0xA200 + 0x400 * i) * 4096

/-- The slot's COMPLETE holds its value (Table 7.7). -/
def State.snapComplete (s : State) (i : Nat) : Bool := readLE s.legible (snapBase i + 0xFFC) 4 == 0x504D4F43

/-- SEQ of a slot. -/
def State.snapSeq (s : State) (i : Nat) : Nat := readLE s.legible (snapBase i + 4) 4

/-- Every data block of a slot matches its BCRC (R176). -/
def State.snapBlocksOk (s : State) (i : Nat) : Bool :=
  (List.range 512).all fun k =>
    crc32 (readBytes s.legible (snapBase i + 4096 * (k + 1)) 4096) == readLE s.legible (snapBase i + 0x40 + 4 * k) 4

/-- Where a slot stands against R176: 0 valid, 1 not complete, 2 a CRC or MAGIC failure, 3 a RLAYOUT mismatch, the
first failure in the order of TSK_RSTAT.REASON. -/
def State.snapStatus (s : State) (i : Nat) : Nat :=
  if !s.snapComplete i then 1
  else if readLE s.legible (snapBase i) 4 ≠ 0x54504E53 then 2
  else if readLE s.legible (snapBase i + 0x840) 4 ≠ crc32 (readBytes s.legible (snapBase i) 0x840) then 2
  else if !s.snapBlocksOk i then 2
  else
    match s.img with
    | none => 3
    | some im => if readLE s.legible (snapBase i + 8) 8 = im.rlayout then 0 else 3

/-- The later of two sequence numbers modulo 2^32: slot 1 where it lies 1 to 2^31 - 1 ahead (R176). -/
def laterSlot (seq0 seq1 : Nat) : Nat :=
  let d := (seq1 + 2 ^ 32 - seq0) % 2 ^ 32
  if 1 ≤ d && d < 2 ^ 31 then 1 else 0

/-- The newest valid snapshot (R176). -/
def State.newestValid (s : State) : Option Nat :=
  if s.snapStatus 0 = 0 then
    if s.snapStatus 1 = 0 then some (laterSlot (s.snapSeq 0) (s.snapSeq 1)) else some 0
  else if s.snapStatus 1 = 0 then some 1 else none

/-- The newer of the complete slots (R179, R180). -/
def State.newestComplete (s : State) : Option Nat :=
  if s.snapComplete 0 then
    if s.snapComplete 1 then some (laterSlot (s.snapSeq 0) (s.snapSeq 1)) else some 0
  else if s.snapComplete 1 then some 1 else none

/-- A save makes its slot void: 0 in its COMPLETE (R173). -/
def State.voidSnap (s : State) (i : Nat) : State := s.setFlash (snapBase i + 0xFFC) 4 (writeBytes s.flash (snapBase i + 0xFFC) (zeros 4))

/-- A save begins in a slot (R173): steps 1 and 2, SAVING and NVS_STAT.SAVE set. It waits for NVS to be ready (R294). -/
def State.beginSave (s : State) (slot cause : Nat) : State :=
  let s := (if s.nvsReady then s.voidSnap slot else s).wr R.TSK_RSTAT_SAVING 1
  let s := s.wr R.NVS_STAT_SAVE 1
  { s with tsk := { s.tsk with save := some (slot, cause), saved := 0, savePoison := [], saveBlock := [], saveTime := s.tstampNow
                               saveCyc := s.rd R.TSK_CYCCNT_COUNT }
           nvs := { s.nvs with cut := none } }

/-- The slot that a save takes: the one that does not hold the newest valid snapshot (R173). -/
def State.saveSlot (s : State) : Nat :=
  match s.newestValid with
  | some 0 => 1
  | _ => 0

/-- A save is started by cause 1, a power-fail warning, or 2, an entry to STOP, and collides with one in progress as R175
states. With MEM or NVS off there is no save. -/
def State.startSave (s : State) (cause : Nat) : State :=
  if !(s.domOn 5 && s.domOn 6) then s
  else
    match s.tsk.save with
    | some (slot, running) => if running = 2 && cause = 1 then s.beginSave slot 1 else s
    | none => s.beginSave s.saveSlot cause

/-! ### Tasks on engines -/

/-- A field of the task table's word 0 (R80). -/
def State.taskEn (s : State) (t : Nat) : Bool := s.on (R.TSK_TASK_CTL_EN t)

/-- The task's engine. -/
def State.taskEng (s : State) (t : Nat) : Nat := s.rd (R.TSK_TASK_CTL_ENG t)

/-- The task's note: 0 top, 1 heart, 2 base. -/
def State.taskNote (s : State) (t : Nat) : Nat := s.rd (R.TSK_TASK_CTL_NOTE t)

/-- The tasks with a run in progress on engine `e`, in task-number order. -/
def State.runsOn (s : State) (e : Nat) : List Nat :=
  (List.range 32).filter fun t => (s.task t).running && s.taskEng t == e

/-- The task that engine `e` runs next (R64): the highest note with a run in progress, and within it the run that has
started, else the lowest task number. -/
def State.pick (s : State) (e : Nat) : Option Nat :=
  let rs := s.runsOn e
  let inNote := fun k => rs.filter fun t => s.taskNote t == k
  let best := fun k => ((inNote k).find? fun t => (s.task t).started).or (inNote k).head?
  (best 0).or ((best 1).or (best 2))

/-- The task record of the loaded image (Table 7.4). -/
def State.taskRec (s : State) (t : Nat) : Option TaskRec :=
  match s.img with
  | some im => im.tasks[t]?
  | none => none

/-- Engine `e` spends ticks (R133). -/
def State.spend (s : State) (e n : Nat) : State :=
  { s with engTicks := sput 0 s.engTicks e (sget 0 s.engTicks e + n) }

/-- Engine `e` is idle between runs. -/
def State.idleEng (s : State) (e : Nat) : State :=
  ((s.wr (R.FBE_STAT_STATE e) 2).wr (R.FBE_STAT_TASK e) 0x3F).wr (R.FBE_STAT_DEPTH e) 0

/-- Engine `e` halts at the instruction it is executing; a trapped engine keeps its state (R93, R138). -/
def State.haltEng (s : State) (e : Nat) : State :=
  if s.rd (R.FBE_STAT_STATE e) = 3 then s else s.wr (R.FBE_STAT_STATE e) 0

/-- All four engines halt. -/
def State.haltAll (s : State) : State := (((s.haltEng 0).haltEng 1).haltEng 2).haltEng 3

/-! ### Entry to STOP and the controller stop -/

/-- A task whose run, if any, is abandoned. -/
def abandonTask (t : TaskState) : TaskState :=
  { t with running := false, loaded := false, started := false, armed := false, carried := false, streak := 0 }

/-- A change made to every task, the canonical form kept. -/
def mapTasks (f : TaskState → TaskState) (m : Sparse TaskState) : Sparse TaskState :=
  (m.map fun c => (c.1, f c.2)).filter fun c => decide (c.2 ≠ {})

/-- Runs in progress are abandoned and deadlines are no longer due (Table 4.7). -/
def State.abandonRuns (s : State) : State :=
  { s with tsk := { s.tsk with tasks := mapTasks abandonTask s.tsk.tasks } }

/-- PEND (TSK_STAT): a mode change waits for its boundary: a request taken in, or an entry to RUN whose checks have passed
(DEDUCED, log entry 15). -/
def State.showPend (s : State) : State :=
  s.wrB R.TSK_STAT_PEND (!s.tsk.requests.isEmpty || s.tsk.entry == .restarting || s.tsk.entry == .ready)

/-- An entry to RUN given up; the host that waits for its reply is told (R78). -/
def State.dropEntry (s : State) : State := { s with tsk := { s.tsk with entry := .none } }.showPend.dropRun

/-- The engines halt, runs are abandoned and waiting requests fall. -/
def State.quiesce (s : State) : State :=
  { s.haltAll.abandonRuns with tsk := { s.haltAll.abandonRuns.tsk with requests := [], canaryOff := false } }

/-- MODE, STEP, PEND and CAUSE of TSK_STAT in STOP. -/
def State.showStop (s : State) (cause : Nat) : State :=
  ((s.wr R.TSK_STAT_MODE 0).wr R.TSK_STAT_STEP 0).showPend.wr R.TSK_STAT_CAUSE cause

/-- The mode becomes STOP with a cause (TSK_STAT), and what every entry to STOP brings follows: the engines halt, runs are
abandoned, waiting requests fall, a slew ends (R46), line 24 rises and a retain save starts (R173). -/
def State.enterStop (s : State) (cause : Nat) : State :=
  if s.mode = 0 then s.quiesce.showStop cause
  else (((s.quiesce.showStop cause).raise 24).stopEndsSlew).startSave 2

/-- The payload of tally record 0x001 (Table 16.3): TSK_FAULT, TSK_FAULTPH, CAUSE and, for a breach, SYS_BREACH_ADDR and
its master (DESIGN CHOICE, log entry 13). -/
def State.stopPayload (s : State) (cause : Nat) : List (BitVec 8) :=
  toLE 4 (s.rd R.TSK_FAULT_FAULT + s.rd R.TSK_FAULT_MASTER * 2 ^ 16 + s.rd R.TSK_FAULT_TASK * 2 ^ 24) ++
  toLE 8 (s.rd R.TSK_FAULTPH_TURN * 2 ^ 32 + s.rd R.TSK_FAULTPH_PHASE) ++ toLE 4 cause ++
  (if cause = 4 then toLE 8 (s.rd R.SYS_BREACH_ADDR_ADDR) ++ toLE 4 (s.rd R.SYS_BREACH_INFO_MASTER) else [])

/-- The stop fault is latched with its task, its master and the phase, FLT is set, with which the FAULT output asserts, and line 25
rises (R93, R448). -/
def State.latchStop (s : State) (fault task master : Nat) : State :=
  ((((((((s.wr R.TSK_FAULT_FAULT fault).wr R.TSK_FAULT_TASK task).wr R.TSK_FAULT_MASTER master).wr
    R.TSK_FAULTPH_PHASE (s.rd R.PHS_PHASE_PHASE)).wr R.TSK_FAULTPH_TURN (s.rd R.PHS_PHASE_TURN)).wr
    R.TSK_STAT_FLT 1).note fault).raise 25)

/-- The FAULT output of X1 is asserted, its switch open (R448): reset holds, the supervisor has no power, or FLT is set. -/
def State.faultOut (s : State) : Bool := s.pwr.held || !s.domOn 1 || s.on R.TSK_STAT_FLT

/-- An activation or fallback gap is in progress (R408, R416): UPD_STAT.STATE is 4 or 6, or an aborted gap has not yet ended (R464). -/
def State.inGap (s : State) : Bool := s.rd R.UPD_STAT_STATE = 4 || s.rd R.UPD_STAT_STATE = 6 || s.upd.gap.isSome

/-- A controller stop in a gap, if one is in progress: the gap ends in STOP, and outputs take their safe values (R93, R409). -/
def State.gapStopped (s : State) : State :=
  { s with upd := { s.upd with gap := s.upd.gap.map fun g => { g with toStop := true, stopped := true } } }

/-- The engines that run a task, as a mask. -/
def State.runningMask (s : State) : Nat :=
  (List.range 4).foldl (fun m e => if s.rd (R.FBE_STAT_STATE e) = 1 then m + 2 ^ e else m) 0

/-- The engines halt at a stop (R93): undelivered commits drop, and which engines ran is kept, for the instructions under way in the
same clock (R132). -/
def State.haltNow (s : State) : State :=
  { s.haltAll with tsk := { s.haltAll.tsk with hostCommits := [], inFlight := s.runningMask, stopClk := s.clk } }

/-- A controller stop (R93) with its cause, fault, task and master: engines halt, undelivered commits drop, the fault is
latched, the mode becomes STOP. It is taken in RUN and HOLD and during a gap; in STOP only a power-down stop, cause 6,
acts: it changes no mode and still latches the fault (Table 4.7, R409, R430) (DEDUCED, log entry 12). -/
def State.controllerStop (s : State) (cause fault task master : Nat) : State :=
  if s.mode = 0 && !s.inGap then
    if cause = 6 then
      let s := (s.latchStop fault task master).dropEntry
      s.tallyEvent 0x001 (s.stopPayload cause)
    else s
  else
    let s := ((s.haltNow.latchStop fault task master).enterStop cause).gapStopped
    s.tallyEvent 0x001 (s.stopPayload cause)

/-! ### Engine traps (R131) -/

/-- A trapping engine records the fault, the IP, the instruction word and the address, enters the trapped state and raises its
line (R131). -/
def State.recordTrap (s : State) (e fault addr word : Nat) : State :=
  let b := s.rd (R.FBE_STAT_BANK e)
  let s := (s.wr (R.FBE_TRAP_FAULT e) fault).wr (R.FBE_TRAP_TASK e) (s.rd (R.FBE_STAT_TASK e))
  let s := (s.wr (R.FBE_TRAP_BANK e) b).wr (R.FBE_TRAPIP_IP e) (s.rd (R.FBE_BANK_IP_IP e b))
  let s := (s.wr (R.FBE_TRAPWORD_WORD e) word).wr (R.FBE_TADDR_ADDR e) addr
  (s.wr (R.FBE_STAT_STATE e) 3).raise (32 + e)

/-- A trap: recorded, and then a controller stop with cause 3 (R131, R132, R137). -/
def State.trap (s : State) (e fault addr word : Nat) : State :=
  (s.recordTrap e fault addr word).controllerStop 3 fault (s.rd (R.FBE_STAT_TASK e)) (2 + e)

/-! ### Traps of the same clock (R132) -/

/-- The payload of the latest event replaced, where its code is `code`. -/
def amendEvent (code : Nat) (payload : List (BitVec 8)) (l : List TallyEvent) : List TallyEvent :=
  match l.getLast? with
  | some v => if v.code = code then l.dropLast ++ [{ v with payload := payload }] else l
  | none => l

/-- The trap of an engine in the clock of a controller stop takes the stop fault from every cause but a power-down stop and the trap
of a lower-numbered engine (R132). -/
def State.relatch (s : State) (e fault : Nat) : State :=
  if s.rd R.TSK_STAT_CAUSE = 6 || (s.rd R.TSK_STAT_CAUSE = 3 && decide (s.rd R.TSK_FAULT_MASTER ≤ 2 + e)) then s
  else
    let s := (s.latchStop fault (s.rd (R.FBE_STAT_TASK e)) (2 + e)).wr R.TSK_STAT_CAUSE 3
    { s with tly := { s.tly with events := amendEvent 0x001 (s.stopPayload 3) s.tly.events } }

/-- An engine that the stop has halted in this clock traps in the instruction that was under way: it keeps its own record (R132). -/
def State.trapToo (s : State) (e fault addr word : Nat) : State := (s.recordTrap e fault addr word).relatch e fault

/-- The instruction of engine `e` was under way when a controller stop halted it in this clock (R132) (DEDUCED, log entry 58). -/
def State.underway (s : State) (e : Nat) : Bool :=
  bitOf s.tsk.inFlight e && s.tsk.stopClk == s.clk && s.rd (R.FBE_STAT_STATE e) == 0

/-- That instruction is over. -/
def State.endFlight (s : State) (e : Nat) : State :=
  { s with tsk := { s.tsk with inFlight := withBit s.tsk.inFlight e false } }

/-! ### Banks and dispatch (R64, R111, R112) -/

/-- ENTRY and the frame size of a descriptor as the engine reads them (R112, R273), and whether it met poison there. -/
def State.readEntry (s : State) (e d : Nat) : State × Bool × Nat × Nat :=
  let r := s.readChecked (2 + e) (d + 8) 8
  (r.1, r.2, r.1.peek (d + 8) 4, r.1.peek (d + 12) 4)

/-- The bank of task `t`'s note on engine `e` at the start of a run (R112): its entry point and frame as the descriptor gives them. -/
def State.fillBank (s : State) (e t : Nat) (r : TaskRec) (pool entry frame : Nat) : State :=
  let b := s.taskNote t
  let s := (List.range 14).foldl (fun s n => s.wr (R.FBE_BANK_X_X e b n) 0) s
  let s := s.wr (R.FBE_BANK_X_X e b 15) 0
  let s := s.wr (R.FBE_BANK_FS_FS e b) 0
  let s := s.wr (R.FBE_BANK_IB_IB e b) r.inst
  let s := s.wr (R.FBE_BANK_LB_LB e b) r.stack
  let s := s.wr (R.FBE_BANK_X_X e b 14) (r.stack + frame)
  let s := s.wr (R.FBE_BANK_KB_KB e b) pool
  let s := s.wr (R.FBE_BANK_WB_WB e b) r.wbase
  let s := s.wr (R.FBE_BANK_WLIM_WLIM e b) r.wsize
  let s := s.wr (R.FBE_BANK_SLIM_SLIM e b) (r.stack + r.stackSz)
  s.wr (R.FBE_BANK_IP_IP e b) entry

/-- The bank of task `t`'s note is loaded for its run on engine `e` (R112), in place of any other run's that has not started; the
second part says that poison in the type descriptor has trapped instead (Table 11.3) (DEDUCED, log entry 58). That trap is recorded
with the task and the bank that FBE_STAT shows then, not with the task being released (DESIGN CHOICE, log entry 73). -/
def State.loadBank (s : State) (e t : Nat) : State × Bool :=
  let b := s.taskNote t
  match s.taskRec t, s.img with
  | some r, some im =>
    let (s, bad, entry, frame) := s.readEntry e r.entry
    if bad then (s.trap e 0x050A (r.entry + 8) 0, true)
    else
      let s := ((s.runsOn e).filter fun u => s.taskNote u == b).foldl (fun s u => s.setTask u { s.task u with loaded := false }) s
      ((s.fillBank e t r im.poolBase entry frame).setTask t { s.task t with loaded := true }, false)
  | _, _ => (s.setTask t { s.task t with loaded := true }, false)

/-- The bank of a task's note is free at its release: no run of that note has started on the engine, and of those that wait the task
is the one that runs first (R64, R111). -/
def State.bankFree (s : State) (e t : Nat) : Bool :=
  let rs := (s.runsOn e).filter fun u => s.taskNote u == s.taskNote t
  rs.all (fun u => !(s.task u).started) && rs.head? == some t

/-- Engine `e` turns to task `t`: a run dispatched for the first time spends the 80 ticks of R63, which cover the load of
its bank, done at its release where the bank was free; a resumed run keeps its bank (R111). -/
def State.enter (s : State) (e t : Nat) : State :=
  let r := if (s.task t).started || (s.task t).loaded then (s, false) else s.loadBank e t
  if r.2 then r.1
  else
    let s := if (r.1.task t).started then r.1 else (r.1.setTask t { r.1.task t with started := true }).spend e 80
    let s := s.wr (R.FBE_STAT_STATE e) 1
    let s := s.wr (R.FBE_STAT_BANK e) (s.taskNote t)
    let s := s.wr (R.FBE_STAT_TASK e) t
    s.wr (R.FBE_STAT_DEPTH e) (min 63 (s.task t).depth)

/-- Engine `e` dispatches in the order of R64, or idles. -/
def State.dispatch (s : State) (e : Nat) : State :=
  match s.pick e with
  | some t => s.enter e t
  | none => s.idleEng e

end Sys2Proof.Machine
end

