-- ==== Sys2Proof/Machine/Operands.lean ====
section
/-! DEFINITION. How an engine instruction reads its operands and ends: the registers of its bank, types and extension,
effective addresses and their bounds (R113, R120, R121), memory through the engine's ports (R142, R143), and the common
course of an instruction: fetch, effect, advance, trap (R119, R131, R140). -/

namespace Sys2Proof.Machine

/-! ### The bank in use -/

/-- The register bank in use (FBE_STAT.BANK). -/
def State.bank (s : State) (e : Eng) : Nat := s.rd (R.FBE_STAT_BANK e)

/-- The task running on the engine (FBE_STAT.TASK). -/
def State.curTask (s : State) (e : Eng) : Nat := s.rd (R.FBE_STAT_TASK e)

/-- Register xn. -/
def State.x (s : State) (e : Eng) (n : BitVec 4) : Nat := s.rd (R.FBE_BANK_X_X e (s.bank e) n.toNat)

/-- Register xn written. -/
def State.setX (s : State) (e : Eng) (n : BitVec 4) (v : Nat) : State :=
  s.wr (R.FBE_BANK_X_X e (s.bank e) n.toNat) v

/-- IP. -/
def State.ip (s : State) (e : Eng) : Nat := s.rd (R.FBE_BANK_IP_IP e (s.bank e))

/-- IP written. -/
def State.setIp (s : State) (e : Eng) (v : Nat) : State := s.wr (R.FBE_BANK_IP_IP e (s.bank e)) v

/-- IB. -/
def State.ib (s : State) (e : Eng) : Nat := s.rd (R.FBE_BANK_IB_IB e (s.bank e))

/-- LB. -/
def State.lb (s : State) (e : Eng) : Nat := s.rd (R.FBE_BANK_LB_LB e (s.bank e))

/-- KB. -/
def State.kb (s : State) (e : Eng) : Nat := s.rd (R.FBE_BANK_KB_KB e (s.bank e))

/-- The flags of FS. -/
def State.flags (s : State) (e : Eng) : Flags := unpackFlags (s.rd (R.FBE_BANK_FS_FS e (s.bank e)))

/-- FS written. -/
def State.setFlags (s : State) (e : Eng) (f : Flags) : State :=
  s.wr (R.FBE_BANK_FS_FS e (s.bank e)) (packFlags f)

/-! ### Types -/

/-- The width in bits of a type code (Table 5.3). -/
def tyBits (ty : BitVec 3) : Nat :=
  match ty.toNat with
  | 0 => 8
  | 1 => 16
  | 2 => 32
  | 3 => 64
  | 4 => 32
  | _ => 64

/-- A load or store accepts the type code (R113). -/
def memTy (ty : BitVec 3) : Bool := decide (ty.toNat ≤ 5)

/-- Integer arithmetic, logic and shifts accept the type code: .w and .d (R113). -/
def intTy (ty : BitVec 3) : Bool := ty.toNat == 2 || ty.toNat == 3

/-- Float instructions accept the type code: .f and .g (R113). -/
def floatTy (ty : BitVec 3) : Bool := ty.toNat == 4 || ty.toNat == 5

/-- The format of a float type code. -/
def tyFmt (ty : BitVec 3) : FFmt := if ty.toNat = 4 then f32 else f64

/-- A `w`-bit result in a 64-bit register: zero-extended, or sign-extended with S (R113). -/
def extend (w : Nat) (sx : Bool) (v : Nat) : Nat :=
  let v := v % 2 ^ w
  if sx && bitOf v (w - 1) then v + (2 ^ 64 - 2 ^ w) else v

/-- The extension of a load: an .f load clears bits [63:32] whatever S holds (R113, Table 6.1). -/
def loadExtend (ty : BitVec 3) (sx : Bool) (v : Nat) : Nat := extend (tyBits ty) (sx && ty.toNat != 4) v

/-! ### The course of an instruction -/

/-- What an instruction's own effect comes to: done, with IP to advance past its words; done, with IP already set; or a
trap, with its fault and the operand that FBE_TADDR takes. `cost` is the ticks. -/
inductive Eff where
  | done (s : State) (cost : Nat)
  | jump (s : State) (cost : Nat)
  | trap (s : State) (fault addr : Nat)

/-- The instruction of an engine that a controller stop has halted in the clock in which it was under way: it has no effect (R93), but
its trap is recorded (R132). -/
def engLate (e : Eng) (w : Word) (len : Nat) (body : State → Eff) (s : State) : Res :=
  let f := s.readChecked (2 + e) (s.ip e) len
  if f.2 then .next (f.1.trapToo e 0x050A (s.ip e) w.toNat)
  else
    match body f.1 with
    | .trap t fault addr => .next (t.trapToo e fault addr w.toNat)
    | _ => .next s

/-- An instruction of engine `e` with its words: it acts only while the engine runs a task (FBE_STAT.STATE 1); its words
are fetched through the codeword check, and poison there traps with 0x050A (R140); then its effect, the advance of IP by
4 or 8 (R119) and its ticks (R133), or its trap (R131) (DEDUCED, log entry 3). -/
def engRun (e : Eng) (w : Word) (len : Nat) (body : State → Eff) (s : State) : Res :=
  if s.rd (R.FBE_STAT_STATE e) = 1 then
    let f := s.readChecked (2 + e) (s.ip e) len
    if f.2 then .next (f.1.trap e 0x050A (s.ip e) w.toNat)
    else
      match body f.1 with
      | .done t cost => .next ((t.setIp e (t.ip e + len)).spend e cost)
      | .jump t cost => .next (t.spend e cost)
      | .trap t fault addr => .next (t.trap e fault addr w.toNat)
  else if s.underway e then engLate e w len body (s.endFlight e)
  else .next s

/-- A target lies in the code store (R128). -/
def inCode (a : Nat) : Bool := decide (a < 0x800000)

/-! ### The forms of loads and stores -/

/-- The ticks of a store of `n` bytes to an SRAM store (R134). -/
def storeTicks (n : Nat) : Nat := if n < 4 then 3 else 1

/-- The offset of a load or store: 16 bits in the short form, 31 in the extended one. -/
def offOf (w : FmtM) (ext : Option (BitVec 31)) : Nat :=
  match ext with
  | none => w.off.toNat
  | some o => o.toNat

/-- The words' length. -/
def lenOf {α : Type} (ext : Option α) : Nat :=
  match ext with
  | none => 4
  | some _ => 8

/-- The first word of an extended or short form M instruction with short opcode `op`. -/
def wordM (op : BitVec 8) (w : FmtM) (ext : Option (BitVec 31)) : Word :=
  match ext with
  | none => packM op w
  | some _ => packM (op + 0x80) w

/-- The first word of an immediate form with short opcode `op`. -/
def wordI (op : BitVec 8) (w : FmtI) (ext : Option Word) : Word :=
  match ext with
  | none => packI op w
  | some _ => packI (op + 0x80) w

/-- The immediate of an immediate form at 64 bits: sext(imm16), or sext48 of imm16 above the extension word (R145). -/
def immOf (w : FmtI) (ext : Option Word) : Nat :=
  match ext with
  | none => extend 16 true w.imm.toNat
  | some x => extend 48 true (w.imm.toNat * 2 ^ 32 + x.toNat)

end Sys2Proof.Machine
end

