-- ==== Sys2Proof/Machine/EngineMem.lean ====
section
/-! DEFINITION. The process image and WIN (R123 to R125, R144, R153). -/

namespace Sys2Proof.Machine

/-! ### The process image -/

/-- The point that LDP or STP selects: id, or (id + xa) mod 4,096 with X = 1 (R124, R125). -/
def State.pointOf (s : State) (e : Eng) (w : FmtP) : Nat :=
  (w.id.toNat + if w.x then s.x e w.a else 0) % 4096

/-- A bad bit of Table 4.5 is set: Q_INIT, Q_STALE, Q_RANGE, Q_FAULT or Q_UNDELIVERED. -/
def badQual (q : Nat) : Bool := bitOf q 0 || bitOf q 1 || bitOf q 2 || bitOf q 3 || bitOf q 5

/-- LDP: VALUE, or with M = 1 the second doubleword; Q from the entry's quality (R117, R124). -/
def execLdp (e : Eng) (w : FmtP) (s : State) : Res :=
  engRun e (packP 0x18 w) 4 (fun s =>
    let p := s.pointOf e w
    let a := pointAddr p
    let r := if w.m then s.readChecked (2 + e) (a + 8) 8 else s.readChecked (2 + e) a 12
    if r.2 then .trap r.1 0x050A p
    else
      let s := r.1
      let s1 := s.setX e w.d (s.peek (if w.m then a + 8 else a) 8)
      .done (s1.setFlags e { s.flags e with q := badQual (s.ptQual p) }) 2) s

/-- VALUE of a point written (R125, R319); the entry counts as updated for the next latch (R90). -/
def State.putPoint (s : State) (p v : Nat) : State :=
  let s := s.pokeN (pointAddr p) 8 v
  { s with tsk := { s.tsk with fresh := sput 0 s.tsk.fresh p 1 } }

/-- VALUE of a point written and Q_INIT cleared (R125, R319). -/
def State.putValue (s : State) (p v : Nat) : State :=
  let q := s.ptQual p
  (s.putPoint p v).pokeN (pointAddr p + 8) 2 (withBit q 0 false)

/-- STP: an indexed STP to a point that the running task does not own traps with 0x050B (R125, R144). -/
def execStp (e : Eng) (w : FmtP) (s : State) : Res :=
  engRun e (packP 0x19 w) 4 (fun s =>
    let p := s.pointOf e w
    if w.x && !s.ownedBy p (s.curTask e) then .trap s 0x050B p
    else
      let r := s.readChecked (2 + e) (pointAddr p + 8) 4
      if r.2 then .trap r.1 0x050A p
      else .done (r.1.putValue p (r.1.x e w.d)) 3) s

/-! ### WIN -/

/-- The window line claim of a task (R68). -/
def State.lineClaim (s : State) (t : Nat) : Nat :=
  match s.taskRec t with
  | some r => r.lines
  | none => 0

/-- Lines moved from `src` to `dst`: the source is read through its codewords, poison is carried to every codeword of
the destination that it reaches, and no poison stops the move (R153, R279). -/
def State.moveLines (s : State) (master src dst n : Nat) : State :=
  let s := (s.readChecked master src (64 * n)).1
  let l := s.logical src
  let d := s.logical dst
  let poisoned := (s.memx.ecc.filter fun c => c.2.poison && decide (l ≤ c.1) && decide (c.1 < l + 64 * n)).map
    fun c => (c.1 - l + d, cwSize c.1)
  let ecc := rewriteCw s.memx.ecc d (64 * n)
  let mark := fun m (c : Nat × Nat) =>
    let at0 := cwBase c.1
    let at1 := cwBase (c.1 + c.2 - 1)
    let m := sput ({} : CwErr) m at0 { sget ({} : CwErr) m at0 with poison := true }
    sput ({} : CwErr) m at1 { sget ({} : CwErr) m at1 with poison := true }
  ({ s with mem := scopy 0 s.mem l d (64 * n)
            memx := { s.memx with ecc := poisoned.foldl mark ecc } }).markDirty d

/-- WIN: its checks in the order of R153, then the lines move; 40 + 96 n ticks. Of the traps 0x0521 and 0x0522, whose FBE_TADDR the
spec does not say, it holds the store address xd (DESIGN CHOICE, log entry 54). -/
def execWin (e : Eng) (w : FmtA) (dir : Bool) (z : BitVec 15) (bound : BitVec 16) (s : State) : Res :=
  engRun e (packA 0xDA w) 8 (fun s =>
    let _ := z
    let n := s.x e w.a
    let first := s.x e w.b
    let a := s.x e w.d
    let t := s.curTask e
    let wb := s.rd (R.FBE_BANK_WB_WB e (s.bank e))
    if bound.toNat < n then .trap s 0x0521 a
    else if a % 64 ≠ 0 then .trap s 0x0502 a
    else if s.rd (R.FBE_BANK_WLIM_WLIM e (s.bank e)) < 64 * (first + n) then .trap s 0x050C (wb + 64 * first)
    else if a < 0x1000000 || 0x2800000 < a + 64 * n then .trap s 0x0503 a
    else if s.lineClaim t < (s.task t).lines + n then .trap s 0x0522 a
    else
      let s := if n = 0 then s
        else if dir then s.moveLines (2 + e) a (wb + 64 * first) n
        else s.moveLines (2 + e) (wb + 64 * first) a n
      .done (s.setTask t { s.task t with lines := (s.task t).lines + n }) (40 + 96 * n)) s

end Sys2Proof.Machine
end

