-- ==== Sys2Proof/Machine/Channel.lean ====
section
/-! DEFINITION. The channels of the field slices as the gateway sees them: forces, the value that the fixed bytes of a frame
give each output, analog conversion, safe state and the DO states (R104, R105, R199, R216, R221, R222, R232, R237 to R243). -/

namespace Sys2Proof.Machine

/-! ### Slices -/

/-- A slice. -/
def State.sliceOf (s : State) (n : Nat) : SliceState := sget {} s.ring.slices n

/-- A slice replaced. -/
def State.setSlice (s : State) (n : Nat) (v : SliceState) : State :=
  { s with ring := { s.ring with slices := sput {} s.ring.slices n v } }

/-- The power domain of a slice (Table 18.1). -/
def sliceDom (n : Nat) : Nat := if n < 4 then 11 + n else 15

/-- A slice is present (R220). -/
def State.present (s : State) (n : Nat) : Bool := bitOf (s.rd R.SLR_RING_PRESENT) n

/-- A slice is in safe state (R221). -/
def SliceState.safe (v : SliceState) : Bool := v.bootSafe || v.wdSafe || v.frameSafe

/-- A fault of SLR with its slice and channel. -/
def State.reportSlr (s : State) (code sl ch : Nat) : State :=
  ((s.report R.SLR_LASTFAULT_FAULT code).wr R.SLR_LASTFAULT_SLICE sl).wr R.SLR_LASTFAULT_CHAN ch

/-! ### Forces (R104, R105) -/

/-- The enabled forces, in entry order: entry and point. -/
def State.forces (s : State) : List (Nat × Nat) :=
  (swindow s.regs (R.TSK_FORCE_CTL_EN 0).key ((R.TSK_FORCE_CTL_EN 255).key + 1)).filterMap fun c =>
    if c.1 % 64 = 15 && (c.1 / 64) % 32 = 0 then
      let n := (c.1 - (R.TSK_FORCE_CTL_EN 0).key) / 2048
      some (n, s.rd (R.TSK_FORCE_CTL_POINT n))
    else none

/-- The entry of the force that applies to a point: the lowest-numbered enabled one (R104). -/
def State.forceEntry (s : State) (p : Nat) : Option Nat := (s.forces.find? fun c => c.2 == p).map (·.1)

/-- The forced value of a point. -/
def State.forceOf (s : State) (p : Nat) : Option Nat := (s.forceEntry p).map fun n => s.rd (R.TSK_FORCE_VALUE_VALUE n)

/-! ### What the mode does to outputs (Table 4.8, R409) -/

/-- Outputs take their safe values: in STOP, in HOLD with HOLDSAFE = 1, and in a gap with GAPSAFE = 1 or after a controller
stop (Table 4.8, R409). -/
def State.safeMode (s : State) : Bool :=
  if s.inGap then s.on R.UPD_CFG_GAPSAFE || s.on R.TSK_STAT_FLT || s.upd.gap.any Gap.stopped
  else s.mode = 0 || (s.mode = 2 && s.on R.TSK_CFG_HOLDSAFE)

/-- Slot actions on a DO are suppressed at the slice (Table 4.8, R409). -/
def State.suppressDo (s : State) : Bool := s.inGap || s.safeMode

/-- The gateway emits SAFE (R219, R222). -/
def State.emitSafe (s : State) : Bool := s.on R.SLR_RING_BROKEN || s.safeMode

/-! ### Loops and their destinations -/

/-- The loops that the image claims, in loop order (R185). -/
def State.claimed (s : State) : List Nat :=
  (swindow s.regs (R.LPE_LDECL_CL_CLAIMED 0).key ((R.LPE_LDECL_CL_CLAIMED 255).key + 1)).filterMap fun c =>
    if (c.1 - (R.LPE_LDECL_CL_CLAIMED 0).key) % 4096 = 0 then
      some ((c.1 - (R.LPE_LDECL_CL_CLAIMED 0).key) / 4096) else none

/-- A word of a loop's declaration (Table 8.5). -/
def State.ldecl (s : State) (n w : Nat) : Nat := s.rd (R.LPE_LDECL_WORD n w)

/-- The live state of a loop. -/
def State.loop (s : State) (n : Nat) : LoopState := sget {} s.lpe.loops n

/-- The live state of a loop replaced. -/
def State.setLoop (s : State) (n : Nat) (v : LoopState) : State :=
  { s with lpe := { s.lpe with loops := sput {} s.lpe.loops n v } }

/-- The loop that owns a channel destination of kind 0 or 1 (Table 8.2, R203). -/
def State.loopAt (s : State) (kind idx : Nat) : Option Nat :=
  s.claimed.find? fun n =>
    s.ldecl n 1 / 2 ^ 28 == kind && s.ldecl n 1 % 65536 == idx && (s.loop n).own

/-! ### Output channels -/

/-- The model's BIND of an on-module channel (DESIGN CHOICE, log entry 20): [15:12] 0 DI, 1 DO, 2 AI, 3 AO;
[11:8] slice; [7:0] channel. -/
def bindOf (kind sl ch : Nat) : Nat := kind * 4096 + sl * 256 + ch

/-- The declared point of an on-module channel (SRC 1). -/
def State.pointAt (s : State) (kind sl ch : Nat) : Option PointDecl :=
  match s.img with
  | some im => im.points.find? fun p => p.flags / 16 == 1 && p.bind == bindOf kind sl ch
  | none => none

/-- The pulse channel that drives a DO (R269). -/
def State.pulseAt (s : State) (sl ch : Nat) : Option Nat :=
  [4, 5, 6, 7].find? fun n => s.on (R.MET_PCFG_EN n) && s.rd (R.MET_PCFG_WT_WT n) != 0 &&
    s.rd (R.MET_PCFG_W_DO n) == 8 * sl + ch

/-- A DO runs in slice PWM. -/
def State.isPwm (s : State) (sl ch : Nat) : Bool := s.on (R.SLR_DOCFG_MODE sl ch)

/-- The loop that owns channel `k` of a field slice (DO 0 to 7 as PWM duty, AO 8 and 9). -/
def State.chanLoop (s : State) (sl k : Nat) : Option Nat :=
  if k < 8 then s.loopAt 1 (8 * sl + k) else s.loopAt 0 (2 * sl + (k - 8))

/-- The point of channel `k`: its output point, or the mirror point of the loop that owns it. -/
def State.chanPoint (s : State) (sl k : Nat) : Option Nat :=
  match s.chanLoop sl k with
  | some n => some (s.ldecl n 4)
  | none => (if k < 8 then s.pointAt 1 sl k else s.pointAt 3 sl (k - 8)).map (·.point)

/-- The force on channel `k`, where output forces apply. -/
def State.chanForce (s : State) (sl k : Nat) : Option Nat :=
  if s.safeMode then none
  else
    match s.chanPoint sl k with
    | some p => s.forceOf p
    | none => none

/-- The safe value of channel `k`, in the form of its point's VALUE: a level, a duty of 1.0 or 0.0, or the AO's f32. -/
def State.chanSafe (s : State) (sl k : Nat) : Nat :=
  if k < 8 then
    if s.isPwm sl k then if s.on (R.SLR_DOCFG_SAFE sl k) then 0x3F800000 else 0
    else s.rd (R.SLR_DOCFG_SAFE sl k)
  else s.rd (R.SLR_AOCFG_SAFE_SAFE sl (k - 8))

/-- The value that the fixed bytes give channel `k` before conversion: the safe value where Table 4.8 calls for it, the
forced value, the loop's latest OUT, in a gap the one last sent, or the last committed value, before the first commit and with
poison in the entry the safe value (R105, R216, R217, R222, R409, Table 11.3). -/
def State.chanValue (s : State) (sl k : Nat) : Nat :=
  if s.safeMode then s.chanSafe sl k
  else
    match s.chanForce sl k with
    | some v => v
    | none =>
      match s.chanLoop sl k with
      | some n =>
        if s.inGap then
          match sget 0 s.ring.sent (16 * sl + k) with
          | 0 => s.chanSafe sl k
          | v + 1 => v
        else (s.loop n).out
      | none =>
        if (s.chanPoint sl k).any s.ptPoison then s.chanSafe sl k
        else
          match sget 0 s.ring.committed (16 * sl + k) with
          | 0 => s.chanSafe sl k
          | v + 1 => v

/-- The gateway reads the output entries that fill the fixed bytes of a frame (R273, Table 11.3). -/
def State.gatewayReads (s : State) : State :=
  if s.memx.ecc.isEmpty then s
  else
    (List.range 40).foldl (fun s i =>
      match s.chanLoop (i / 10) (i % 10), s.chanPoint (i / 10) (i % 10) with
      | none, some p => (s.readChecked 0xC (pointAddr p) 8).1
      | _, _ => s) s

/-! ### Conversion -/

/-- A finite value to the nearest integer, ties to even. -/
def roundInt (neg : Bool) (m : Nat) (e : Int) : Int :=
  let q := if 0 ≤ e then m * 2 ^ e.toNat
    else
      let k := (-e).toNat
      let b := m / 2 ^ k
      let r := 2 * (m % 2 ^ k)
      if 2 ^ k < r || (r == 2 ^ k && b % 2 == 1) then b + 1 else b
  if neg then -(q : Int) else (q : Int)

/-- A value to the nearest integer inside `lo` to `hi`; a NaN gives none. -/
def nearestIn (lo hi : Int) : FVal → Option Int
  | .nan => none
  | .inf s => some (if s then lo else hi)
  | .num s m e => some (max lo (min hi (roundInt s m e)))

/-- A value times a whole number. -/
def FVal.scale (k : Nat) : FVal → FVal
  | .num s m e => .num s (m * k) e
  | v => v

/-- The PWM code of a duty: round(min(max(d, 0), 1) * 65535); a NaN gives 0 (R237). -/
def dutyCode (d : Nat) : Nat := ((nearestIn 0 65535 ((f32.unpack (d % 2 ^ 32)).scale 65535)).getD 0).toNat

/-- c0 of an analog channel: 0 in voltage mode, 12,000 in current mode (R238). -/
def anC0 (current : Bool) : Nat := if current then 12000 else 0

/-- c1 - c0 of an analog channel. -/
def anSpan (current : Bool) : Nat := if current then 48000 else 60000

/-- Engineering units of an AI code (R238), in f32 in the order written. -/
def State.aiValue (s : State) (sl ch code : Nat) : Nat :=
  let cur := s.on (R.SLR_AICFG_MODE sl ch)
  let elo := s.rd (R.SLR_AICFG_ELO_ELO sl ch)
  let ehi := s.rd (R.SLR_AICFG_EHI_EHI sl ch)
  f32.add elo (f32.div (f32.mul (f32.sub ehi elo) (f32.ofInt 0 ((code : Int) - anC0 cur))) (f32.ofInt 0 (anSpan cur)))

/-- An AI code is out of range: Q_RANGE (R239). -/
def State.aiRange (s : State) (sl ch code : Nat) : Bool :=
  decide (63000 < code) || (s.on (R.SLR_AICFG_MODE sl ch) && decide (code < 10800))

/-- An AI code shows an open loop: Q_FAULT (R239). -/
def State.aiOpen (s : State) (sl ch code : Nat) : Bool := s.on (R.SLR_AICFG_MODE sl ch) && decide (code < 1500)

/-- The code of an AO value by the formula of R241 alone (DESIGN CHOICE, log entry 23). -/
def State.aoFormula (s : State) (sl ch e : Nat) : Nat :=
  let cur := s.on (R.SLR_AOCFG_MODE sl ch)
  let elo := s.rd (R.SLR_AOCFG_ELO_ELO sl ch)
  let ehi := s.rd (R.SLR_AOCFG_EHI_EHI sl ch)
  let x := f32.add (f32.ofInt 0 (anC0 cur))
    (f32.mul (f32.div (f32.sub e elo) (f32.sub ehi elo)) (f32.ofInt 0 (anSpan cur)))
  if (f32.unpack elo).cmp (f32.unpack ehi) = some .eq then anC0 cur
  else
    match nearestIn 0 63000 (f32.unpack x) with
    | some v => v.toNat
    | none => anC0 cur

/-- The code of an AO value (R241): a NaN is replaced by the channel's safe value, and a conversion without a result gives
c0. -/
def State.aoCode (s : State) (sl ch e : Nat) : Nat :=
  let e := e % 2 ^ 32
  s.aoFormula sl ch (if f32.unpack e = .nan then s.rd (R.SLR_AOCFG_SAFE_SAFE sl ch) else e)

/-! ### The fixed bytes toward a field slice -/

/-- The level of a DO in the fixed bytes: from MET where a pulse channel drives it (R269), else from its value (R467). -/
def State.doBit (s : State) (sl ch : Nat) : Bool :=
  match s.pulseAt sl ch with
  | some n => s.on (R.MET_PSTAT_ACTIVE n)
  | none => s.chanValue sl ch % 256 != 0

/-- A mask with the bits of 0 to 7 for which `p` holds. -/
def mask8 (p : Nat → Bool) : Nat := (List.range 8).foldl (fun m k => if p k then m + 2 ^ k else m) 0

/-- A mask with the bits of 0 to 9 for which `p` holds. -/
def mask10 (p : Nat → Bool) : Nat := (List.range 10).foldl (fun m k => if p k then m + 2 ^ k else m) 0

/-- What frame `f` carries to field slice `sl` (Table 9.2, R216, R217). -/
def State.frameFor (s : State) (sl f : Nat) (good : Bool) : SliceFrame :=
  let due := s.ring.commits.filter fun c => c.frame == f && c.slice == sl
  { good := good
    safe := s.emitSafe
    levels := mask8 (s.doBit sl)
    half := f % 2
    duty := (List.range 4).map fun k => dutyCode (s.chanValue sl (4 * (f % 2) + k))
    ao := [s.aoCode sl 0 (s.chanValue sl 8), s.aoCode sl 1 (s.chanValue sl 9)]
    commit := mask10 fun k => due.any fun c => c.vals.any fun v => v.1 == k
    instant := due.foldl (fun m c => max m c.instant) 0
    forced := mask10 fun k => (s.chanForce sl k).isSome
    every := mask10 fun k => if k < 8 then (s.pulseAt sl k).isSome else (s.chanLoop sl k).isSome }

/-! ### At the slice -/

/-- The on-time of a PWM period for a code, in 20 ns steps (R237). -/
def State.pwmOn (s : State) (sl ch code : Nat) : Nat :=
  let us := max 1000 (min 60000000 (s.rd (R.SLR_DOCFG_PER_PWMPER sl ch)))
  let p := us * 50
  let t := (2 * code * p + 65535) / (2 * 65535)
  if t < 2500 then 0 else if p - t < 2500 then p else t

/-- The AO code of a channel's safe value (R243). -/
def State.aoSafe (s : State) (sl ch : Nat) : Nat := s.aoCode sl ch (s.rd (R.SLR_AOCFG_SAFE_SAFE sl ch))

/-- The pulses of a slice's DO channels are cut short (R269). -/
def State.cutPulses (s : State) (sl : Nat) : State :=
  (List.range 8).foldl (fun s ch =>
    match s.pulseAt sl ch with
    | some n => s.wr (R.MET_PSTAT_ACTIVE n) 0
    | none => s) s

/-- Every output of a field slice at its safe value (R221, R243). -/
def State.applySafe (s : State) (sl : Nat) : State :=
  let v := s.sliceOf sl
  s.setSlice sl { v with
    levels := mask8 fun k => s.on (R.SLR_DOCFG_SAFE sl k)
    onTime := (List.range 8).map fun k =>
      if s.isPwm sl k && s.on (R.SLR_DOCFG_SAFE sl k) then s.pwmOn sl k 65535 else 0
    ao := [s.aoSafe sl 0, s.aoSafe sl 1] }

/-- A field slice enters safe state: every output at its safe value, and pulses on its channels cut short (R221, R269). -/
def State.toSafe (s : State) (sl : Nat) : State := (s.cutPulses sl).applySafe sl

/-- A slice that is in safe state follows new safe values, modes and scales (R243). -/
def State.resafe (s : State) (sl : Nat) : State :=
  if (s.sliceOf sl).up && (s.sliceOf sl).safe then s.applySafe sl else s

/-- A DO is on as commanded: its level, or in slice PWM a period with an on-time. -/
def State.doOn (s : State) (sl ch : Nat) : Bool :=
  if s.isPwm sl ch then (s.sliceOf sl).onTime.getD ch 0 != 0 else bitOf (s.sliceOf sl).levels ch

/-- The state that a DO reports (Table 9.5): the highest that applies. -/
def State.doState (s : State) (sl ch : Nat) : Nat :=
  let v := s.sliceOf sl
  if v.fsMissing then 2
  else if bitOf v.latched ch then 5
  else if bitOf v.thermal ch then 4
  else if bitOf v.limit ch then 3
  else if bitOf v.openLoad ch then 6
  else if s.doOn sl ch then 1 else 0

/-- OPENLOAD of a slice's DO channels brought up to date (Table 9.5): entered with OLDET = 1 while the channel is on and its current
below 5 mA, left as the current rises above 5 mA. -/
def State.settleDo (s : State) (sl : Nat) : State :=
  let v := s.sliceOf sl
  let open' := mask8 fun k => s.on (R.SLR_DOCFG_OLDET sl k) && bitOf v.below k && (bitOf v.openLoad k || s.doOn sl k)
  s.setSlice sl { v with openLoad := open' }

/-- Status byte 0 of a slice, but for the AI faults, which its AI codes show (Table 9.3, R239). -/
def SliceState.status (v : SliceState) : Nat :=
  b2n v.fsLow + b2n v.fsMissing * 2 + b2n v.sumover * 4 + v.aoFault % 4 * 32 + b2n v.tripped * 128

/-- What a slice puts into its section of frame `f` (R214, R215). -/
def State.sampleSlice (s : State) (sl f : Nat) : State :=
  let v := s.sliceOf sl
  let p : SliceSample :=
    { di := v.di, status := v.status, doBad := mask8 (fun k => decide (2 ≤ s.doState sl k)), chan := f % 8
      code := s.doState sl (f % 8) }
  s.setSlice sl { v with sample := p }

/-- SAFE of SLR_SSTAT as the slice stands. -/
def State.showSafe (s : State) (sl : Nat) : State := s.wrB (R.SLR_SSTAT_SAFE sl) (s.sliceOf sl).safe

/-- A field slice takes levels and AO codes of the channels of a mask from the frame in effect. -/
def takeMask (v : SliceState) (m : Nat) : SliceState :=
  { v with levels := (List.range 8).foldl (fun l k => if bitOf m k then withBit l k (bitOf v.cur.levels k) else l) v.levels
           ao := [if bitOf m 8 then v.cur.ao.getD 0 0 else v.ao.getD 0 0,
                  if bitOf m 9 then v.cur.ao.getD 1 0 else v.ao.getD 1 0] }

/-- The channels that a slice's safe state keeps LATCHED: those whose safe value is on (R243). -/
def State.heldLatched (s : State) (sl : Nat) (v : SliceState) : Nat := mask8 fun k => v.safe && s.on (R.SLR_DOCFG_SAFE sl k)

/-- A DO channel whose commanded level is off in a good frame leaves LATCHED (Table 9.5), but for one that the safe state keeps. -/
def State.unlatch (s : State) (sl : Nat) (v : SliceState) : SliceState :=
  { v with latched := (List.range 8).foldl (fun l k =>
      let off := if s.isPwm sl k then v.duty.getD k 0 == 0 else !bitOf v.cur.levels k
      if off && !bitOf (s.heldLatched sl v) k then withBit l k false else l) v.latched }

/-- The field slices follow new channel settings (R243). -/
def State.followCfg (s : State) : State := (List.range 4).foldl (fun s sl => (s.resafe sl).settleDo sl) s

/-- The counts of good frames, to 40, after one more frame (R221). -/
def SliceState.count (v : SliceState) (good safe : Bool) : SliceState :=
  { v with goodRun := if good then min 40 (v.goodRun + 1) else 0
           clearRun := if good && !safe then min 40 (v.clearRun + 1) else 0 }

/-- The channels of the commit mask of the frame in effect take its levels and codes, but those under force (R216, R217); in safe
state, and from a frame that was not good, none does (R218, R221). -/
def State.applyCommit (s : State) (sl : Nat) : State :=
  let v := s.sliceOf sl
  if !v.up || v.safe || !v.cur.good then s
  else
    let w := takeMask v (v.cur.commit &&& (1023 - v.cur.forced))
    (s.setSlice sl { w with cur := { w.cur with commit := 0 } }).settleDo sl

/-- The start of a frame at a field slice (R214, R216, R217, R221): the frame received before comes into effect, the one
that now arrives is taken in. A SAFE in it acts as it is received; a slice that leaves safe state takes every value of the
frame in effect; else the channels under force, those that have just left it and those that follow every frame take theirs. -/
def State.sliceFrame (s : State) (sl : Nat) (arriving : SliceFrame) : State :=
  let v := s.sliceOf sl
  if !v.up then s
  else
    let was := v.safe
    let before := v.cur.forced
    let v := ({ v with cur := v.next, next := arriving }).count arriving.good arriving.safe
    let v := if v.cur.good then
        { v with duty := (List.range 8).map fun k =>
                   if k / 4 = v.cur.half then v.cur.duty.getD (k % 4) 0 else v.duty.getD k 0
                 frameSafe := v.cur.safe }
      else { v with cur := { v.cur with forced := before } }
    let v := if arriving.good && arriving.safe then { v with frameSafe := true } else v
    let v := if v.cur.good then s.unlatch sl v else v
    let v := if v.safe || !v.cur.good then v
      else if was then takeMask v 0x3FF
      else takeMask v (v.cur.forced ||| v.cur.every ||| before)
    let s := s.setSlice sl v
    let s := if v.safe && !was then s.toSafe sl else s
    let s := if arriving.good then s else s.inc (R.SLR_ERRCNT_BAD sl)
    (s.showSafe sl).settleDo sl

end Sys2Proof.Machine
end

