-- ==== Sys2Proof/Machine/Meter.lean ====
section
/-! DEFINITION. Metering (chapter 10): samples, cycles, blocks, accumulators and energy words on the slice side, publication,
quality and pulse channels on the logic side. Powers and energies are fixed-point numbers of 40 fraction bits, rounded down
where a product or a mean needs it (DESIGN CHOICE, log entry 23). -/

namespace Sys2Proof.Machine

/-! ### Fixed-point numbers -/

/-- The fixed-point number of an f32; a NaN or an infinity counts as 0. -/
def fxOf (x : Nat) : Int :=
  match f32.unpack x with
  | .num s m e =>
    let v : Int := if 0 ≤ e + 40 then m * 2 ^ (e + 40).toNat else (m : Int) / 2 ^ (-(e + 40)).toNat
    if s then -v else v
  | _ => 0

/-- The f32 of a fixed-point number. -/
def f32Of (x : Int) : Nat := f32.round 0 (decide (x < 0)) x.natAbs (-40)

/-- The product of two fixed-point numbers. -/
def fxMul (a b : Int) : Int := a * b / 2 ^ 40

/-- The energy that a power carries in `n` sample periods, in µWh: |p| * n * Ts, with Ts = 31.25 µs (R251, R254). -/
def energyOf (p : Int) (n : Nat) : Nat := p.natAbs * n * 5 / 576

/-! ### A feeder -/

/-- A feeder. -/
def State.feeder (s : State) (f : Nat) : FeederState := sget {} s.met.feeders f

/-- A feeder replaced. -/
def State.setFeeder (s : State) (f : Nat) (v : FeederState) : State :=
  { s with met := { s.met with feeders := sput {} s.met.feeders f v } }

/-- A ratio or trim in force (R250). -/
def FeederState.calOf (v : FeederState) (f : Fld) : Nat := sget f.reset v.cal f.key

/-- The ratios and trims as the registers hold them (R250). -/
def State.calNow (s : State) (f : Nat) : Sparse Nat :=
  swindow s.regs (R.MET_FCFG_NOM f).key ((R.MET_FCFG_NOM f).key + 0x40 * 64) ++
    swindow s.regs (R.MET_CAL_VGAIN_VGAIN f 0).key ((R.MET_CAL_VGAIN_VGAIN f 0).key + 0x100 * 64)

/-- A power trim: gain and offset, primary units (Table 10.2). -/
def trimmed (gain ofs mean : Int) : Int := fxMul gain mean + ofs

/-- An energy quantity gains an increment (R258: an accumulator only ever increases). -/
def FeederState.accrue (v : FeederState) (k num d : Nat) : FeederState :=
  { v with acc := sput 0 v.acc (256 * k + num) (sget 0 v.acc (256 * k + num) + d) }

/-- The split of one sample's energy (R254, Table 10.3). -/
def FeederState.split (v : FeederState) (k : Nat) (p q : Int) : FeederState :=
  let v := v.accrue k (if 0 ≤ p then 0 else 1) (energyOf p 1)
  v.accrue k (if 0 ≤ p then if 0 ≤ q then 2 else 5 else if 0 ≤ q then 3 else 4) (energyOf q 1)

/-- The mean of a full window, or none while it is not yet filled (R253). -/
def winMean (n : Nat) (w : List Int) : Option Int :=
  if n ≤ w.length && n != 0 then some ((w.take n).foldl (· + ·) 0 / n) else none

/-- The bits of a list of readings that reach a clipping level. -/
def clipBits (lim base : Nat) (l : List Int) : Nat :=
  (List.range 4).foldl (fun m k => if lim ≤ (l.getD k 0).natAbs then m + 2 ^ (base + k) else m) 0

/-- A reading in µV or µA with its gain. -/
def gained (gain x : Int) : Int := x * gain / 2 ^ 40

/-- The latest products of a window: while the feeder is locked its length can grow, so all since the lock; else the longest that
NOM gives (R252, R253). -/
def FeederState.kept (v : FeederState) (w : List Int) : List Int := if v.locked then w else w.take 639

/-- One sample of a feeder (R247, R249, R253 to R255): the currents `is` with their phase trims, and as they were read. -/
def FeederState.sample (v : FeederState) (f : Nat) (vs vh is raw : List Int) : FeederState :=
  let ratio := fxMul (fxOf (v.calOf (R.MET_FCFG_VTR_VTR f))) (fxOf (v.calOf (R.MET_FCFG_CTR_CTR f)))
  let vg := fun k => fxOf (v.calOf (R.MET_CAL_VGAIN_VGAIN f k))
  let ig := fun k => fxOf (v.calOf (R.MET_CAL_IGAIN_IGAIN f k))
  let prod := fun k (u : List Int) =>
    gained (vg k) (u.getD k 0) * gained (ig k) (is.getD k 0) * ratio / 1000000000000
  let v := { v with
    winP := (List.range 3).map fun k => prod k vs :: v.kept (v.winP.getD k [])
    winQ := (List.range 3).map fun k => prod k vh :: v.kept (v.winQ.getD k [])
    sumV := (List.range 4).map fun k => v.sumV.getD k 0 + (gained (vg k) (vs.getD k 0)).natAbs ^ 2
    sumI := (List.range 4).map fun k => v.sumI.getD k 0 + (gained (ig k) (is.getD k 0)).natAbs ^ 2
    samples := v.samples + 1
    blockLen := v.blockLen + 1
    prevI := raw.take 3
    clipNow := v.clipNow ||| clipBits 600000000 0 vs ||| clipBits 30000000 4 raw }
  let pk := fun k => (winMean v.nc (v.winP.getD k [])).map
    (trimmed (fxOf (v.calOf (R.MET_CAL_PGAIN_PGAIN f k))) (fxMul (fxOf (v.calOf (R.MET_CAL_POS_POS f k))) ratio))
  let qos := fun k => toSigned 16 (v.calOf (R.MET_CAL_Q_QOS f k)) * 2 ^ 40 / 1000
  let qk := fun k => (winMean v.nc (v.winQ.getD k [])).map
    (trimmed (fxOf (v.calOf (R.MET_CAL_Q_QGAIN f k) * 65536)) (fxMul (qos k) ratio))
  match pk 0, pk 1, pk 2, qk 0, qk 1, qk 2 with
  | some p0, some p1, some p2, some q0, some q1, some q2 =>
    let load := fun k => !(v.noLoad.getD k true)
    let ps := [p0, p1, p2]
    let qs := [q0, q1, q2]
    let tot := fun (l : List Int) => (List.range 3).foldl (fun a k => if load k then a + l.getD k 0 else a) 0
    let v := (List.range 3).foldl (fun v k => if load k then v.split k (ps.getD k 0) (qs.getD k 0) else v) v
    let v := v.split 4 (tot ps) (tot qs)
    { v with p := ps ++ [tot ps], q := qs ++ [tot qs] }
  | _, _, _, _, _, _ => v

/-- The metering slice of a feeder measures: its domain is on and it has booted. -/
def State.metering (s : State) (f : Nat) : Bool := s.domOn 15 && (s.sliceOf (4 + f)).up

/-- A fault of MET with its feeder. -/
def State.reportMet (s : State) (code f : Nat) : State :=
  (s.report R.MET_LASTFAULT_FAULT code).wr R.MET_LASTFAULT_FEEDER f

/-- MET_UNMET as the feeder's unmeasured time gives it (R251, R265, R266). -/
def State.showUnmet (s : State) (f : Nat) : State :=
  s.wr (R.MET_UNMET_UNMET f) (min (2 ^ 32 - 1) ((s.feeder f).unmetNs / 1000000000))

/-- A current sample with the phase trim in force (R249): the sample itself without one, else a value between samples that the spec
does not give. -/
def State.phased (s : State) (f k : Nat) (x : Int) : Int :=
  let d := s.feeder f
  let t := d.calOf (R.MET_CAL_PHTRIM_PHTRIM f k)
  if t = 0 then x else Config.delayed (s.free + k) t (d.prevI.getD k 0) x

/-- The time without samples that a sample ends: on the watchdog oscillator one period (R251), after a firmware switch the time
since it (R266). -/
def FeederState.unmetered (d : FeederState) (clk : Nat) : FeederState :=
  let d := if d.holdover then { d with unmetNs := d.unmetNs + 31250 } else d
  match d.gapClk with
  | some c => { d with unmetNs := d.unmetNs + (clk - c) * 5 / 2, gapClk := none }
  | none => d

/-- METERING_SAMPLE (R254) (DESIGN CHOICE, log entry 24). -/
def execMeteringSample (f : Feeder) (v vh i : List Int) (s : State) : Res :=
  if s.metering f then
    let is := (List.range 3).map (fun k => s.phased f k (i.getD k 0)) ++ [i.getD 3 0]
    let d := ((s.feeder f).sample f v vh is i).unmetered s.clk
    .next (({ s with free := s.free + 3 }.setFeeder f d).showUnmet f)
  else .next s

/-- The rms of a cycle in fixed point, from a sum of squares in µ units (R256). -/
def rmsOf (sum n : Nat) : Int := if n = 0 then 0 else (isqrt (sum * 2 ^ 80 / n) / 1000000 : Nat)

/-- An rms with its offset taken off, in primary units (Table 10.2). -/
def rmsPrimary (ofs ratio rms : Int) : Int := fxMul (max (rms - ofs) 0) ratio

/-- The power factor P / S; 0 where S is 0 (R257). -/
def powerFactor (p sva : Int) : Int := if sva = 0 then 0 else p * 2 ^ 40 / sva

/-- Values put in place. -/
def FeederState.putVals (v : FeederState) (l : List (Nat × Nat × Int)) : FeederState :=
  { v with vals := l.foldl (fun m c => sput 0 m (256 * c.1 + c.2.1) (f32Of c.2.2)) v.vals }

/-- Nc while a feeder is unlocked, by the NOM in force (R252). -/
def FeederState.freeNc (v : FeederState) (f : Nat) : Nat := if v.calOf (R.MET_FCFG_NOM f) = 1 then 533 else 640

/-- The cycles of a block, by the NOM in force (R252). -/
def FeederState.perBlock (v : FeederState) (f : Nat) : Nat := if v.calOf (R.MET_FCFG_NOM f) = 1 then 12 else 10

/-- A cycle is good: the fundamental of L1, in secondary µV rms, is at or above VMIN and lies within 42 Hz to 70 Hz (R252). -/
def FeederState.goodCycle (v : FeederState) (f mHz fund : Nat) : Bool :=
  let u := gained (fxOf (v.calOf (R.MET_CAL_VGAIN_VGAIN f 0))) fund * fxOf (v.calOf (R.MET_FCFG_VTR_VTR f)) / 1000000
  decide (fxOf (v.calOf (R.MET_FCFG_VMIN_VMIN f)) ≤ u) && decide (42000 ≤ mHz) && decide (mHz ≤ 70000)

/-- The end of a cycle (R252, R255, R256, Table 10.4): its Nc, apparent energy over Nc samples, its values. -/
def FeederState.cycle (v : FeederState) (f mHz fund : Nat) : FeederState :=
  let good := v.goodCycle f mHz fund
  let latest := if mHz = 0 then v.ncLatest else (32000000 + mHz / 2) / mHz
  let nc := if v.locked then latest else v.nc
  let vtr := fxOf (v.calOf (R.MET_FCFG_VTR_VTR f))
  let ctr := fxOf (v.calOf (R.MET_FCFG_CTR_CTR f))
  let n := v.samples
  let vr := fun k => rmsPrimary (fxOf (v.calOf (R.MET_CAL_VRMSOS_VRMSOS f k))) vtr (rmsOf (v.sumV.getD k 0) n)
  let ir := fun k => rmsPrimary (fxOf (v.calOf (R.MET_CAL_IRMSOS_IRMSOS f k))) ctr (rmsOf (v.sumI.getD k 0) n)
  let light := fun k => decide (ir k < fxOf (v.calOf (R.MET_FCFG_ISTART_ISTART f)))
  let sk := fun k => fxMul (vr k) (ir k)
  let counted := (List.range 3).filter fun k => !light k
  let v := counted.foldl (fun v k => v.accrue k 6 (energyOf (sk k) nc)) v
  let v := v.accrue 4 6 (counted.foldl (fun a k => a + energyOf (sk k) nc) 0)
  let st := (counted.map sk).sum
  let v := v.putVals ([(0, 0xA0, vr 0), (1, 0xA0, vr 1), (2, 0xA0, vr 2), (3, 0xA0, vr 3),
    (0, 0xA1, ir 0), (1, 0xA1, ir 1), (2, 0xA1, ir 2), (3, 0xA1, ir 3),
    (4, 0xA2, (mHz : Int) * 2 ^ 40 / 1000)] ++
    ((List.range 3).map fun k => (k, 0xA3, powerFactor (v.p.getD k 0) (sk k))) ++
    ((List.range 3).map fun k => (k, 0xA6, v.p.getD k 0)) ++ ((List.range 3).map fun k => (k, 0xA7, v.q.getD k 0)) ++
    ((List.range 3).map fun k => (k, 0xA8, sk k)) ++
    [(4, 0xA3, powerFactor (v.p.getD 3 0) st), (4, 0xA6, v.p.getD 3 0), (4, 0xA7, v.q.getD 3 0), (4, 0xA8, st)])
  { v with nc := nc
           ncLatest := latest
           goodCycles := if good then min 50 (v.goodCycles + 1) else 0
           blockCycles := v.blockCycles + 1
           noLoad := (List.range 3).map light
           clip := v.clipNow, clipNow := 0
           sumV := [0, 0, 0, 0], sumI := [0, 0, 0, 0], samples := 0 }

/-- FEEDER_CYCLE (R252, R255, R256). -/
def execFeederCycle (f : Feeder) (cycle : CycleData) (s : State) : Res :=
  if s.metering f then .next (s.setFeeder f ((s.feeder f).cycle f cycle.mHz.toNat cycle.fund.toNat)) else .next s

/-- The groups of one phase and order. -/
def groupAt (l : List HarmGroup) (k h : Nat) : Option HarmGroup := l.find? fun g => g.phase.val == k && g.order.toNat == h

/-- Fundamental or harmonic energy of one order (R256): numbers 7 and 8 for order 1, else 0x10 + h and 0x50 + h. -/
def FeederState.harm (v : FeederState) (k h : Nat) (p : Int) : FeederState :=
  let num := if h = 1 then if 0 ≤ p then 7 else 8 else if 0 ≤ p then 0x10 + h else 0x50 + h
  v.accrue k num (energyOf p v.blockLen)

/-- THD from a fundamental and the sum of the squares of orders 2 to 50 (R257), as an f32; none where the fundamental is 0
and no value is stated. -/
def thdOf (one sq : Nat) : Option Nat := if one = 0 then none else some (f32Of ((isqrt (sq * 2 ^ 80) : Nat) / (one : Int)))

/-- THD values of a phase; where the fundamental is 0 the value is free (log entry 1). -/
def State.thd (s : State) (f k num : Nat) (r : Option Nat) : State :=
  let d := s.feeder f
  match r with
  | some x => s.setFeeder f { d with vals := sput 0 d.vals (256 * k + num) x }
  | none => (s.setFeeder f { d with vals := sput 0 d.vals (256 * k + num) (s.freeVal % 2 ^ 32) }).useFree

/-- FEEDER_BLOCK (R252, R256): a block of 10 or 12 cycles ends; fundamental and harmonic energy accrue while the feeder is locked
(Table 10.5); THD is updated (DESIGN CHOICE, log entry 24). -/
def execFeederBlock (f : Feeder) (groups : List HarmGroup) (s : State) : Res :=
  if s.metering f && decide ((s.feeder f).perBlock f ≤ (s.feeder f).blockCycles) then
    let d := s.feeder f
    let ratio := fxMul (fxOf (d.calOf (R.MET_FCFG_VTR_VTR f))) (fxOf (d.calOf (R.MET_FCFG_CTR_CTR f)))
    let pw := fun k h => match groupAt groups k h with
      | some g => g.power * ratio / 1000000
      | none => 0
    let d := if d.locked then
        (List.range 50).foldl (fun d h =>
          let d := (List.range 3).foldl (fun d k => d.harm k (h + 1) (pw k (h + 1))) d
          d.harm 4 (h + 1) (pw 0 (h + 1) + pw 1 (h + 1) + pw 2 (h + 1))) d
      else d
    let s := s.setFeeder f { d with blockLen := 0, blockCycles := 0 }
    let sq := fun k (g : HarmGroup → Nat) => (groups.filter fun x => x.phase.val == k && decide (2 ≤ x.order.toNat) &&
      decide (x.order.toNat ≤ 50)).foldl (fun a x => a + g x ^ 2) 0
    let one := fun k (g : HarmGroup → Nat) => ((groupAt groups k 1).map g).getD 0
    .next ((List.range 3).foldl (fun s k =>
      (s.thd f k 0xA4 (thdOf (one k fun g => g.volts.toNat) (sq k fun g => g.volts.toNat))).thd f k 0xA5
        (thdOf (one k fun g => g.amps.toNat) (sq k fun g => g.amps.toNat))) s)
  else .next s

/-- FEEDER_UNLOCK (R252): three half-periods in a row were not good; the slice's status brings it (R260). -/
def execFeederUnlock (f : Feeder) (s : State) : Res :=
  let d := s.feeder f
  if s.metering f && d.locked then .next (s.setFeeder f { d with locked := false, nc := d.freeNc f, goodCycles := 0 })
  else .next s

/-- FEEDER_LOCK (R252): after 50 good cycles in a row; Nc is that of the latest cycle, and the windows fill anew from here (R253). -/
def execFeederLock (f : Feeder) (s : State) : Res :=
  let d := s.feeder f
  if s.metering f && !d.locked && d.goodCycles == 50 then
    .next (s.setFeeder f { d with locked := true, nc := d.ncLatest, winP := [[], [], []], winQ := [[], [], []] })
  else .next s

/-- ROTATION_SNAPSHOT (R250, R252, R259): SEQ steps, the set is taken, ratios, trims and NOM come into force. -/
def execRotationSnapshot (f : Feeder) (s : State) : Res :=
  if s.metering f then
    let d := { s.feeder f with cal := s.calNow f }
    .next (s.setFeeder f { d with seq := (d.seq + 1) % 65536, setAcc := d.acc, setVals := d.vals, setHold := d.holdover
                                  nc := if d.locked then d.nc else d.freeNc f })
  else .next s

/-- A metering slice that measures writes its accumulators to its own memory (R265). -/
def State.saveAcc (s : State) (f : Nat) : State :=
  let d := s.feeder f
  if s.metering f then s.setFeeder f { d with savedOld := d.saved, saved := d.acc } else s

/-- ACCUMULATOR_SAVE (R265). -/
def execAccumulatorSave (f : Feeder) (s : State) : Res := .next (s.saveAcc f)

/-! ### Quantities -/

/-- The numbers of the energy quantities (Table 10.4). -/
def energyNums : List Nat :=
  List.range 9 ++ (List.range 49).map (· + 0x12) ++ (List.range 49).map (· + 0x52)

/-- The phases that an energy quantity allows. -/
def energyPhases : List Nat := [0, 1, 2, 4]

/-- The phases that a value quantity allows; an empty list where the number names no value (Table 10.4). -/
def valuePhases (num : Nat) : List Nat :=
  match num - 0xA0, decide (0xA0 ≤ num) with
  | 0, true => [0, 1, 2, 3]
  | 1, true => [0, 1, 2, 3]
  | 2, true => [4]
  | 3, true => [0, 1, 2, 4]
  | 4, true => [0, 1, 2]
  | 5, true => [0, 1, 2]
  | 6, true => [0, 1, 2, 4]
  | 7, true => [0, 1, 2, 4]
  | 8, true => [0, 1, 2, 4]
  | _, _ => []

/-- Feeder, phase and number of a quantity code (R257). -/
def qtyFeeder (c : Nat) : Nat := c / 4096
/-- The phase of a quantity code. -/
def qtyPhase (c : Nat) : Nat := c / 256 % 16
/-- The number of a quantity code. -/
def qtyNum (c : Nat) : Nat := c % 256

/-- A code names an energy quantity. -/
def isEnergy (c : Nat) : Bool :=
  decide (qtyFeeder c < 2) && energyPhases.contains (qtyPhase c) && energyNums.contains (qtyNum c)

/-- A code names a value quantity. -/
def isValue (c : Nat) : Bool := decide (qtyFeeder c < 2) && (valuePhases (qtyNum c)).contains (qtyPhase c)

/-- The voltage channels and current channels that a quantity uses, as bits of L1, L2, L3, N (V) and above them (I). -/
def qtyChans (k num : Nat) : Nat :=
  if num = 0xA2 then 1
  else if num = 0xA0 || num = 0xA4 then 2 ^ k
  else if num = 0xA1 || num = 0xA5 then 2 ^ (4 + k)
  else if k = 4 then 0x77 else 2 ^ k + 2 ^ (4 + k)

/-- Q_FAULT and Q_RANGE of a quantity (Table 10.5), as QUAL bits. -/
def State.metQual (s : State) (c : Nat) : Nat :=
  let f := qtyFeeder c
  let num := qtyNum c
  let clip := s.rd (R.MET_FSTAT_VCLIP f) + s.rd (R.MET_FSTAT_ICLIP f) * 16
  let gone := !s.on (R.MET_FSTAT_PRESENT f)
  let needsLock := num = 0xA2 || num = 0xA3 || num = 0xA4 || num = 0xA5 || (decide (7 ≤ num) && decide (num < 0xA0))
  let fault := gone || (needsLock && !s.on (R.MET_FSTAT_LOCK f))
  let range := clip &&& qtyChans (qtyPhase c) num != 0 || (decide (num < 0xA0) && s.on (R.MET_FSTAT_HOLDOVER f))
  b2n range * 4 + b2n fault * 8

/-- MET_FSTAT.PRESENT follows the slice and the ring. -/
def State.showMetPresent (s : State) : State :=
  [0, 1].foldl (fun s f => s.wrB (R.MET_FSTAT_PRESENT f) (s.present (4 + f) && !s.on R.SLR_RING_BROKEN)) s

/-! ### Publication (R261, R262, R268) -/

/-- The points bound to metering quantities of feeder `f` (R262). -/
def State.metPoints (s : State) (f : Nat) : List PointDecl :=
  match s.img with
  | some im => im.points.filter fun p => p.flags / 16 == 4 && qtyFeeder p.bind == f
  | none => []

/-- A live copy written by its source: the next latch takes it (R85, R90). -/
def State.putLive (s : State) (p v : Nat) : State :=
  { s with tsk := { s.tsk with live := sput 0 s.tsk.live p v
                               liveQ := sput 0 s.tsk.liveQ p 256
                               fresh := sput 0 s.tsk.fresh p 1 } }

/-- The energy word of the set for a quantity (R259). -/
def State.energyWord (s : State) (f k num : Nat) : Nat :=
  s.rd (R.MET_ENERGY_VALUE f k num) + s.rd (R.MET_ENERGY_WRAP f k num) * 2 ^ 40 + s.rd (R.MET_ENERGY_SEQ f k num) * 2 ^ 48

/-- An accumulator's word put into its register (R259). -/
def State.putWord (s : State) (f seq k num a : Nat) : State :=
  let u := a / 2 ^ 40 / 1000
  ((s.wr (R.MET_ENERGY_VALUE f k num) u).wr (R.MET_ENERGY_WRAP f k num) (u / 2 ^ 40)).wr (R.MET_ENERGY_SEQ f k num) seq

/-- One pulse channel at a publication (R268): the loop of the rule in closed form. -/
def State.pulseAccount (s : State) (n word : Nat) : State :=
  let v := sget ({} : PulseState) s.met.pulses n
  let wt := s.rd (R.MET_PCFG_WT_WT n)
  let w := word % 2 ^ 48
  let d := match v.last with
    | some l => (w + 2 ^ 48 - l) % 2 ^ 48
    | none => 0
  let spill := v.spill + d
  let steps := spill / wt
  let pend := s.rd (R.MET_PENDING_PENDING n)
  let add := min steps (min (2 ^ 32 - 1) (2 ^ 32 / wt) - pend)
  let pulses := sput {} s.met.pulses n { spill := spill % wt, last := some w }
  let s := { s with met := { s.met with pulses := pulses } }
  let s := s.wr (R.MET_PENDING_PENDING n) (pend + add)
  if add < steps then
    let s := s.incSat (R.MET_LOST_LOST n) (steps - add)
    let s := s.reportMet 0x0803 0xF
    if s.on (R.MET_PSTAT_BACKLOG n) then s else (s.wr (R.MET_PSTAT_BACKLOG n) 1).raise 68
  else s

/-- A pulse channel is enabled (a weight of 0 disables it). -/
def State.pulseOn (s : State) (n : Nat) : Bool := s.on (R.MET_PCFG_EN n) && s.rd (R.MET_PCFG_WT_WT n) != 0

/-- SET_PUBLISH: all words, all values and SEQ of the feeder change, live copies are written, pulses are accounted and
line 64 + f rises (R261, R262, R268). -/
def State.publish (s : State) (f : Nat) : State :=
  let d := s.feeder f
  let s := energyPhases.foldl (fun s k => energyNums.foldl (fun s num =>
    s.putWord f d.seq k num (sget 0 d.setAcc (256 * k + num))) s) s
  let s := (List.range 9).foldl (fun s i => (valuePhases (0xA0 + i)).foldl (fun s k =>
    s.wr (R.MET_VALUE_VALUE f k i) (sget 0 d.setVals (256 * k + 0xA0 + i))) s) s
  let s := s.wr (R.MET_FSTAT_SEQ f) d.seq
  let was := s.on (R.MET_FSTAT_HOLDOVER f)
  let s := s.wrB (R.MET_FSTAT_HOLDOVER f) d.setHold
  let s := if was = d.setHold then s else s.raise (66 + f)
  let s := s.wr (if f = 0 then R.MET_STAT_PUBE else R.MET_STAT_PUBF) 1
  let s := (s.metPoints f).foldl (fun s p =>
    let c := p.bind
    if isEnergy c then s.putLive p.point (s.energyWord f (qtyPhase c) (qtyNum c))
    else if c % 4096 = 0x4A6 then s
    else if isValue c then s.putLive p.point (s.rd (R.MET_VALUE_VALUE f (qtyPhase c) (qtyNum c - 0xA0))) else s) s
  let s := (List.range 8).foldl (fun s n =>
    let c := s.rd (R.MET_PCFG_QTY n)
    if s.pulseOn n && isEnergy c && qtyFeeder c == f then s.pulseAccount n (s.energyWord f (qtyPhase c) (qtyNum c)) else s) s
  s.raise (64 + f)

/-- What a metering slice puts into its section at T_f: total P and its status (R260). -/
def State.meterSample (s : State) (f : Nat) : State :=
  let d := s.feeder f
  if s.metering f then s.setFeeder f { d with sentP := f32Of (d.p.getD 3 0), sentLock := d.locked, sentClip := d.clip } else s

/-- The feeder status of a section (R260, R265, R271): a change of LOCK or of a clip flag raises line 66 + f; an unlock reports
0x0801, a new clip flag 0x0802; a loss of energy sets LOSS with 0x0806 and line 69, a failed restore reports 0x0805 with line 69. -/
def State.meterStatus (s : State) (f : Nat) : State :=
  let d := s.feeder f
  let clip := s.rd (R.MET_FSTAT_VCLIP f) + s.rd (R.MET_FSTAT_ICLIP f) * 16
  let was := s.on (R.MET_FSTAT_LOCK f)
  let t := (s.wr (R.MET_FSTAT_VCLIP f) (d.sentClip % 16)).wr (R.MET_FSTAT_ICLIP f) (d.sentClip / 16)
  let t := t.wrB (R.MET_FSTAT_LOCK f) d.sentLock
  let t := if was && !d.sentLock then t.reportMet 0x0801 f else t
  let t := if d.sentClip &&& (255 - clip) = 0 then t else t.reportMet 0x0802 f
  let t := if d.sentClip = clip && d.sentLock = was then t else t.raise (66 + f)
  let t := if bitOf d.report 1 then (t.reportMet 0x0805 f).raise 69 else t
  let t := if bitOf d.report 0 then ((t.wr (R.MET_FSTAT_LOSS f) 1).reportMet 0x0806 f).raise 69 else t
  if d.report = 0 then t else t.setFeeder f { d with report := 0 }

/-- The fast value of total P, every frame (R260, R262). -/
def State.fastValue (s : State) (f : Nat) : State :=
  let p := (s.feeder f).sentP
  let s := s.wr (R.MET_FASTP_FASTP f) p
  (s.metPoints f).foldl (fun s q => if q.bind % 4096 = 0x4A6 then s.putLive q.point p else s) s

/-- What MET takes from the returned frame number `fr` of feeder `f` (R260, R261): the status and the fast value from a good frame
with the slice's section, and a part of the set; the last part of a set that arrived whole publishes it. -/
def State.metFrame (s : State) (f fr : Nat) (ok : Bool) : State :=
  if !s.domOn 15 then s
  else
    let s := if ok then (s.meterStatus f).fastValue f else s
    let r := fr % 400
    if 154 < r then s
    else
      let whole := ok && (r = 0 || sget 0 s.met.setGood f = 1)
      let s := { s with met := { s.met with setGood := sput 0 s.met.setGood f (b2n whole) } }
      if r = 154 && whole then s.publish f else s

/-! ### Pulses -/

/-- S0_n is closed (R267): a pulse of channel 0 to 3 is in progress; it is open while the MET domain is off, before the first
set and while the channel is disabled. -/
def State.s0Closed (s : State) (n : Fin 4) : Bool :=
  s.domOn 15 && (s.on R.MET_STAT_PUBE || s.on R.MET_STAT_PUBF) && s.pulseOn n && s.on (R.MET_PSTAT_ACTIVE n)

/-- A pulse channel may start a pulse now (R267 to R269): MET has published, the channel is enabled and owes one; on a DO,
its slice is present and not in safe state. -/
def State.pulseReady (s : State) (n : Nat) : Bool :=
  let dst := s.rd (R.MET_PCFG_W_DO n)
  s.domOn 15 && s.pulseOn n && (s.on R.MET_STAT_PUBE || s.on R.MET_STAT_PUBF) && s.rd (R.MET_PENDING_PENDING n) != 0 &&
    !s.on (R.MET_PSTAT_ACTIVE n) &&
    (decide (n < 4) || decide (32 ≤ dst) || (s.present (dst / 8) && !(s.sliceOf (dst / 8)).safe))

/-- PULSE_START (R268). -/
def execPulseStart (ch : Fin 8) (s : State) : Res :=
  if s.pulseReady ch then
    .next (((s.wr (R.MET_PSTAT_ACTIVE ch) 1).wr (R.MET_PENDING_PENDING ch)
      (s.rd (R.MET_PENDING_PENDING ch) - 1)).inc (R.MET_EMITTED_EMITTED ch))
  else .next s

/-- PULSE_END (R268). -/
def execPulseEnd (ch : Fin 8) (s : State) : Res := .next (s.wr (R.MET_PSTAT_ACTIVE ch) 0)

end Sys2Proof.Machine
end

