-- ==== Sys2Proof/Machine/Image.lean ====
section
/-! DEFINITION. A program image: its sections (R165, Tables 7.1 to 7.5), the records of its sections, and the checks 1 to 5
of Table 7.6. The layouts of SLOTS and SLICECFG and the BIND of an on-module point are the model's own (DESIGN CHOICE, log
entry 20): the spec names the contents and not the bytes. -/

namespace Sys2Proof.Machine

/-- `n` bytes of a byte string from offset `a`; short where the string ends. -/
def bytesAt (bs : List (BitVec 8)) (a n : Nat) : List (BitVec 8) := (bs.drop a).take n

/-- The `n`-byte little-endian number at offset `a` of a byte string. -/
def numAt (bs : List (BitVec 8)) (a n : Nat) : Nat := leNat (bytesAt bs a n)

/-- Every byte is 0. -/
def allZero (bs : List (BitVec 8)) : Bool := bs.all fun b => b == 0

/-- A byte string cut into records of `n` bytes; a last part shorter than `n` is dropped. -/
def records (n : Nat) (bs : List (BitVec 8)) : List (List (BitVec 8)) :=
  (List.range (bs.length / n)).map fun i => bytesAt bs (n * i) n

/-- A section table entry with its contents (Table 7.2). -/
structure Section where
  ty : Nat
  off : Nat
  target : Nat
  bytes : List (BitVec 8)
  deriving DecidableEq, Repr

/-- Why an image is refused (R168): the fault, the index of the section concerned or 0xFF, the byte offset within it, and
the admission report where Table 3.4 refuses. -/
structure LoadErr where
  fault : Nat
  sect : Nat := 0xFF
  ofs : Nat := 0
  report : List (BitVec 8) := []
  deriving DecidableEq, Repr

/-- The sections of an image. -/
def sectionsOf (img : List (BitVec 8)) : List Section :=
  (List.range (numAt img 0x14 2)).map fun i =>
    let e := bytesAt img (0x80 + 24 * i) 24
    { ty := numAt e 0 2, off := numAt e 4 4, target := numAt e 0x10 8
      bytes := bytesAt img (numAt e 4 4) (numAt e 8 4) }

/-- The index of the first section of a type, or 0xFF. -/
def sectIndex (ss : List Section) (ty : Nat) : Nat :=
  match ss.findIdx? fun x => x.ty == ty with
  | some i => i
  | none => 0xFF

/-- The contents of the first section of a type; empty where there is none. -/
def sectBytes (ss : List Section) (ty : Nat) : List (BitVec 8) :=
  match ss.find? fun x => x.ty == ty with
  | some x => x.bytes
  | none => []

/-! ### Records -/

/-- An instance record (Table 7.3). -/
def instOf (r : List (BitVec 8)) : InstRec :=
  { addr := numAt r 0 8, desc := numAt r 8 4, initOff := numAt r 0xC 4, initLen := numAt r 0x10 4, flags := numAt r 0x14 4 }

/-- A task record (Table 7.4). -/
def taskOf (r : List (BitVec 8)) : TaskRec :=
  { w0 := numAt r 0 4, commit := numAt r 4 4, ofs := numAt r 8 4, entry := numAt r 0x10 4, wclaim := numAt r 0x14 4
    inst := numAt r 0x18 8, stack := numAt r 0x20 8, wbase := numAt r 0x28 8, stackSz := numAt r 0x30 4
    wsize := numAt r 0x34 4, lines := numAt r 0x38 4 }

/-- EN of a task record. -/
def TaskRec.en (t : TaskRec) : Bool := bitOf t.w0 0

/-- LENIENT of a task record. -/
def TaskRec.lenient (t : TaskRec) : Bool := bitOf t.w0 1

/-- NOTE of a task record. -/
def TaskRec.note (t : TaskRec) : Nat := slice 3 2 t.w0

/-- ENG of a task record. -/
def TaskRec.eng (t : TaskRec) : Nat := slice 5 4 t.w0

/-- PERIOD of a task record. -/
def TaskRec.period (t : TaskRec) : Nat := slice 29 16 t.w0

/-- A point declaration (Table 7.5). -/
def pointOf (r : List (BitVec 8)) : PointDecl :=
  { point := numAt r 0 2, ty := numAt r 2 1, flags := numAt r 3 1, tenant := numAt r 4 1, wkind := numAt r 5 1
    who := numAt r 6 2, stale := numAt r 8 4, bind := numAt r 0xC 4 }

/-- SRC of a declaration. -/
def PointDecl.src (p : PointDecl) : Nat := p.flags / 16

/-- OUT of a declaration. -/
def PointDecl.out (p : PointDecl) : Bool := bitOf p.flags 0

/-- A slot claim in the model's own layout: SLOT (2 bytes), DOMAIN, ACTION and TARGET (1 byte each), 3 bytes of 0, and LO,
HI, CLO and CHI (4 bytes each) (DESIGN CHOICE, log entry 20). -/
def slotOf (r : List (BitVec 8)) : SlotClaim :=
  { slot := numAt r 0 2, shaft := numAt r 2 1 != 0, action := numAt r 3 1, slice := numAt r 4 1 / 32
    chan := numAt r 4 1 % 32, lo := numAt r 8 4, hi := numAt r 0xC 4, clo := numAt r 0x10 4, chi := numAt r 0x14 4 }

/-- The loop records of a LOOPS section (R207): taken in order until the offset of the next equals the lowest COEFOFF read;
`fuel` bounds them. Each is the sixteen words of Table 8.5. -/
def loopRecs (bs : List (BitVec 8)) : Nat → Nat → Nat → List (List Nat)
  | 0, _, _ => []
  | fuel + 1, i, low =>
    if 64 * i + 64 > bs.length || low = 64 * i then []
    else
      let ws := (List.range 16).map fun k => numAt bs (64 * i + 4 * k) 4
      ws :: loopRecs bs fuel (i + 1) (min low (ws.getD 12 0))

/-- The records of a LOOPS section. -/
def loopsOf (bs : List (BitVec 8)) : List (List Nat) := loopRecs bs 257 0 (2 ^ 32)

/-- The lowest COEFOFF of the records breaks R207, or the records do not fill the section up to it. -/
def loopsMalformed (bs : List (BitVec 8)) : Bool :=
  let rs := loopsOf bs
  let low := rs.foldl (fun m r => min m (r.getD 12 0)) (2 ^ 32)
  !bs.isEmpty && (low = 0 || low % 64 != 0 || decide (bs.length < low) || low != 64 * rs.length)

/-- The register writes of a SLICECFG section in the model's own layout: entries of 16 bytes with the register's offset in
register space (4 bytes), 4 bytes of 0, and the value (8 bytes) (DESIGN CHOICE, log entry 20). -/
def cfgWrites (bs : List (BitVec 8)) : List (Nat × Nat) := (records 16 bs).map fun r => (numAt r 0 4, numAt r 8 8)

/-- An image taken apart (R165). -/
def parseImage (img : List (BitVec 8)) : Image :=
  let ss := sectionsOf img
  let pool := ss.find? fun x => x.ty == 2
  { profile := numAt img 6 2
    imageId := numAt img 8 8
    rlayout := numAt img 0x18 8
    code := ((ss.filter fun x => x.ty == 1 || x.ty == 2).map fun x => (x.target, x.bytes))
    poolBase := match pool with
      | some x => x.target
      | none => 0
    poolBytes := sectBytes ss 2
    types := (records 4 (sectBytes ss 3)).map leNat
    insts := (records 24 (sectBytes ss 4)).map instOf
    init := sectBytes ss 5
    tasks := (records 64 (sectBytes ss 6)).map taskOf
    points := (records 16 (sectBytes ss 7)).map pointOf
    loops := loopsOf (sectBytes ss 8)
    loopBytes := sectBytes ss 8
    slots := (records 24 (sectBytes ss 9)).map slotOf
    slicecfg := sectBytes ss 10
    tally := records 72 (sectBytes ss 11)
    evsub := (records 8 (sectBytes ss 12)).map leNat }

/-! ### The code store as the image gives it -/

/-- The code store of an image: CODE and POOL at their targets, every other byte 0 (R169, step 2). -/
def Image.codeMem (im : Image) : Sparse (BitVec 8) := im.code.foldl (fun m c => writeBytes m c.1 c.2) []

/-- The `n` bytes at `a` lie wholly inside one CODE section. -/
def inSection (ss : List Section) (a n : Nat) : Bool :=
  ss.any fun x => x.ty == 1 && decide (x.target ≤ a) && decide (a + n ≤ x.target + x.bytes.length)

/-- An address is a target list (R129): 4-aligned, a count of 1 or more, and as many addresses listed in TYPES, all inside
one CODE section. -/
def targetList (ss : List Section) (cm : Sparse (BitVec 8)) (types : List Nat) (a : Nat) : Bool :=
  let n := readLE cm a 4
  a % 4 == 0 && inSection ss a 4 && n != 0 && inSection ss a (4 + 4 * n) &&
    (List.range n).all fun i => types.contains (readLE cm (a + 4 + 4 * i) 4)

/-- The addresses of a target list. -/
def targetsOf (cm : Sparse (BitVec 8)) (a : Nat) : List Nat :=
  (List.range (readLE cm a 4)).map fun i => readLE cm (a + 4 + 4 * i) 4

/-- A TYPES entry names a valid descriptor (R126). -/
def validDesc (ss : List Section) (cm : Sparse (BitVec 8)) (types : List Nat) (a : Nat) : Bool :=
  let size := readLE cm (a + 4) 4
  let tg := readLE cm (a + 0x14) 4
  a % 8 == 0 && inSection ss a 32 && readLE cm a 2 != 0 &&
    size % 8 == 0 && decide (16 ≤ size) && decide (size ≤ 16777216) &&
    inSection ss (readLE cm (a + 8) 4) 1 && readLE cm (a + 0xC) 4 % 8 == 0 &&
    (tg == 0 || targetList ss cm types tg) && allZero (readBytes cm (a + 0x18) 8)

/-- RLAYOUT as R166 computes it. -/
def rlayoutOf (cm : Sparse (BitVec 8)) (insts : List InstRec) : Nat :=
  let kept : Sparse InstRec := (insts.filter fun i => bitOf i.flags 0).foldl (fun m i => sins m i.addr i) []
  leNat ((sha256 ((kept.map fun c => toLE 8 c.1 ++ readBytes cm c.2.desc 8).flatten)).take 8)

/-! ### Check 1: structure (0x0412) -/

/-- A failure in section `i`. -/
def errAt (fault i ofs : Nat) : Option LoadErr := some { fault := fault, sect := i, ofs := ofs }

/-- The first failure of a list of checks. -/
def firstErr : List (Option LoadErr) → Option LoadErr
  | [] => none
  | none :: t => firstErr t
  | some e :: _ => some e

/-- A check: none where it holds. -/
def need (ok : Bool) (fault i ofs : Nat) : Option LoadErr := if ok then none else errAt fault i ofs

/-- Two ranges given by start and length share no byte. -/
def apart (a n b m : Nat) : Bool := n == 0 || m == 0 || decide (a + n ≤ b) || decide (b + m ≤ a)

/-- The members of a list are apart pairwise, by a relation. -/
def pairwise {α : Type} (r : α → α → Bool) : List α → Bool
  | [] => true
  | a :: t => t.all (r a) && pairwise r t

/-- The first member, after another, that is not apart from one before it, by its place in the list. -/
def firstClash {α : Type} (r : α → α → Bool) (l : List α) : Option Nat :=
  (List.range l.length).find? fun k =>
    match l[k]? with
    | some b => !(l.take k).all fun a => r a b
    | none => false

/-- The members of a list are apart pairwise: else the failure is in section `i` at the record, `size` bytes long, that clashes with
one before it. -/
def needApart {α : Type} (r : α → α → Bool) (l : List α) (fault i size : Nat) : Option LoadErr :=
  (firstClash r l).bind fun k => errAt fault i (size * k)

/-- How many sections of a type stand in the image, and whether Table 7.2 allows it. -/
def countOk (ss : List Section) (ty : Nat) : Bool :=
  let n := (ss.filter fun x => x.ty == ty).length
  if ty = 1 then decide (1 ≤ n) else if [5, 8, 9, 10, 11].contains ty then decide (n ≤ 1) else n == 1

/-- The length of a section fits its records. -/
def lengthOk (x : Section) : Bool :=
  let n := x.bytes.length
  match x.ty with
  | 3 => n % 4 == 0
  | 4 => n % 24 == 0
  | 6 => n == 2048
  | 7 => n % 16 == 0
  | 9 => n % 24 == 0
  | 10 => n % 16 == 0
  | 11 => n % 72 == 0
  | 12 => n == 64
  | _ => true

/-- A finite f32 pattern. -/
def finite32 (v : Nat) : Bool :=
  match f32.unpack v with
  | .num _ _ _ => true
  | _ => false

/-- `a < b` as f32. -/
def lt32 (a b : Nat) : Bool := (f32.unpack a).cmp (f32.unpack b) == some .lt

/-- `lo ≤ a ≤ hi` as f32. -/
def within32 (lo hi a : Nat) : Bool := finite32 a && !lt32 a lo && !lt32 hi a

/-- The 15 edges of a tally definition. -/
def edgesOf (r : List (BitVec 8)) : List Nat := (records 4 (bytesAt r 8 60)).map leNat

/-- The members of a list rise strictly, by a relation. -/
def rising (r : Nat → Nat → Bool) : List Nat → Bool
  | a :: b :: t => r a b && rising r (b :: t)
  | _ => true

/-- A tally definition breaks none of R386's rules on its own. -/
def tallyOk (r : List (BitVec 8)) : Bool :=
  let code := numAt r 0 2
  let kind := numAt r 2 1
  decide (0x100 ≤ code) && decide (code ≤ 0x3FF) && decide (kind ≤ 2) && numAt r 3 1 == 0 && numAt r 6 2 == 0 &&
    numAt r 0x44 4 == 0 &&
    (if kind = 1 then allZero (bytesAt r 8 60) else (edgesOf r).all finite32 && rising lt32 (edgesOf r))

/-- A configuration field of SLR or MET: one with access RWL (R246, R272). -/
def isCfgField (f : FieldSpec) : Bool := f.acc == .RWL

/-- An address lies in the SLR or the MET block. -/
def inCfgBlock (a : Nat) : Bool := decide (0x10090000 ≤ a) && decide (a < 0x100B0000)

/-- A SLICECFG entry names a configuration register of SLR or MET. -/
def cfgNames (o : Nat) : Bool :=
  inCfgBlock (0x10000000 + o) &&
    match regAt (0x10000000 + o) with
    | some r => r.fields.any isCfgField
    | none => false

/-- The fields of a register written that the predicate admits. -/
def State.putFields (s : State) (a : Nat) (fs : List FieldSpec) (v : Nat) : State :=
  fs.foldl (fun s f => s.wr (f.fld a) (v / 2 ^ f.lo)) s

/-- One SLICECFG entry applied. -/
def State.cfgPut (s : State) (w : Nat × Nat) : State :=
  match regAt (0x10000000 + w.1) with
  | some r => s.putFields (0x10000000 + w.1) (r.fields.filter isCfgField) w.2
  | none => s

/-- A register key that belongs to a configuration field of SLR or MET. -/
def isCfgKey (k : Nat) : Bool :=
  inCfgBlock (k / 64) &&
    match regAt (k / 64) with
    | some r => r.fields.any fun f => isCfgField f && f.lo == k % 64
    | none => false

/-- The default of a feeder's no-load threshold: 0.1 % of INOM * CTR (R255), in f32, the product divided by 1,000. -/
def State.defaultStart (s : State) (f : Nat) : State :=
  let inom := if s.on (R.MET_FCFG_INOM f) then 0x40A00000 else 0x3F800000
  s.wr (R.MET_FCFG_ISTART_ISTART f) (f32.div (f32.mul inom (s.rd (R.MET_FCFG_CTR_CTR f))) 0x447A0000)

/-- The configuration registers that SLICECFG entries give: those that they do not name take their reset values, and the no-load
thresholds the default of R255. -/
def State.putCfg (s : State) (w : List (Nat × Nat)) : State :=
  [0, 1].foldl (fun s f => if w.any fun c => c.1 == 0xA0110 + 0x40 * f then s else s.defaultStart f)
    (w.foldl State.cfgPut { s with regs := s.regs.filter fun c => !isCfgKey c.1 })

/-- The channel settings of an image written (R169, step 3), by its SLICECFG section; without one they stand. -/
def State.applyCfg (s : State) (im : Image) : State :=
  if im.slicecfg.isEmpty then s
  else s.putCfg (cfgWrites im.slicecfg)

/-- VTR * CTR is at most 8,000 (R248). -/
def ratioOk (v c : Nat) : Bool :=
  match f32.unpack v, f32.unpack c with
  | .num _ m e, .num _ n g => (FVal.num false (m * n) (e + g)).cmp (.num false 8000 0) != some .gt
  | _, _ => false

/-- The ratios and trims of feeder `f` keep R248 and Table 10.2: f32 1.0 to 100.0 and 1.0 to 10,000.0, gains 0.9 to 1.1,
offsets to 1.0 V, 0.01 A, 1.0 W and 1.0 var. -/
def State.feederCfgOk (s : State) (f : Nat) : Bool :=
  let v := s.rd (R.MET_FCFG_VTR_VTR f)
  let c := s.rd (R.MET_FCFG_CTR_CTR f)
  let gain := within32 0x3F666666 0x3F8CCCCD
  within32 0x3F800000 0x42C80000 v && within32 0x3F800000 0x461C4000 c && ratioOk v c &&
    (List.range 4).all fun k =>
      gain (s.rd (R.MET_CAL_VGAIN_VGAIN f k)) && gain (s.rd (R.MET_CAL_IGAIN_IGAIN f k)) &&
        gain (s.rd (R.MET_CAL_PGAIN_PGAIN f k)) && gain (s.rd (R.MET_CAL_Q_QGAIN f k) * 65536) &&
        within32 0xBF800000 0x3F800000 (s.rd (R.MET_CAL_VRMSOS_VRMSOS f k)) &&
        within32 0xBC23D70A 0x3C23D70A (s.rd (R.MET_CAL_IRMSOS_IRMSOS f k)) &&
        within32 0xBF800000 0x3F800000 (s.rd (R.MET_CAL_POS_POS f k)) &&
        decide ((toSigned 16 (s.rd (R.MET_CAL_Q_QOS f k))).natAbs ≤ 1000)

/-- The declared PWM periods lie in 1,000 to 60,000,000 µs (R237). -/
def State.periodsOk (s : State) : Bool :=
  (List.range 4).all fun sl => (List.range 8).all fun ch =>
    let p := s.rd (R.SLR_DOCFG_PER_PWMPER sl ch)
    decide (1000 ≤ p) && decide (p ≤ 60000000)

/-- The channel settings that a list of SLICECFG entries gives keep R237 and R248. -/
def State.cfgOk (s : State) (w : List (Nat × Nat)) : Bool :=
  let c := s.putCfg w
  c.periodsOk && c.feederCfgOk 0 && c.feederCfgOk 1

/-- The image with its DIGEST field at 0 (Table 7.1). -/
def undigested (img : List (BitVec 8)) : List (BitVec 8) := img.take 0x20 ++ zeros 32 ++ img.drop 0x40

/-- Check 1 of Table 7.6 on the image as a whole: header and digest. -/
def headerOk (img : List (BitVec 8)) : Bool :=
  decide (0x80 ≤ img.length) && numAt img 0 4 == 0x49505A4F && numAt img 4 2 == 1 && numAt img 0x10 4 == img.length &&
    decide (img.length ≤ 40 * 1048576) && decide (1 ≤ numAt img 0x14 2) && decide (numAt img 0x14 2 ≤ 32) &&
    allZero (bytesAt img 0x16 2) && allZero (bytesAt img 0x40 64) && decide (0x80 + 24 * numAt img 0x14 2 ≤ img.length)

/-- Check 1 on a section table entry. -/
def sectionErr (img : List (BitVec 8)) (i : Nat) : Option LoadErr :=
  let e := bytesAt img (0x80 + 24 * i) 24
  let ty := numAt e 0 2
  let off := numAt e 4 4
  let len := numAt e 8 4
  need (decide (1 ≤ ty) && decide (ty ≤ 12) && allZero (bytesAt e 2 2) && allZero (bytesAt e 12 4) &&
    (ty == 1 || ty == 2 || numAt e 0x10 8 == 0) && off % 8 == 0 && decide (0x80 + 24 * numAt img 0x14 2 ≤ off) &&
    decide (off + len ≤ img.length)) 0x0412 i 0

/-- Check 1 of Table 7.6 (R168, R237, R248, R386): the first failure. -/
def check1 (s : State) (img : List (BitVec 8)) : Option LoadErr :=
  if !headerOk img then errAt 0x0412 0xFF 0
  else
    let n := numAt img 0x14 2
    let ss := sectionsOf img
    let im := parseImage img
    let w := cfgWrites im.slicecfg
    firstErr <|
      (List.range n).map (sectionErr img) ++
      [(firstClash (fun a b => apart a.off a.bytes.length b.off b.bytes.length) ss).bind fun k => errAt 0x0412 k 0] ++
      (List.range 12).map (fun k => need (countOk ss (k + 1)) 0x0412 (sectIndex ss (k + 1)) 0) ++
      (List.range n).map (fun i => need (match ss[i]? with
        | some x => lengthOk x
        | none => false) 0x0412 i 0) ++
      (List.range 32).map (fun t =>
        let r := bytesAt (sectBytes ss 6) (64 * t) 64
        need (bitOf (numAt r 0 1) 0 || allZero r) 0x0412 (sectIndex ss 6) (64 * t)) ++
      (List.range im.tally.length).map (fun k =>
        need (tallyOk (im.tally.getD k [])) 0x0412 (sectIndex ss 11) (72 * k)) ++
      [needApart (fun a b => numAt a 0 2 != numAt b 0 2) im.tally 0x0412 (sectIndex ss 11) 72] ++
      (List.range w.length).map (fun k => need (cfgNames (w.getD k (0, 0)).1) 0x0412 (sectIndex ss 10) (16 * k)) ++
      [if im.slicecfg.isEmpty || s.cfgOk w then none
       else errAt 0x0412 (sectIndex ss 10) (16 * ((List.range w.length).find? fun k => !s.cfgOk (w.take (k + 1))).getD 0),
       need (sha256 (undigested img) == bytesAt img 0x20 32) 0x0412 0xFF 0x20]

/-! ### Checks 3 to 5 -/

/-- The store that an instance's RET flag names holds `n` bytes at `a`. -/
def inStore (retain : Bool) (a n : Nat) : Bool :=
  if retain then decide (0x3000000 ≤ a) && decide (a + n ≤ 0x3200000)
  else decide (0x1000000 ≤ a) && decide (a + n ≤ 0x2800000)

/-- Check 3 of Table 7.6 (0x0414): placement. An instance whose DESC is not listed in TYPES is left to check 4. -/
def check3 (s : State) (ss : List Section) (im : Image) (cm : Sparse (BitVec 8)) : Option LoadErr :=
  let si := sectIndex ss 4
  let size := fun (i : InstRec) => readLE cm (i.desc + 4) 4
  let base := (s.applyCfg im).rd R.SLR_BURSTBASE_ADDR
  firstErr <|
    (List.range ss.length).map (fun k => need (match ss[k]? with
      | some x => (x.ty != 1 && x.ty != 2) || decide (x.target + x.bytes.length ≤ 0x800000)
      | none => true) 0x0414 k 0) ++
    [(firstClash (fun a b => (a.ty != 1 && a.ty != 2) || (b.ty != 1 && b.ty != 2) ||
      apart a.target a.bytes.length b.target b.bytes.length) ss).bind fun k => errAt 0x0414 k 0] ++
    (List.range im.insts.length).map (fun k =>
      match im.insts[k]? with
      | none => none
      | some i =>
        need (!im.types.contains i.desc ||
          (inStore (bitOf i.flags 0) i.addr (size i) && i.addr % 8 == 0 &&
            decide (i.initOff + i.initLen ≤ im.init.length) && decide (i.initLen + 16 ≤ size i) &&
            im.tasks.all fun t => !t.en || apart i.addr (size i) t.stack t.stackSz)) 0x0414 si (24 * k)) ++
    [needApart (fun a b => !im.types.contains a.desc || !im.types.contains b.desc ||
        apart a.addr (size a) b.addr (size b)) im.insts 0x0414 si 24,
     need (base == 0 || (base % 64 == 0 && decide (0x180000000 ≤ base) && decide (base + 66048 ≤ 0x2FFE00000)))
       0x0414 (sectIndex ss 10) (16 * ((cfgWrites im.slicecfg).findIdx? fun w => w.1 == 0x9C010).getD 0)]

/-- Check 4 of Table 7.6 (0x0415): types. -/
def check4 (ss : List Section) (im : Image) (cm : Sparse (BitVec 8)) : Option LoadErr :=
  firstErr <|
    (List.range im.types.length).map (fun k =>
      need (validDesc ss cm im.types (im.types.getD k 0)) 0x0415 (sectIndex ss 3) (4 * k)) ++
    (List.range im.insts.length).map (fun k =>
      match im.insts[k]? with
      | none => none
      | some i => need (im.types.contains i.desc) 0x0415 (sectIndex ss 4) (24 * k)) ++
    [need (rlayoutOf cm im.insts == im.rlayout) 0x0415 0xFF 0x18]

/-- The binding of a point is one that the chapter of its source takes (R262, R467; the BIND of an on-module channel in the
model's own layout). -/
def State.bindOk (s : State) (p : PointDecl) : Bool :=
  let kind := p.bind / 4096
  let sl := p.bind / 256 % 16
  let ch := p.bind % 256
  match p.src with
  | 1 =>
    decide (sl < 4) &&
      match kind with
      | 0 => !p.out && decide (ch < 12)
      | 1 => p.out && decide (ch < 8) && p.ty == (if s.isPwm sl ch then 4 else 0)
      | 2 => !p.out && decide (ch < 2)
      | 3 => p.out && decide (ch < 2) && p.ty == 4
      | _ => false
  | 4 => p.wkind == 0 && ((isEnergy p.bind && p.ty == 3) || (isValue p.bind && p.ty == 4)) && decide (p.bind < 65536)
  | _ => true

/-- Check 5 of Table 7.6 (0x0416): points. -/
def check5 (s : State) (ss : List Section) (im : Image) : Option LoadErr :=
  let c := s.applyCfg im
  firstErr <|
    (List.range im.points.length).map (fun k =>
      match im.points[k]? with
      | none => none
      | some p =>
        need (decide (p.point < 4096) && decide (p.ty ≤ 5) && decide (p.tenant ≤ 64) && decide (p.wkind ≤ 3) &&
          !bitOf p.flags 2 && !bitOf p.flags 3 && decide (p.src ≤ 6) && c.bindOk p &&
          !((im.points.take k).any fun q => q.point == p.point)) 0x0416 (sectIndex ss 7) (16 * k))

end Sys2Proof.Machine
end

