-- ==== Sys2Proof/Machine/EngineSys.lean ====
section
/-! DEFINITION. SYS services, NOP, BRK, SCH and the illegal words (R54, R102, R120, R157, R162, R163). The services that
reach KEY, and the instructions that reach the loop engine and the tally book, are with those blocks. -/

namespace Sys2Proof.Machine

/-- The word of a SYS instruction with service number `n`. -/
def sysWord (d a : BitVec 4) (n : BitVec 16) : Word := packI 0x04 ⟨d, a, n⟩

/-- A SYS service that only writes xd. -/
def sysRead (n : BitVec 16) (e : Eng) (d a : BitVec 4) (cost : Nat) (v : State → Nat) (s : State) : Res :=
  engRun e (sysWord d a n) 4 (fun s => .done (s.setX e d (v s)) cost) s

/-- NOP (R163). -/
def execNop (e : Eng) (rest : BitVec 24) (s : State) : Res := engRun e (packN 0x01 rest) 4 (fun s => .done s 1) s

/-- A mode request waits for the next boundary, and PEND shows it (R97). -/
def State.request (s : State) (r : Request) : State :=
  { s.wr R.TSK_STAT_PEND 1 with tsk := { s.tsk with requests := s.tsk.requests ++ [r] } }

/-- What BRK does with BRKEN = 1 (R102, R100, Table 4.7): TSK_BRK is latched, line 27 rises and the engine halts; in RUN
the transition to HOLD waits for the boundary, in a step the canary is suspended for its rest. -/
def State.breakpoint (s : State) (e : Eng) (ip : Nat) : State :=
  let s := s.wr R.TSK_BRK_IP ip
  let s := s.wr R.TSK_BRK_ENG e
  let s := (s.wr R.TSK_BRK_TASK (s.curTask e)).raise 27
  let s := s.wr (R.FBE_STAT_STATE e) 0
  if s.mode = 1 then s.request .hold
  else { s with tsk := { s.tsk with canaryOff := true } }

/-- BRK (R102, R163). -/
def execBrk (e : Eng) (rest : BitVec 24) (s : State) : Res :=
  engRun e (packN 0x02 rest) 4 (fun s =>
    if s.on R.TSK_CFG_BRKEN then .done (s.breakpoint e (s.ip e)) 1 else .done s 1) s

/-- The half of FBE_EVSNAP that holds an event source. -/
def State.snapBit (s : State) (e : Eng) (n : Nat) : Bool := bitOf (s.rd (R.FBE_EVSNAP_SNAP e (n / 64))) (n % 64)

/-- EVTEST (R162). -/
def execEvtest (e : Eng) (d a : BitVec 4) (s : State) : Res :=
  sysRead 1 e d a 3 (fun s => b2n (s.snapBit e (s.x e a % 128))) s

/-- EVTAKE: the bit is cleared (R162). -/
def execEvtake (e : Eng) (d a : BitVec 4) (s : State) : Res :=
  engRun e (sysWord d a 2) 4 (fun s =>
    let n := s.x e a % 128
    .done ((s.clrBit (R.FBE_EVSNAP_SNAP e (n / 64)) (n % 64)).setX e d (b2n (s.snapBit e n))) 4) s

/-- One half of FBE_EVSNAP taken whole: the bits read as 1 are cleared (R162). -/
def evTakeHalf (n : BitVec 16) (h : Nat) (e : Eng) (d a : BitVec 4) (s : State) : Res :=
  engRun e (sysWord d a n) 4 (fun s =>
    .done ((s.wr (R.FBE_EVSNAP_SNAP e h) 0).setX e d (s.rd (R.FBE_EVSNAP_SNAP e h))) 4) s

/-- EVTAKELO (R162). -/
def execEvtakelo (e : Eng) (d a : BitVec 4) (s : State) : Res := evTakeHalf 3 0 e d a s

/-- EVTAKEHI (R162). -/
def execEvtakehi (e : Eng) (d a : BitVec 4) (s : State) : Res := evTakeHalf 4 1 e d a s

/-- TNOW (R154, R162). -/
def execTnow (e : Eng) (d a : BitVec 4) (s : State) : Res :=
  sysRead 0x10 e d a 2 (fun s => (s.task (s.curTask e)).tstamp) s

/-- PNOW (R154, R162). -/
def execPnow (e : Eng) (d a : BitVec 4) (s : State) : Res :=
  sysRead 0x11 e d a 2 (fun s => (s.task (s.curTask e)).pstamp) s

/-- CYCNOW (R162). -/
def execCycnow (e : Eng) (d a : BitVec 4) (s : State) : Res :=
  sysRead 0x12 e d a 2 (fun s => (s.task (s.curTask e)).cycnow) s

/-- TICKS: the ticks from the release to the first tick of this SYS, preemption included (R162). -/
def execTicks (e : Eng) (d a : BitVec 4) (s : State) : Res :=
  sysRead 0x13 e d a 2 (fun s => sget 0 s.engTicks e - (s.task (s.curTask e)).tick0) s

/-- SELF: task in [4:0], note in [9:8], engine in [13:12] (R162). -/
def execSelf (e : Eng) (d a : BitVec 4) (s : State) : Res :=
  sysRead 0x14 e d a 2 (fun s =>
    s.curTask e % 32 + s.taskNote (s.curTask e) * 256 + e.val * 4096) s

/-- Q_RANGE and Q_FAULT of a point set from bits 2 and 3 of `v`. -/
def rangeFault (q v : Nat) : Nat := withBit (withBit q 2 (bitOf v 2)) 3 (bitOf v 3)

/-- The point is an output point that commits: OUT, and not program-computed (R91, R125). -/
def State.commits (s : State) (p : Nat) : Bool :=
  match s.decl p with
  | some d => bitOf d.flags 0 && d.flags / 16 != 5
  | none => false

/-- QUALSET: Q_RANGE and Q_FAULT of a point that the running task owns; on an output point they wait for its next commit
(R162). -/
def execQualset (e : Eng) (d a : BitVec 4) (s : State) : Res :=
  engRun e (sysWord d a 0x20) 4 (fun s =>
    let p := s.x e a % 4096
    let v := s.x e d
    if !s.ownedBy p (s.curTask e) then .trap s 0x050B p
    else
      let r := s.readChecked (2 + e) (pointAddr p + 8) 4
      if r.2 then .trap r.1 0x050A p
      else if r.1.commits p then
        .done { r.1 with tsk := { r.1.tsk with qualWait := sput 0 r.1.tsk.qualWait p (16 + (v &&& 12)) } } 4
      else .done (r.1.pokeN (pointAddr p + 8) 2 (rangeFault (r.1.ptQual p) v)) 4) s

/-- The payload of tally record 0x007: old mode, new mode and source, 0 TSK_CTRL, 1 host, 2 program, 3 power-on (Table 16.3;
the numbers of the sources are the model's, log entry 13). -/
def State.modePayload (s : State) (new source : Nat) : List (BitVec 8) := toLE 4 s.mode ++ toLE 4 new ++ toLE 4 source

/-- STOPREQ: a request for STOP with cause 8 and fault 0x040A, taken at the next boundary (R162, Table 4.7). -/
def execStopreq (e : Eng) (d a : BitVec 4) (s : State) : Res :=
  engRun e (sysWord d a 0x40) 4 (fun s =>
    .done ((s.tallyEvent 0x007 (s.modePayload 0 2)).request (.stop 8)) 8) s

/-- A SYS with an undefined service number costs 1 tick and traps with 0x050E (R162). -/
def execSysUndefined (e : Eng) (d a : BitVec 4) (n : BitVec 16) (s : State) : Res :=
  engRun e (sysWord d a n) 4 (fun s => .trap (s.spend e 1) 0x050E 0) s

/-- An unassigned opcode traps with 0x0501 (R120, R139). -/
def execIllegalInstruction (e : Eng) (word : Word) (s : State) : Res :=
  engRun e word 4 (fun s => .trap s 0x0501 0) s

/-! ### Event slots -/

/-- The claim of the image on a slot (R73, R157). -/
def State.slotClaim (s : State) (n : Nat) : Option SlotClaim :=
  match s.img with
  | some im => im.slots.find? fun c => c.slot == n
  | none => none

/-- `p` lies outside the range from `lo` upward to `hi` modulo 2^32 (R157). -/
def outside (p lo hi : Nat) : Bool := decide ((hi + 2 ^ 32 - lo) % 2 ^ 32 < (p + 2 ^ 32 - lo) % 2 ^ 32)

/-- The checks of SCH on words 0, 1 and 3 against a claim, steps 3 and 4 of R157: true where one fails. -/
def claimBroken (c : SlotClaim) (w0 w1 w3 : Nat) : Bool :=
  bitOf w1 2 != c.shaft || slice 23 21 w1 != c.slice || (slice 11 8 w1 == 7) != (c.action == 7) ||
    (!c.shaft && (outside w0 c.lo c.hi || (c.action == 7 && outside ((w0 + w3) % 2 ^ 32) c.clo c.chi)))

/-- A higher-numbered engine has written the slot by SCH in this clock: its write is the one that stays (R161). -/
def State.schTaken (s : State) (e n : Nat) : Bool := s.phs.schWrites.any fun w => w.1 == n && decide (e < w.2.1) && w.2.2 == s.clk

/-- The four words of a slot written as one by an engine's SCH (R54, R161). -/
def State.schPut (s : State) (e n lo hi : Nat) : State :=
  if s.schTaken e n then s
  else
    let t := (((s.wr (R.PHS_SLOT_WORD n 0) lo).wr (R.PHS_SLOT_WORD n 1) hi).wr (R.PHS_SLOT_WORD n 2) (lo / 2 ^ 32)).wr
      (R.PHS_SLOT_WORD n 3) (hi / 2 ^ 32)
    let kept := s.phs.schWrites.filter fun w => w.2.2 == s.clk
    { t with phs := { t.phs with schWrites := kept ++ [(n, e, s.clk)] } }.disarmPast n

/-- SCH: the slot against its claim, then its four words as one (R54, R157). -/
def execSch (e : Eng) (w : FmtA) (s : State) : Res :=
  engRun e (packA 0x61 w) 4 (fun s =>
    let n := s.x e w.d
    let lo := s.x e w.a
    let hi := s.x e w.b
    let w0 := lo % 2 ^ 32
    let w1 := hi % 2 ^ 32
    if 1024 ≤ n then .trap s 0x0524 n
    else
      match s.slotClaim n with
      | none => .trap s 0x0524 n
      | some c =>
        if w1 % 4 = 0 then .done (s.schPut e n lo hi) 8
        else if claimBroken c w0 w1 (hi / 2 ^ 32) then .trap s 0x0523 n
        else .done (s.schPut e n lo hi) 8) s

end Sys2Proof.Machine
end

