-- ==== Sys2Proof/Machine/Phase.lean ====
section
/-! DEFINITION. The phase base's commands (chapter 2): references lost and returned, slews, the band, the shaft, the witness,
configuration and switch-over, slot writes and the SYNC output. -/

namespace Sys2Proof.Machine

/-- A reference's loss noted (R43); WLOST follows where PHS_CFG.WIT names it (R48). -/
def State.setRefLost (s : State) (r : Nat) (b : Bool) : State :=
  let s := if r < 3 && s.rd R.PHS_CFG_WIT == r then s.wrB R.PHS_STAT_WLOST b else s
  match r with
  | 0 => { s with phs := { s.phs with mainsLost := b } }
  | 1 => { s with phs := { s.phs with netLost := b } }
  | 2 => { s with phs := { s.phs with xtalLost := b } }
  | _ => s

/-- Measurements of MAINS reach PHS: slice E is powered and present, and the ring is not broken (R38, R43). -/
def State.mainsFed (s : State) : Bool := s.domOn 15 && bitOf (s.rd R.SLR_RING_PRESENT) 4 && !s.on R.SLR_RING_BROKEN

/-- The loss condition of a reference stands, as far as registers show it (R43): it cannot return (R45). -/
def State.refFaulty (s : State) (r : Nat) : Bool :=
  match r with
  | 0 => !s.mainsFed
  | 1 => !s.on R.TIM_STAT_SYNC
  | 2 => s.on R.SYS_STAT_CLKSRC
  | _ => false

/-- The main word's reference is lost (R44): LOST, line 16, fault 0x0303; a slew ends with line 22, and the word runs on at the
increment `held`, inside the band. A main word already lost, or without power, stays as it is. -/
def State.mainLost (s : State) (held : Nat) : State :=
  if s.on R.PHS_STAT_LOST || !s.domOn 10 then s
  else
    let s := if s.on R.PHS_STAT_SLEWING then (s.wr R.PHS_STAT_SLEWING 0).raise 22 else s
    (((s.track held).wr R.PHS_STAT_LOST 1).raise 16).report R.PHS_LASTFAULT_FAULT 0x0303

/-- A reference is lost; where it is the active one, so is the main word's, which holds the increment `held` (R43, R44). -/
def State.loseRef (s : State) (r held : Nat) : State :=
  let s := s.setRefLost r true
  if s.rd R.PHS_CFG_REF = r then s.mainLost held else s

/-- MAINS is lost because no frame brings slice E's section: the increment held is that of the latest good one (R44). -/
def State.loseMains (s : State) : State := s.loseRef 0 s.phs.frameInc

/-- The increment that a reference lost through its own fault holds (R44). -/
def State.heldInc (s : State) (r : Nat) : Nat := if r = 0 then s.windowInc else s.phs.trackInc

/-- REFERENCE_LOST (R43, R44). -/
def execReferenceLost (which : Fin 3) (s : State) : Res := .next (s.loseRef which.val (s.heldInc which.val))

/-- The shaft reference is lost (R44). -/
def State.shaftLost (s : State) : State :=
  if s.on R.PHS_STAT_SHLOST || !s.domOn 10 then s
  else ((s.wr R.PHS_STAT_SHLOST 1).raise 18).report R.PHS_LASTFAULT_FAULT 0x0305

/-- SHAFT_LOST (R43, R44). -/
def execShaftLost (s : State) : Res := .next s.shaftLost

/-- What the MAINS tracker measures: the phase of the fundamental and its frequency in mHz (R37) (DESIGN CHOICE, log entry
28). -/
def State.measureMains (s : State) (phase mHz : Nat) : State :=
  { s with phs := { s.phs with mainsPhase := phase * 2 ^ 32, mainsInc := incOfMHz mHz, measMHz := mHz } }

/-- REFERENCE_RETURN (R45): a reference whose loss condition is over counts as good again; where it is the active one and was lost,
LOST clears, line 16 rises and the main word relocks. The shaft clears SHLOST, raises line 18 and relocks at its next index
crossing. -/
def execReferenceReturn (which : Fin 4) (phase mHz : Word) (s : State) : Res :=
  if which.val = 3 then
    if s.on R.PHS_STAT_SHLOST then
      let s := (s.wr R.PHS_STAT_SHLOST 0).raise 18
      .next { s with phs := { s.phs with shRelock := true } }
    else .next s
  else if s.refFaulty which.val then .next s
  else
    let s := if which.val = 0 then s.measureMains phase.toNat mHz.toNat else s
    let s := s.setRefLost which.val false
    if s.rd R.PHS_CFG_REF = which.val && s.on R.PHS_STAT_LOST then
      .next ((((s.wr R.PHS_STAT_LOST 0).raise 16).showBand which.val).relock which.val)
    else .next s

/-- SLEW_END (R46). -/
def execSlewEnd (s : State) : Res :=
  if s.on R.PHS_STAT_SLEWING then
    .next (((s.wr R.PHS_STAT_SLEWING 0).track s.phs.trackInc).raise 22)
  else .next s

/-- BAND_EXCURSION (R36, R41): BANDX follows the measured frequency and line 17 rises on each change. Outside the band the word runs
at the nearer edge of what is measured, on the return it relocks, and inside it PHS_INC tracks the reference. While the reference is
lost R44 governs, and nothing changes. A slew in progress loses its offset outside the band, SLEWING still 1, and begins anew on the
return; a relock that begins outside the band slews from the edge (R46) (DESIGN CHOICE, log entry 28). -/
def execBandExcursion (phase mHz : Word) (s : State) : Res :=
  let r := s.rd R.PHS_CFG_REF
  let fed := r != 0 || s.mainsFed
  let s := if r = 0 && fed then s.measureMains phase.toNat mHz.toNat else s
  if s.on R.PHS_STAT_LOST || !fed then .next s
  else
    let out := decide (mHz.toNat < s.rd R.PHS_FMIN_F) || decide (s.rd R.PHS_FMAX_F < mHz.toNat)
    if out = s.on R.PHS_STAT_BANDX then .next (if out then s.track (incOfMHz mHz.toNat) else s.retrack (s.refInc r))
    else
      let s := (s.wrB R.PHS_STAT_BANDX out).raise 17
      if out then .next (s.track (incOfMHz mHz.toNat)) else .next (s.relock r)

/-- One shaft count in phase counts: 2^32 / (4 L), truncated (R40). -/
def State.shStep (s : State) : Nat := 2 ^ 32 / (4 * (s.rd R.PHS_SHCFG_LINES + 1))

/-- SHAFT_EDGE (R40): the word moves by one count in the edge's direction, while the shaft input is enabled; `cps` is the rate of the
count interval that the edge ends, at which the word is interpolated from here. A lost shaft's
word runs on at its last rate (R44), so an edge is only counted for the next index crossing. -/
def execShaftEdge (bFirst : Bool) (cps : Word) (s : State) : Res :=
  let fwd := bFirst == s.on R.PHS_SHCFG_DIRINV
  if !s.on R.PHS_CFG_SHEN then .next s
  else if s.on R.PHS_STAT_SHLOST then
    .next { s with phs := { s.phs with shCount := s.phs.shCount + if fwd then 1 else -1 } }
  else
    let word := (if fwd then s.phs.shBase + s.shStep else s.phs.shBase + 2 ^ 32 - s.shStep) % 2 ^ 32
    let s := s.wr R.PHS_SHPHASE_PHASE word
    .next { s with phs := { s.phs with
      shBase := word, shAcc := 0, shRate := cps.toNat, shIdle := 0, shForward := fwd, shCount := s.phs.shCount + if fwd then 1 else -1 } }

/-- SHAFT_INDEX (R35, R37, R40, R43, R45): a forward crossing sets the word to PHS_SHOFS and steps the turn count up, a reverse one
steps it down; either sets SHREF. The first since enable, and a word that waits to relock, take PHS_SHOFS at either. With IDXCHK a
count between two crossings that differs from 4 L by more than one loses the shaft. A lost shaft's word and turn count run on (R44):
a crossing then only restarts the count and sets SHREF. -/
def execShaftIndex (bFirst : Bool) (s : State) : Res :=
  if !s.on R.PHS_CFG_SHEN then .next s
  else if s.on R.PHS_STAT_SHLOST then
    .next { s.wr R.PHS_STAT_SHREF 1 with phs := { s.phs with shCount := 0 } }
  else
    let fwd := bFirst == s.on R.PHS_SHCFG_DIRINV
    let l4 := 4 * (s.rd R.PHS_SHCFG_LINES + 1)
    let n := s.phs.shCount.natAbs
    let bad := s.on R.PHS_SHCFG_IDXCHK && s.on R.PHS_STAT_SHREF && (decide (n + 1 < l4) || decide (l4 + 1 < n))
    let turn := s.rd R.PHS_SHPHASE_TURN
    let s := s.wr R.PHS_SHPHASE_TURN (if fwd then turn + 1 else turn + 2 ^ 32 - 1)
    let set := fwd || s.phs.shRelock || !s.on R.PHS_STAT_SHREF
    let word := if set then s.rd R.PHS_SHOFS_OFS else s.phs.shBase
    let s := (s.wr R.PHS_SHPHASE_PHASE word).wr R.PHS_STAT_SHREF 1
    let s := { s with phs := { s.phs with shBase := word, shAcc := 0, shCount := 0, shRelock := false } }
    let s := s.disarmAll
    .next (if bad then s.shaftLost else s)

/-- WITNESS_UPDATE (R48): once per turn, unless the witness is lost or none; WDIS and line 19 past the threshold. -/
def execWitnessUpdate (diff foff : Word) (s : State) : Res :=
  if s.rd R.PHS_CFG_WIT = 3 || s.on R.PHS_STAT_WLOST then .next s
  else
    let s := (s.wr R.PHS_WDIFF_DIFF diff.toNat).wr R.PHS_WFOFF_FOFF foff.toNat
    if s.rd R.PHS_WTHR_THR < (toSigned 32 diff.toNat).natAbs then .next ((s.wr R.PHS_STAT_WDIS 1).raise 19)
    else .next s

/-- WITNESS_LOST (R43, R48): the reference that WIT names is lost. -/
def execWitnessLost (s : State) : Res :=
  let w := s.rd R.PHS_CFG_WIT
  if w = 3 then .next s else .next (s.loseRef w (s.heldInc w))

/-- WITNESS_RETURN (R45, R48): a witness whose loss condition is over counts as good again. -/
def execWitnessReturn (s : State) : Res :=
  let w := s.rd R.PHS_CFG_WIT
  if w = 3 || s.refFaulty w then .next s else .next (s.setRefLost w false)

/-- A reference becomes active (R37, R47): XTAL takes a free phase; a lost one leaves the word lost; else LOST clears with
line 16 and the word relocks. -/
def State.activate (s : State) (r : Nat) : State :=
  let s := s.wr R.PHS_CFG_REF r
  let s := if r = 2 then { s.useFree with phs := { s.phs with xtalPhase := s.freeVal % 2 ^ 64 } } else s
  if s.refLost r then s.mainLost s.phs.trackInc
  else
    let s := if s.on R.PHS_STAT_LOST then (s.wr R.PHS_STAT_LOST 0).raise 16 else s
    (s.showBand r).relock r

/-- A write of PHS_CFG (R47): outside STOP it is ignored; in STOP the fields are set, a changed reference becomes active at
once and is snapped, REF = 3 leaves the word with none, and enabling the shaft clears SHREF. -/
def State.writePhsCfg (s : State) (v : Nat) : State :=
  if s.mode ≠ 0 then s
  else
    let oldRef := s.rd R.PHS_CFG_REF
    let oldSh := s.on R.PHS_CFG_SHEN
    let s := s.wr R.PHS_CFG_REF v
    let s := s.wr R.PHS_CFG_WIT (v / 2 ^ 4)
    let s := s.wr R.PHS_CFG_N (v / 2 ^ 8)
    let s := s.wr R.PHS_CFG_MBW (v / 2 ^ 16)
    let s := s.wr R.PHS_CFG_MNOM (v / 2 ^ 18)
    let s := s.wr R.PHS_CFG_SHEN (v / 2 ^ 20)
    let s := if !oldSh && s.on R.PHS_CFG_SHEN then s.wr R.PHS_STAT_SHREF 0 else s
    let wit := s.rd R.PHS_CFG_WIT
    let s := s.wrB R.PHS_STAT_WLOST (wit != 3 && s.refLost wit)
    let r := s.rd R.PHS_CFG_REF
    if r = oldRef then s else if r = 3 then s.mainLost s.phs.trackInc else s.activate r

/-- PHS_CFG_WRITE (R47). -/
def execPhsCfgWrite (value : Word) (s : State) : Res := .next (s.writePhsCfg value.toNat)

/-- A write of PHS_CTRL: SWITCH = 1 requests a switch to TO at the next boundary (R47). A second request before that boundary takes the
place of the first (DESIGN CHOICE, log entry 28). -/
def State.writePhsCtrl (s : State) (v : Nat) : State :=
  if bitOf v 0 then { s with phs := { s.phs with switchTo := some (slice 5 4 v) } } else s

/-- PHS_SWITCH_REQUEST (R47). -/
def execPhsSwitchRequest (value : Word) (s : State) : Res := .next (s.writePhsCtrl value.toNat)

/-- The boundary takes a requested switch (R47): refused with SWREF, 0x0302 and line 22, or made active. -/
def State.takeSwitch (s : State) : State :=
  match s.phs.switchTo with
  | none => s
  | some r =>
    let s := { s with phs := { s.phs with switchTo := none } }
    if r = 3 || s.refLost r || r = s.rd R.PHS_CFG_REF || !s.refInBand r then
      ((s.wr R.PHS_STAT_SWREF 1).report R.PHS_LASTFAULT_FAULT 0x0302).raise 22
    else s.activate r

/-- A word of an event slot written by a master (R54). -/
def State.writeSlot (s : State) (n w v : Nat) : State := (s.wr (R.PHS_SLOT_WORD n w) v).disarmPast n

/-- SLOT_WRITE (R54). -/
def execSlotWrite (slot : BitVec 10) (word : BitVec 2) (value : Word) (s : State) : Res :=
  .next (s.writeSlot slot.toNat word.toNat value.toNat)

/-- The SYNC output goes high for 10 µs (R448). -/
def State.syncHigh (s : State) : State := { s with phs := { s.phs with syncUntil := s.clk + 4000 } }

/-- SYNC_PULSE (R448): the main word crosses phase zero, while the PHS domain is on. -/
def execSyncPulse (s : State) : Res := if s.domOn 10 then .next s.syncHigh else .next s

/-- The main word passes phase zero: its turn count steps up, once-slots that it passes are disarmed (R35, R54), and SYNC goes high
(R448). -/
def State.turnUp (s : State) : State := (s.inc R.PHS_PHASE_TURN).disarmAll.syncHigh

/-- One engine clock of the main word: PHS_INC counts, and the turn count on the wrap (R35, R36). -/
def State.tickMain (s : State) : State :=
  let p := s.rd R.PHS_PHASE_PHASE * 2 ^ 32 + s.phs.frac + s.rd R.PHS_INC_INC
  let s := s.wr R.PHS_PHASE_PHASE (p / 2 ^ 32)
  let s := if 2 ^ 64 ≤ p then s.turnUp else s
  { s with phs := { s.phs with frac := p % 2 ^ 32
                               mainsPhase := (s.phs.mainsPhase + s.phs.mainsInc) % 2 ^ 64
                               xtalPhase := (s.phs.xtalPhase + s.refInc 2) % 2 ^ 64 } }

/-- PHS_SHSPEED at a frame (R40): the rate of the latest count interval, or, where no count has come for longer than that, the
greatest rate that the time since allows. A shaft whose speed has so fallen to 0 has stopped, and its word stands at its last
count (DESIGN CHOICE, log entry 28). A lost shaft keeps its last rate (R44). -/
def State.shaftFrame (s : State) : State :=
  if !s.on R.PHS_CFG_SHEN then s
  else
    let r := toSigned 32 s.phs.shRate
    let n := if s.on R.PHS_STAT_SHLOST then r.natAbs else min r.natAbs (400000000 / max 1 s.phs.shIdle)
    let s := s.wr R.PHS_SHSPEED_CPS (ofSigned 32 (if r < 0 then -(n : Int) else n))
    if n = 0 then { s.wr R.PHS_SHPHASE_PHASE s.phs.shBase with phs := { s.phs with shRate := 0, shAcc := 0 } } else s

/-- One engine clock of the shaft word: interpolation between counts at the rate of the latest count interval, never to the next
count (R40); a lost shaft runs on at its last rate, its turn count stepping as the word wraps (R44). -/
def State.tickShaft (s : State) : State :=
  if !s.on R.PHS_CFG_SHEN then s
  else
    let s := { s with phs := { s.phs with shIdle := s.phs.shIdle + 1 } }
    let cps := (toSigned 32 s.phs.shRate).natAbs
    let acc := s.phs.shAcc + cps * s.shStep
    let d := acc / 400000000
    if s.on R.PHS_STAT_SHLOST then
      let p := if s.phs.shForward then s.phs.shBase + d else s.phs.shBase + 2 ^ 32 - d
      let wrapped := if s.phs.shForward then decide (2 ^ 32 ≤ p) else decide (p < 2 ^ 32)
      let s := if d = 0 then s else s.wr R.PHS_SHPHASE_PHASE p
      let s := if d != 0 && wrapped then
          (s.wr R.PHS_SHPHASE_TURN (s.rd R.PHS_SHPHASE_TURN + if s.phs.shForward then 1 else 2 ^ 32 - 1)).disarmAll
        else s
      { s with phs := { s.phs with shBase := if d = 0 then s.phs.shBase else p % 2 ^ 32
                                   shAcc := acc % 400000000 } }
    else if s.on R.PHS_SHCFG_INTERP then
      let k := min d (s.shStep - 1)
      let s := s.wr R.PHS_SHPHASE_PHASE
        (if s.phs.shForward then s.phs.shBase + k else s.phs.shBase + 2 ^ 32 - k)
      { s with phs := { s.phs with shAcc := min acc (s.shStep * 400000000) } }
    else s

end Sys2Proof.Machine
end

