-- ==== Sys2Proof/Machine/Predict.lean ====
section
/-! DEFINITION. The prediction of slot crossings two frames ahead and the placing of their actions (R51 to R55, R72). -/

namespace Sys2Proof.Machine

/-- How a phase word moves from now on, in units of 2^-32 counts: where it is as a 96-bit number (turn count, phase, fraction), its
step per engine clock, whether it runs backward, and for a shaft the distance to its next index crossing and the word there. -/
structure Motion where
  here : Nat
  step : Nat
  back : Bool
  index : Option (Nat × Nat) := none

/-- The main word (R53). -/
def State.mainMotion (s : State) : Motion := ⟨s.phase64 * 2 ^ 32 + s.phs.frac, s.rd R.PHS_INC_INC, false, none⟩

/-- The counts that lie between the shaft's latest count and its next index crossing in its direction, the count of the crossing
included (R35, R40). -/
def State.countsToIndex (s : State) : Nat :=
  let l4 : Int := 4 * ((s.rd R.PHS_SHCFG_LINES : Int) + 1)
  let c := s.phs.shCount
  (if s.phs.shForward then (if c < 0 then -c else l4 - c) else if 0 < c then c else l4 + c).toNat

/-- The shaft word, at the interpolation rate (R53). At a forward index crossing it is set to PHS_SHOFS, and either crossing steps its
turn count (R35, R40); a lost shaft's turn count steps as the word wraps (R44). -/
def State.shaftMotion (s : State) : Motion :=
  let step := 2 ^ 32 / (4 * (s.rd R.PHS_SHCFG_LINES + 1))
  let r := (toSigned 32 s.phs.shRate).natAbs * step * 2 ^ 32 / 400000000
  let p := s.rd R.PHS_SHPHASE_PHASE
  let come := if s.phs.shForward then (p + 2 ^ 32 - s.phs.shBase) % 2 ^ 32 else (s.phs.shBase + 2 ^ 32 - p) % 2 ^ 32
  let d := s.countsToIndex * step - come
  ⟨s.shPhase64 * 2 ^ 32, r, !s.phs.shForward,
    if s.on R.PHS_STAT_SHLOST then none else some (d * 2 ^ 32, s.rd R.PHS_SHOFS_OFS * 2 ^ 32)⟩

/-- A crossing: how far into the frame in units of 2^-32 counts, and the turn count there. -/
structure Crossing where
  dist : Nat
  turn : Nat

/-- How far a motion goes from phase `p` to phase `q`, both with 32 fraction bits. -/
def Motion.span (m : Motion) (p q : Nat) : Nat := if m.back then (p + 2 ^ 64 - q) % 2 ^ 64 else (q + 2 ^ 64 - p) % 2 ^ 64

/-- How far a motion goes until it reaches a phase, and the turn count there. -/
def Motion.reach (m : Motion) (phase : Nat) : Nat × Nat :=
  let q := phase * 2 ^ 32
  let x := m.span (m.here % 2 ^ 64) q
  let t := m.here / 2 ^ 64
  match m.index with
  | none => (x, (if m.back then (m.here + 2 ^ 96 - x) / 2 ^ 64 else (m.here + x) / 2 ^ 64) % 2 ^ 32)
  | some (d, ofs) =>
    if x < d then (x, t)
    else if m.back then (x, (t + 2 ^ 32 - 1) % 2 ^ 32)
    else (d + m.span ofs q, (t + 1) % 2 ^ 32)

/-- Where a motion crosses a phase inside frame f + 2, seen from the start of frame f: frames are 10,000 engine clocks (R53). A crossing
that a change of rate between two predictions moves over the edge of a frame is placed in neither frame or in both (DESIGN CHOICE,
log entry 27). -/
def Motion.cross (m : Motion) (phase : Nat) : Option Crossing :=
  let r := m.reach phase
  if m.step * 20000 ≤ r.1 && decide (r.1 < m.step * 30000) then some ⟨r.1 - m.step * 20000, r.2⟩ else none

/-- The instant of a crossing within its frame in 20 ns steps. -/
def Motion.instant (m : Motion) (c : Crossing) : Nat := min 1249 (c.dist / max 1 (m.step * 8))

/-- The qualifier of a slot accepts a turn count (R51, Table 2.2). -/
def qualAccepts (w1 w2 turn : Nat) : Bool :=
  match w1 % 4 with
  | 1 => true
  | 2 =>
    let k := max 1 (w2 % 65536)
    turn % k == (w2 / 65536) % k
  | 3 => turn == w2
  | _ => false

/-- DIR of a shaft slot accepts the direction. -/
def dirAccepts (dir : Nat) (back : Bool) : Bool := dir == 2 || (dir == 1) == back

/-- The motion of the word a slot watches; a shaft slot waits for SHREF (R40). -/
def State.motionFor (s : State) (shaft : Bool) : Option Motion :=
  if shaft then if s.on R.PHS_CFG_SHEN && s.on R.PHS_STAT_SHREF then some s.shaftMotion else none
  else some s.mainMotion

/-- What becomes of a slot that crosses in frame `f`: its action at its instant, the clear edge that follows a PWM pair. -/
structure Hit where
  dist : Nat
  act : Placed
  clear : Option ClearEdge

/-- The hit of slot `n` in frame `f`, if it crosses in an accepted turn and direction (R51, R53). -/
def State.hit (s : State) (f n : Nat) : Option Hit :=
  let w1 := s.rd (R.PHS_SLOT_WORD n 1)
  let shaft := bitOf w1 2
  match s.motionFor shaft with
  | none => none
  | some m =>
    let dir := if shaft then slice 4 3 w1 else 2
    match m.cross (s.rd (R.PHS_SLOT_WORD n 0)) with
    | none => none
    | some c =>
      if qualAccepts w1 (s.rd (R.PHS_SLOT_WORD n 2)) c.turn && dirAccepts dir m.back then
        let a := slice 11 8 w1
        let arg := s.rd (R.PHS_SLOT_WORD n 3)
        let tgt := slice 23 16 w1
        some { dist := c.dist
               act := ⟨f, n, m.instant c, if a = 7 then 1 else a, tgt, arg⟩
               clear := if a = 7 then
                 some ⟨n, (s.rd (R.PHS_SLOT_WORD n 0) + arg) % 2 ^ 32, shaft, dir, tgt⟩ else none }
      else none

/-- The clear edge placed in frame `f`, if its phase is crossed there at or after `from`. -/
def State.clearHit (s : State) (f since : Nat) (c : ClearEdge) : Option Hit :=
  match s.motionFor c.shaft with
  | none => none
  | some m =>
    match m.cross c.phase with
    | some x =>
      if dirAccepts c.dir m.back && decide (since ≤ x.dist) then
        some ⟨x.dist, ⟨f, c.slot, m.instant x, 2, c.target, 0⟩, none⟩ else none
    | none => none

/-- The action of a placement does nothing: code 0 or 8 to 15 (Table 2.3). -/
def Placed.idle (p : Placed) : Bool := p.action == 0 || decide (7 < p.action)

/-- The action executes on the logic side (R52). -/
def Placed.logic (p : Placed) : Bool := p.action == 6 || (p.action == 5 && p.target / 32 == 7)

/-- An action is discarded (R55): its target does not exist for it, its slice is not present, its DO runs in slice PWM or
belongs to a pulse channel (R269), or a burst has no area. A burst whose ARG is outside 1 to 4,096 counts as without a
target (DESIGN CHOICE, log entry 27). -/
def State.discards (s : State) (p : Placed) : Bool :=
  let sl := p.target / 32
  let ch := p.target % 32
  if p.logic then false
  else if 4 ≤ sl then true
  else if !s.present sl then true
  else
    match p.action with
    | 4 => !(ch == 16 || ch == 17) || s.rd R.SLR_BURSTBASE_ADDR == 0 || p.arg == 0 || decide (4096 < p.arg)
    | 5 => false
    | _ => decide (8 ≤ ch) || s.isPwm sl ch || (s.pulseAt sl ch).isSome

/-- Bytes left for the event section after the fixed charges and the stamp lanes (Tables 3.2 and 3.3), in actions. -/
def State.actionRoom (s : State) : Nat :=
  let lanes := ([0, 1, 2, 3].filter fun sl => (List.range 12).any fun n => s.rd (R.SLR_DICFG_STAMP sl n) != 0).length
  (512 - 224 - 16 * lanes) / 4

/-- A list of actions in order, split by the 64-action limit of each slice: those kept, those moved on (R55). -/
def splitSlices (l : List Placed) : List Placed × List Placed :=
  let r := l.foldl (fun (a : List Placed × List Placed) p =>
    if p.logic || (a.1.filter fun q => !q.logic && q.target / 32 == p.target / 32).length < 64
    then (p :: a.1, a.2) else (a.1, p :: a.2)) ([], [])
  (r.1.reverse, r.2.reverse)

/-- The same for the byte limit across all slices (R72). -/
def splitBytes (room : Nat) (l : List Placed) : List Placed × List Placed :=
  let r := l.foldl (fun (a : List Placed × List Placed) p =>
    if p.logic || (a.1.filter fun q => !q.logic).length < room then (p :: a.1, a.2) else (a.1, p :: a.2)) ([], [])
  (r.1.reverse, r.2.reverse)

/-- A list without the actions of a part of it, in order. -/
def movedOn : List Placed → List Placed → List Placed
  | [], _ => []
  | p :: t, [] => p :: t
  | p :: t, q :: u => if p = q then movedOn t u else p :: movedOn t (q :: u)

/-- An action put in its place by time, ties in slot order. -/
def insertHit (h : Hit) : List Hit → List Hit
  | [] => [h]
  | a :: t =>
    if h.act.instant < a.act.instant || (h.act.instant == a.act.instant && decide (h.act.slot < a.act.slot)) then h :: a :: t
    else a :: insertHit h t

/-- A discarded action (R55): DISC, PHS_DISCCNT, line 21. -/
def State.discOne (s : State) : State := ((s.wr R.PHS_STAT_DISC 1).incSat R.PHS_DISCCNT_COUNT).raise 21

/-- Deferred actions (R55, R72): DEFER, PHS_DEFERCNT, fault 0x0304, line 21. -/
def State.deferSome (s : State) (n : Nat) : State :=
  if n = 0 then s
  else (((s.wr R.PHS_STAT_DEFER 1).incSat R.PHS_DEFERCNT_COUNT n).report R.PHS_LASTFAULT_FAULT 0x0304).raise 21

/-- SLOT_PREDICT: the crossings of frame `f` are placed (R53, R55, R72); a once-slot clears its QUAL where its crossing is placed, so
not where its action is discarded. What either limit moves on keeps its order. The clear edge of a pair is owed though its set edge
is discarded, and is then placed or discarded as an action of its own (DESIGN CHOICE, log entry 27). -/
def State.predict (s : State) (f : Nat) : State :=
  let hits := s.armed.filterMap (s.hit f)
  let s : State := hits.foldl (fun s h =>
    let w1 := s.rd (R.PHS_SLOT_WORD h.act.slot 1)
    if w1 % 4 = 3 && (h.act.idle || !s.discards h.act) then s.wr (R.PHS_SLOT_WORD h.act.slot 1) (w1 - 3) else s) s
  let owed := s.phs.clears.map fun c => (c, s.clearHit f 0 c)
  let fresh := hits.filterMap fun h => h.clear.map fun c => (c, s.clearHit f h.dist c)
  let both : List (ClearEdge × Option Hit) := owed ++ fresh
  let left := (both.filter fun (c : ClearEdge × Option Hit) => c.2.isNone).map fun (c : ClearEdge × Option Hit) => c.1
  let s : State := { s with phs := { s.phs with clears := left } }
  let order := ((hits ++ both.filterMap fun c => c.2).foldl (fun l h => insertHit h l) []).map (·.act)
  let live := order.filter fun p => !p.idle
  let s := (live.filter s.discards).foldl (fun s _ => s.discOne) s
  let keep := (s.phs.deferred.map fun (p : Placed) => { p with frame := f }) ++ live.filter fun p => !s.discards p
  let a := splitSlices keep
  let b := splitBytes s.actionRoom a.1
  let moved := (movedOn keep b.1).map fun (p : Placed) => { p with instant := 0 }
  let s := s.deferSome moved.length
  { s with phs := { s.phs with placed := s.phs.placed ++ b.1, deferred := moved } }

end Sys2Proof.Machine
end

