-- ==== Sys2Proof/Machine/Ring.lean ====
section
/-! DEFINITION. The ring gateway's commands (chapter 9): frames, breaks and presence, slot actions, bursts. -/

namespace Sys2Proof.Machine

/-! ### Bursts (R240) -/

/-- A running burst of an AI channel (2 * slice + channel). -/
def State.burstOn (s : State) (c : Nat) : Option BurstRec := s.ring.bursts.find? fun b => b.chan == c

/-- A running burst ends with a status; its header waits for BURST_END. -/
def State.endBurst (s : State) (c status : Nat) : State :=
  match s.burstOn c with
  | none => s
  | some b =>
    { s with ring := { s.ring with bursts := s.ring.bursts.filter fun x => x.chan != c
                                   ended := s.ring.ended ++ [{ b with status := status }] } }

/-- The record of an AI channel in the burst area. -/
def State.burstAddr (s : State) (c : Nat) : Nat := s.rd R.SLR_BURSTBASE_ADDR + 8256 * c

/-- One sample of every running burst: the gateway writes it, and a record that is full ends with status 0. -/
def State.burstSample (s : State) (b : BurstRec) (code : Nat) : State :=
  let s := s.dmaWrite 12 (s.burstAddr b.chan + 0x40 + 2 * b.done) (toLE 2 code)
  let s := { s with ring := { s.ring with bursts := s.ring.bursts.map fun x =>
    if x.chan = b.chan then { x with done := x.done + 1 } else x } }
  if b.done + 1 = b.count then s.endBurst b.chan 0 else s

/-- A burst action begins a record, ending one that runs with status 2 (R240). -/
def State.startBurst (s : State) (c count instant : Nat) : State :=
  let s := s.endBurst c 2
  let b : BurstRec := ⟨c, count, 0, 0, s.tstampNow, s.phase64, s.shPhase64,
    (1250 - instant) % 1250, s.ring.frame - b2n (instant == 0)⟩
  { s with ring := { s.ring with bursts := s.ring.bursts ++ [b] } }

/-- The bursts of a slice end with status 1 (R240). -/
def State.loseBursts (s : State) (sl : Nat) : State := (s.endBurst (2 * sl) 1).endBurst (2 * sl + 1) 1

/-- BURST_END (R240): the header of the channel's oldest ended record is written word by word, SEQ last, and line 63 rises. -/
def execBurstEnd (sl : FieldSlice) (ch : Fin 2) (s : State) : Res :=
  let c := 2 * sl.val + ch.val
  match s.ring.ended.find? fun b => b.chan == c with
  | none => .next s
  | some b =>
    let n := (sget 0 s.ring.burstSeq c + 1) % 2 ^ 32
    let s := { s with ring := { s.ring with ended := s.ring.ended.erase b, burstSeq := sput 0 s.ring.burstSeq c n } }
    let a := s.burstAddr c
    let s := s.dmaWords 12 (a + 4) (toLE 4 b.count ++ toLE 4 b.done ++ toLE 4 b.status ++ toLE 8 b.time ++
      toLE 8 b.main ++ toLE 8 b.shaft ++ toLE 4 b.ofs ++ zeros 20)
    .next ((s.dmaWrite 12 a (toLE 4 n)).raise 63)

/-! ### Upstream -/

/-- One stamp from a slice's FIFO into its log (R229, R230). -/
def State.takeStamp (s : State) (sl : Nat) : State :=
  let v := s.sliceOf sl
  match v.fifo with
  | [] => s
  | t :: rest =>
    let i := s.rd (R.SLR_STAMPWR_COUNT sl) % 256
    let s := s.setSlice sl { v with fifo := rest }
    let s := s.wr (R.SLR_STAMP_TIME_TIME sl i) t.time
    let s := s.wr (R.SLR_STAMP_REST_REST sl i) (t.phase + t.chan * 2 ^ 32 + t.flags * 2 ^ 40 + t.seq * 2 ^ 48)
    (s.inc (R.SLR_STAMPWR_COUNT sl)).raise (58 + sl)

/-- Latched sets of counters reach SLR_DICNTL, then SLR_LATCHT, then SLR_LATCH.SEQ, the oldest first (R227). -/
def State.takeLatch (s : State) (sl : Nat) : State :=
  let v := s.sliceOf sl
  v.latch.foldl (fun s c =>
    let s := (List.range 12).foldl (fun s n => s.wr (R.SLR_DICNTL_COUNT sl n) (c.2.getD n 0)) s
    (s.wr (R.SLR_LATCHT_TIME sl) c.1).inc (R.SLR_LATCH_SEQ sl)) (s.setSlice sl { v with latch := [] })

/-- The status bytes of a field slice's section, with the AI faults that its codes show (R215, Table 9.3): SLR_SSTAT, the state of one
DO channel, line 54 + slice where byte 0 or 1 has changed, and 0x0706 as FS_MISSING comes (R235). WDTRIP is set as its bit comes, so
that a cleared one stays clear. -/
def State.takeStatus (s : State) (sl c0 c1 : Nat) : State :=
  let p := (s.sliceOf sl).sample
  let b := p.status + b2n (s.aiOpen sl 0 c0) * 8 + b2n (s.aiOpen sl 1 c1) * 16
  let was := sget 0 s.ring.status sl
  let now := b + p.doBad * 256
  let s := { s with ring := { s.ring with status := sput 0 s.ring.status sl now } }
  let s := (s.wrB (R.SLR_SSTAT_FS_LOW sl) (bitOf b 0)).wrB (R.SLR_SSTAT_FS_MISSING sl) (bitOf b 1)
  let s := (s.wrB (R.SLR_SSTAT_SUMOVER sl) (bitOf b 2)).wr (R.SLR_SSTAT_ANFLT sl) (b / 8 % 16)
  let s := if bitOf b 7 && !bitOf was 7 then s.wr (R.SLR_SSTAT_WDTRIP sl) 1 else s
  let s := s.wr (R.SLR_DOSTAT_STATE sl p.chan) p.code
  let s := if bitOf b 1 && !bitOf was 1 then s.reportSlr 0x0706 sl 0 else s
  if now = was then s else s.raise (54 + sl)

/-- The field supply that a slice reports, in 0.1 V: the one the frame brings, else the latest measured (SLR_FSV). -/
def State.measure (s : State) (sl : Nat) (volts : List (BitVec 16)) : Nat :=
  match volts[sl]? with
  | some x => x.toNat
  | none => (s.sliceOf sl).volts

/-- What a field slice's section of frame `fr`, returned good, brings (R214, R215, R227, R230, R238, R239); the field supply every
1 ms (SLR_FSV). -/
def State.fieldSection (s : State) (sl fr : Nat) (up : FrameUp) : State :=
  let code := fun ch => (up.ai.getD (2 * sl + ch) 0).toNat
  let s := s.wr (R.SLR_DIIN_STATE sl) (s.sliceOf sl).sample.di
  let codes := sput 0 (sput 0 s.ring.aiCode (2 * sl) (code 0 + 1)) (2 * sl + 1) (code 1 + 1)
  let s := { s with ring := { s.ring with aiCode := codes } }
  let s := s.takeStatus sl (code 0) (code 1)
  let s := if fr % 40 = 0 then s.wr (R.SLR_FSV_V sl) (s.measure sl up.volts) else s
  let s := (s.takeStamp sl).takeLatch sl
  [0, 1].foldl (fun s ch =>
    match s.burstOn (2 * sl + ch) with
    | some b => if b.first ≤ fr then s.burstSample b (code ch) else s
    | none => s) s

/-- A watchdog trip is reported once the slice is present again (Table 9.10, fault 0x0703). -/
def State.owedTrip (s : State) (n : Nat) : State :=
  if bitOf s.ring.tripOwed n && s.present n then
    { s.reportSlr 0x0703 n 0 with ring := { s.ring with tripOwed := withBit s.ring.tripOwed n false } }
  else s

/-- WDTRIP of a metering slice, which has no status bytes of Table 9.3: it comes over the service lane (DESIGN CHOICE, log entry
56). -/
def State.meterTrip (s : State) (n : Nat) : State :=
  let b := (s.sliceOf n).tripped
  let was := bitOf (sget 0 s.ring.status n) 7
  let s := { s with ring := { s.ring with status := sput 0 s.ring.status n (b2n b * 128) } }
  if b && !was then s.wr (R.SLR_SSTAT_WDTRIP n) 1 else s

/-- The sections of a good returned frame, A to F, with the alignment errors that the slices have found (SLR_ALIGN, R224). -/
def State.sections (s : State) (fr present : Nat) (up : FrameUp) : State :=
  (List.range 6).foldl (fun s n =>
    if bitOf present n && (s.sliceOf n).up then
      let s := match up.align[n]? with
        | some x => s.wr (R.SLR_ALIGN_ERR n) x.toNat
        | none => s
      let s := if n < 4 then s.fieldSection n fr up else s.meterTrip n
      s.owedTrip n
    else s) s

/-! ### Frames -/

/-- Commits due in frame `f` reach the fixed bytes (R216). -/
def State.dueCommits (s : State) (f : Nat) : State :=
  let due := s.ring.commits.filter fun c => c.frame == f
  let m := due.foldl (fun m c => c.vals.foldl (fun m v => sput 0 m (16 * c.slice + v.1) (v.2 + 1)) m) s.ring.committed
  { s with ring := { s.ring with committed := m } }

/-- The start of a frame at a metering slice: SAFE as the latest good frame carries it (R221); a bad frame is counted. -/
def State.meterFrame (s : State) (n : Nat) (good : Bool) : State :=
  let v := (s.sliceOf n).count good s.emitSafe
  if !v.up then s
  else if good then (s.setSlice n { v with frameSafe := s.emitSafe }).showSafe n
  else (s.setSlice n v).inc (R.SLR_ERRCNT_BAD n)

/-- The slices that receive a frame good: one that does not sets CORRUPT in it, so it is good at none after that one (R218). -/
def State.goodAt (s : State) (reached : Nat) : Nat :=
  ((List.range 6).foldl (fun c n =>
    let ok := c.1 && (bitOf reached n || !(s.sliceOf n).up)
    (ok, if ok && bitOf reached n then c.2 + 2 ^ n else c.2)) (true, 0)).2

/-- Every slice that inserts its section receives a frame good, so none sets CORRUPT in it (R218). -/
def State.clean (s : State) (reached : Nat) : Bool := (List.range 6).all fun n => bitOf reached n || !(s.sliceOf n).up

/-- What returned frame f - 1 brings, good or not: its sections, the fast values and parts of the metering sets, and the increment
that a loss of MAINS holds (R44, R214, R218, R260). -/
def State.frameBack (s : State) (f : Nat) (good : Bool) (present : Nat) (up : FrameUp) : State :=
  let s := if good then s.sections (f - 1) present up else s.inc R.SLR_RINGCNT_BADRET
  let s := { s with ring := { s.ring with bad := if good then 0 else s.ring.bad + 1 } }
  let ok := fun (s : State) n => good && bitOf present (4 + n) && (s.sliceOf (4 + n)).up
  let s := if f = 0 then s else (s.metFrame 0 (f - 1) (ok s 0)).metFrame 1 (f - 1) (ok s 1)
  if good && bitOf present 4 && (s.sliceOf 4).up then { s with phs := { s.phs with frameInc := s.phs.trackInc } } else s

/-- The values that a frame gives the channels of loops, which mirror points show (R189) and a gap holds (R409). -/
def State.keepSent (s : State) : State :=
  let put := fun m => (List.range 40).foldl (fun m i =>
    if (s.chanLoop (i / 10) (i % 10)).isSome then sput 0 m (16 * (i / 10) + i % 10) (s.chanValue (i / 10) (i % 10) + 1) else m) m
  { s with ring := { s.ring with sent := if s.inGap then s.ring.sent else put s.ring.sent, shown := put s.ring.shown } }

/-- Frame `f` leaves: the slices that it reaches good take it in, and all put into it what they sample at T_f (R214, R218). -/
def State.frameOut (s : State) (f reached : Nat) : State :=
  let at' := s.goodAt reached
  let corrupt := !s.clean reached
  let s := (s.dueCommits f).gatewayReads
  let s := (s.wrB R.SLR_RING_SAFE s.emitSafe).keepSent
  let s := (List.range 4).foldl (fun s sl => (s.sliceFrame sl (s.frameFor sl f (bitOf at' sl))).sampleSlice sl f) s
  let s := [4, 5].foldl (fun s n => s.meterFrame n (bitOf at' n)) s
  let s := (s.meterSample 0).meterSample 1
  let commits := s.ring.commits.filter fun c => decide (f < c.frame)
  { s with ring := { s.ring with frame := f + 1, frameClk := s.clk, commits := commits, corrupt := corrupt } }

/-- RING_FRAME (R213 to R219, R53): frame f - 1 has returned and brings its sections; PHS predicts frame f + 2; frame f
leaves with the fixed bytes. A frame in which a slice has set CORRUPT is not good (R218). -/
def execRingFrame (good : Bool) (sections reached : BitVec 6) (up : FrameUp) (s : State) : Res :=
  if !s.domOn 10 then .next s
  else
    let f := s.ring.frame
    let s := s.frameBack f (good && !s.ring.corrupt) sections.toNat up
    .next ((s.shaftFrame.predict (f + 2)).frameOut f reached.toNat)

/-- RING_BROKEN (R219, R220, R240): BROKEN, 0x0701, line 62, BREAKS; bursts end, MAINS is lost (R43). -/
def execRingBroken (s : State) : Res :=
  if !s.domOn 10 || s.on R.SLR_RING_BROKEN then .next s
  else
    let s := (s.wr R.SLR_RING_BROKEN 1).incSat R.SLR_RINGCNT_BREAKS
    let s := (s.reportSlr 0x0701 0 0).raise 62
    let s := (List.range 4).foldl (fun s sl => s.loseBursts sl) s
    .next ((s.showMetPresent.wr R.SLR_RING_SAFE 1).loseMains)

/-- RING_RESTORED (R219): BROKEN clears and line 62 rises; SAFE follows from the next emitted frame. -/
def execRingRestored (s : State) : Res :=
  if s.on R.SLR_RING_BROKEN then .next (((s.wr R.SLR_RING_BROKEN 0).raise 62).showMetPresent) else .next s

/-- A slice leaves the present set (R220): its bursts end, pulses on its channels are cut short (R240, R269); slice E takes MAINS with
it (DEDUCED, log entry 26). -/
def State.leave (s : State) (n : Nat) : State :=
  let s := (s.clrBit R.SLR_RING_PRESENT n).wr (R.SLR_SSTAT_PRESENT n) 0
  let s := (s.wr (R.SLR_ID_KIND n) 0).raise (48 + n)
  let s := s.reportSlr 0x0702 n 0
  let s := if n < 4 then (s.loseBursts n).cutPulses n else s.showMetPresent
  if n = 4 then s.loseMains else s

/-- SLICE_LEAVE (R220). -/
def execSliceLeave (sl : AnySlice) (s : State) : Res := if s.present sl then .next (s.leave sl) else .next s

/-- SLICE_JOIN (R220): present, line 48 + slice, and its identity is read. -/
def execSliceJoin (sl : AnySlice) (s : State) : Res :=
  let v := s.sliceOf sl
  if !s.domOn 10 || !v.up || s.present sl then .next s
  else
    let s := (s.setBit R.SLR_RING_PRESENT sl).wr (R.SLR_SSTAT_PRESENT sl) 1
    let s := s.wr (R.SLR_ID_KIND sl) (if sl.val < 4 then 1 else 2)
    let s := s.wr (R.SLR_ID_ISSUE sl) v.issue
    let s := (s.wr (R.SLR_FW_VERSION sl) v.version).wr (R.SLR_FW_BANK sl) v.bank
    .next (s.showMetPresent.raise (48 + sl))

/-! ### Slot actions -/

/-- A DO slot action at its slice (R53, R56, R217, R221, R231): suppressed in safe state and where the mode suppresses it,
not applied to a forced channel; else the commanded level is set, cleared or inverted. -/
def State.doAction (s : State) (sl ch action : Nat) : State :=
  let v := s.sliceOf sl
  if v.safe || s.suppressDo || bitOf v.cur.forced ch || s.isPwm sl ch then s
  else
    let b := match action with
      | 1 => true
      | 2 => false
      | _ => !bitOf v.levels ch
    (s.setSlice sl { v with levels := withBit v.levels ch b }).settleDo sl

/-- An action that executes at a slice; a slice whose frame was not good executes none and counts it (R218). A commit at the same
instant or an earlier one is applied first (R56). -/
def State.sliceAction (s : State) (p : Placed) : State :=
  let sl := p.target / 32
  let ch := p.target % 32
  let v := s.sliceOf sl
  if !v.up then s
  else if !v.cur.good then s.inc (R.SLR_ERRCNT_BAD sl)
  else
    match p.action with
    | 4 => s.startBurst (2 * sl + (ch - 16)) p.arg p.instant
    | 5 => s.setSlice sl { v with latch := v.latch ++ [(s.tstampNow, v.counts)] }
    | a => (if v.cur.commit ≠ 0 && decide (v.cur.instant ≤ p.instant) then s.applyCommit sl else s).doAction sl ch a

/-- SLOT_ACTION_EXECUTE (R53): the earliest placed action executes at its instant. -/
def execSlotActionExecute (s : State) : Res :=
  match s.phs.placed with
  | [] => .next s
  | p :: rest =>
    let s := { s with phs := { s.phs with placed := rest } }
    if p.action = 6 then
      let s := (s.wr R.PHS_EVLAST_SLOT p.slot).wr R.PHS_EVLAST_CODE p.arg
      .next ((s.incSat R.PHS_EVLAST_COUNT).raise 20)
    else if p.logic then .next (s.wr R.PHS_SHLATCH_VALUE s.shPhase64)
    else .next (s.sliceAction p)

end Sys2Proof.Machine
end

