-- ==== Sys2Proof/Machine/Slice.lean ====
section
/-! DEFINITION. The slices' own commands (chapter 9, R251, R265): boot, watchdog, outputs, digital inputs, DO conditions,
field supply, PWM periods and AO faults. -/

namespace Sys2Proof.Machine

/-- A metering slice begins or ends sampling on its watchdog oscillator (R251). -/
def State.setHoldover (s : State) (f : Nat) (b : Bool) : State := s.setFeeder f { s.feeder f with holdover := b }

/-- SLICE_WATCHDOG_TRIP (R221, R251): WDTRIP, which its status brings, and WDTRIPS; a field slice applies its safe values, a
metering slice samples on its watchdog oscillator and reports 0x0804; 0x0703 is owed until the slice is present again. A field slice
that has switched banks trips too where no good frame has come in time, booted or not (R411). -/
def execSliceWatchdogTrip (sl : AnySlice) (s : State) : Res :=
  let v := s.sliceOf sl
  if !v.up && !(v.switching && decide (sl.val < 4)) then .next s
  else
    let s := (s.setSlice sl { v with wdSafe := true, tripped := true, goodRun := 0, clearRun := 0 }).incSat
      (R.SLR_ERRCNT_WDTRIPS sl)
    let s := { s with ring := { s.ring with tripOwed := withBit s.ring.tripOwed sl true } }
    if sl.val < 4 then .next (((s.toSafe sl).showSafe sl).settleDo sl)
    else .next (((s.setHoldover (sl.val - 4) true).reportMet 0x0804 (sl.val - 4)).showSafe sl)

/-- SLICE_SAFE_EXIT (R221, R251): 40 good frames in a row since the boot end the boot's safe state, 40 with SAFE = 0 since the trip
the watchdog's; as a field slice leaves safe state its outputs take the values of the frame in effect, and a metering slice returns
to the ring clock after 40 good frames. -/
def execSliceSafeExit (sl : AnySlice) (s : State) : Res :=
  let v := s.sliceOf sl
  if !v.up then .next s
  else
    let w := { v with bootSafe := v.bootSafe && decide (v.goodRun < 40), wdSafe := v.wdSafe && decide (v.clearRun < 40) }
    let w := if v.safe && !w.safe && w.cur.good then takeMask w 0x3FF else w
    let s := (s.setSlice sl w).showSafe sl
    if sl.val < 4 then .next (s.settleDo sl)
    else if v.goodRun < 40 then .next s
    else .next (s.setHoldover (sl.val - 4) false)

/-- A metering slice restores its accumulators at its boot (R265): the newest complete write; where both copies fail, 0x0805, line
69, and 0. A copy that has failed is none from then on. Energy lost without a warning sets LOSS with 0x0806 and line 69, and its
time, `lost` in µs, is unmetered (DEDUCED, log entry 25). Its status brings both (R260). -/
def State.restoreAcc (s : State) (f lost bad : Nat) : State :=
  let d := s.feeder f
  let copies := match bad with
    | 0 => (d.saved, d.savedOld)
    | 1 => (d.savedOld, d.savedOld)
    | _ => ([], [])
  let s := s.setFeeder f { saved := copies.1, savedOld := copies.2, acc := copies.1, cal := d.cal, nc := d.freeNc f
                           gapClk := d.gapClk, unmetNs := d.unmetNs + lost * 1000
                           report := b2n (decide (0 < lost)) + b2n (bad == 2) * 2 }
  s.showUnmet f

/-- A slice as it boots: in safe state, everything else at the start, its field supply and its load currents as they are; after a
bank switch in a gap the channel cells hold their values, and a trip of the watchdog since stands (R411). A slice runs the bank that
is active in it (R244): its first boot tells which, and later ones only a switch changes it. -/
def SliceState.booted (v : SliceState) (issue version bank : Nat) : SliceState :=
  let w : SliceState :=
    { up := true, issue := issue, known := true, staged := v.staged
      version := if v.known then v.version else version, bank := if v.known then v.bank else bank
      below := v.below, fsLow := v.fsLow, fsMissing := v.fsMissing, sumover := v.sumover, volts := v.volts }
  if v.switching then
    { w with bootSafe := v.bootSafe, wdSafe := v.wdSafe, tripped := v.tripped, frameSafe := v.frameSafe, cur := v.cur, next := v.next, levels := v.levels, duty := v.duty
             onTime := v.onTime, ao := v.ao }
  else w

/-- SLICE_BOOT (R221, R223, R227, R265): the slice inserts its section, in safe state, its counters at zero. -/
def execSliceBoot (sl : AnySlice) (issue : Byte) (version : BitVec 16) (bank : Bool) (lost : DWord) (bad : Fin 3)
    (s : State) : Res :=
  if !(s.domOn 10 && s.domOn (sliceDom sl)) then .next s
  else
    let hold := (s.sliceOf sl).switching
    let s := s.setSlice sl ((s.sliceOf sl).booted issue.toNat version.toNat (b2n bank))
    if sl.val < 4 then
      if hold then .next ((s.showSafe sl).settleDo sl) else .next (((s.toSafe sl).showSafe sl).settleDo sl)
    else .next ((s.restoreAcc (sl.val - 4) lost.toNat bad.val).showSafe sl)

/-- TIMEBASE_ALIGN_ERROR (R224): SLR_ALIGN shows the error, SYNCERR is set, 0x0708. -/
def execTimebaseAlignError (sl : AnySlice) (err : Word) (s : State) : Res :=
  if (s.sliceOf sl).up then
    .next (((s.wr (R.SLR_ALIGN_ERR sl) err.toNat).wr (R.SLR_SSTAT_SYNCERR sl) 1).reportSlr 0x0708 sl 0)
  else .next s

/-- SLICE_OUTPUT_APPLY (R216, R217, R221): the commit of the frame in effect is applied at its instant. -/
def execSliceOutputApply (sl : FieldSlice) (s : State) : Res := .next (s.applyCommit sl)

/-! ### Digital inputs -/

/-- An edge is of the kind that a 2-bit selection names with 0 for rising, 1 for falling, and both above (CNTEDGE). -/
def countsEdge (sel : Nat) (level : Bool) : Bool :=
  match sel with
  | 0 => level
  | 1 => !level
  | _ => true

/-- STAMP selects the edge: 0 none, 1 rising, 2 falling, 3 both. -/
def stampsEdge (sel : Nat) (level : Bool) : Bool :=
  match sel with
  | 0 => false
  | 1 => level
  | 2 => !level
  | _ => true

/-- The debounce time of an input in µs (R226). -/
def State.debounce (s : State) (sl ch : Nat) : Nat := max 1 (s.rd (R.SLR_DICFG_DEBOUNCE sl ch))

/-- A stamp is queued, or dropped on a full FIFO (R228, R229, Table 9.4). -/
def State.stampEdge (s : State) (sl ch : Nat) (level : Bool) : State :=
  let v := s.sliceOf sl
  if 64 ≤ v.fifo.length then
    ((s.setSlice sl { v with dropped := true, stampSeq := (v.stampSeq + 1) % 65536 }).inc (R.SLR_STAMPDROP_COUNT sl)).reportSlr
      0x0707 sl ch
  else
    let d := s.debounce sl ch
    let t : Stamp :=
      { time := wrap 64 (s.tstampNow + 2 ^ 64 - d * 1000)
        phase := (s.rd R.PHS_PHASE_PHASE * 2 ^ 32 + s.phs.frac + 2 ^ 64 * d - s.rd R.PHS_INC_INC * (400 * d)) / 2 ^ 32 % 2 ^ 32
        chan := ch + b2n level * 16
        flags := b2n (!s.on R.TIM_STAT_SYNC) + b2n v.dropped * 2
        seq := v.stampSeq }
    s.setSlice sl { v with fifo := v.fifo ++ [t], stampSeq := (v.stampSeq + 1) % 65536, dropped := false }

/-- DI_DEBOUNCED_EDGE (R226 to R229). -/
def execDiDebouncedEdge (sl : FieldSlice) (ch : Fin 12) (level : Bool) (s : State) : Res :=
  let v := s.sliceOf sl
  if !v.up || bitOf v.di ch == level then .next s
  else
    let counts := if countsEdge (s.rd (R.SLR_DICFG_CNTEDGE sl ch)) level then
        v.counts.set ch ((v.counts.getD ch 0 + 1) % 2 ^ 32) else v.counts
    let s := s.setSlice sl { v with di := withBit v.di ch level, counts := counts }
    if stampsEdge (s.rd (R.SLR_DICFG_STAMP sl ch)) level then .next (s.stampEdge sl ch level) else .next s

/-! ### Digital outputs -/

/-- DO_THERMAL_SHUTDOWN (R233): LATCHED with THERM = 1 and 0x0705, else THERMAL and 0x0704; SHUTCNT counts. -/
def execDoThermalShutdown (sl : FieldSlice) (ch : Fin 8) (s : State) : Res :=
  let v := s.sliceOf sl
  if !v.up then .next s
  else
    let s := s.incSat (R.SLR_DOSTAT_SHUTCNT sl ch)
    if s.on (R.SLR_DOCFG_THERM sl ch) then
      .next (((s.setSlice sl { v with latched := withBit v.latched ch true }).reportSlr 0x0705 sl ch).settleDo sl)
    else .next (((s.setSlice sl { v with thermal := withBit v.thermal ch true }).reportSlr 0x0704 sl ch).settleDo sl)

/-- DO_THERMAL_RECOVER (R232). -/
def execDoThermalRecover (sl : FieldSlice) (ch : Fin 8) (s : State) : Res :=
  let v := s.sliceOf sl
  if v.up then .next ((s.setSlice sl { v with thermal := withBit v.thermal ch false }).settleDo sl) else .next s

/-- DO_CURRENT_LIMIT (R232). -/
def execDoCurrentLimit (sl : FieldSlice) (ch : Fin 8) (reached : Bool) (s : State) : Res :=
  let v := s.sliceOf sl
  if v.up then .next ((s.setSlice sl { v with limit := withBit v.limit ch reached }).settleDo sl) else .next s

/-- DO_OPEN_LOAD (R232): a channel's current has been below 5 mA for 10 ms, or has risen above 5 mA. -/
def execDoOpenLoad (sl : FieldSlice) (ch : Fin 8) (below : Bool) (s : State) : Res :=
  let v := s.sliceOf sl
  if v.up then .next ((s.setSlice sl { v with below := withBit v.below ch below }).settleDo sl) else .next s

/-- A write of SLR_DOREL: the LATCHED channels of its 1-bits are released (R232), but for those that the safe state keeps (R243). -/
def State.releaseDo (s : State) (sl bits : Nat) : State :=
  let v := s.sliceOf sl
  if v.up then (s.setSlice sl { v with latched := v.latched &&& ((255 - bits % 256) ||| s.heldLatched sl v) }).settleDo sl else s

/-- DO_RELEASE (R232). -/
def execDoRelease (sl : FieldSlice) (value : Word) (s : State) : Res := .next (s.releaseDo sl value.toNat)

/-- SUMOVER_CHANGE (R234): the slice's next status brings it. -/
def execSumoverChange (sl : FieldSlice) (above : Bool) (s : State) : Res :=
  let v := s.sliceOf sl
  if v.up then .next (s.setSlice sl { v with sumover := above }) else .next s

/-! ### Field supply (R235) -/

/-- FIELD_SUPPLY_LOW (R235): the slice's next status brings FS_LOW. -/
def execFieldSupplyLow (sl : FieldSlice) (low : Bool) (volts : BitVec 16) (s : State) : Res :=
  let v := s.sliceOf sl
  if v.up then .next (s.setSlice sl { v with fsLow := low, volts := volts.toNat }) else .next s

/-- FIELD_SUPPLY_MISSING (R232, R235): every DO is OFF_NOSUP at once; the slice's next status brings FS_MISSING with 0x0706. -/
def execFieldSupplyMissing (sl : FieldSlice) (volts : BitVec 16) (s : State) : Res :=
  let v := s.sliceOf sl
  if v.up then .next (s.setSlice sl { v with fsMissing := true, volts := volts.toNat }) else .next s

/-- FIELD_SUPPLY_RESTORED (R232, R235): the channels take their commanded levels. -/
def execFieldSupplyRestored (sl : FieldSlice) (volts : BitVec 16) (s : State) : Res :=
  let v := s.sliceOf sl
  if v.up then .next ((s.setSlice sl { v with fsMissing := false, volts := volts.toNat }).settleDo sl) else .next s

/-! ### PWM and AO -/

/-- PWM_PERIOD_START (R237): the newest code sets the on-time; in safe state the channel is fully on or off (R221). -/
def execPwmPeriodStart (sl : FieldSlice) (ch : Fin 8) (s : State) : Res :=
  let v := s.sliceOf sl
  if !v.up || v.safe || !s.isPwm sl ch then .next s
  else .next ((s.setSlice sl { v with onTime := v.onTime.set ch (s.pwmOn sl ch (v.duty.getD ch 0)) }).settleDo sl)

/-- AO_FAULT (R241): only a current-mode channel reports that its loop voltage cannot be held. -/
def execAoFault (sl : FieldSlice) (ch : Fin 2) (fault : Bool) (s : State) : Res :=
  let v := s.sliceOf sl
  if v.up then .next (s.setSlice sl { v with aoFault := withBit v.aoFault ch (fault && s.on (R.SLR_AOCFG_MODE sl ch)) })
  else .next s

end Sys2Proof.Machine
end

