-- ==== Sys2Proof/Machine/Loop.lean ====
section
/-! DEFINITION. The loop engine (chapter 8): parameters and writes, the sample of R192, handover, restart, LPW and LPR. All
arithmetic is f32, in the order written (R192). -/

namespace Sys2Proof.Machine

/-! ### Coefficients and declared state -/

/-- The place of a coefficient: loop, bank and index 5 * section + coefficient. -/
def coefKey (n bank i : Nat) : Nat := 256 * n + 128 * bank + i

/-- Coefficient `c` of section `k` in a live bank. -/
def State.coef (s : State) (n : Nat) (bank : Bool) (k c : Nat) : Nat := sget 0 s.lpe.coef (coefKey n (b2n bank) (5 * k + c))

/-- NSEC of a loop (Table 8.5). -/
def State.nsec (s : State) (n : Nat) : Nat := s.ldecl n 3 % 32

/-- The handover group of a loop; 0 for none. -/
def State.groupOf (s : State) (n : Nat) : Nat := slice 23 16 (s.ldecl n 3)

/-- The kind and the index of a loop's destination (Table 8.2). -/
def State.dstKind (s : State) (n : Nat) : Nat := s.ldecl n 1 / 2 ^ 28
/-- The index of a loop's destination. -/
def State.dstIdx (s : State) (n : Nat) : Nat := s.ldecl n 1 % 65536

/-- The safe value of a channel destination as the loop drives it (R199). -/
def State.dstSafe (s : State) (n : Nat) : Nat :=
  let i := s.dstIdx n
  if s.dstKind n = 0 then s.rd (R.SLR_AOCFG_SAFE_SAFE (i / 2) (i % 2))
  else if s.on (R.SLR_DOCFG_SAFE (i / 8) (i % 8)) then 0x3F800000 else 0

/-- The safe value of a channel destination, or 0.0 for a point (R209). -/
def State.outInit (s : State) (n : Nat) : Nat := if s.dstKind n < 2 then s.dstSafe n else 0

/-- A freeze section as it acts: one at or above NSEC names none (R194, R206, R212). -/
def frzActs (v : Nat) : Nat := if v < 16 then v else 16

/-- A loop in its declared state (R209). -/
def State.declaredLoop (s : State) (n : Nat) : LoopState :=
  let cfg := s.ldecl n 3
  { en := bitOf cfg 8, man := bitOf cfg 9, ramp := bitOf cfg 10, dir := bitOf cfg 11
    own := s.groupOf n == 0 || bitOf cfg 12
    spt := s.ldecl n 5, rate := s.ldecl n 6, mv := s.ldecl n 7
    omin := s.ldecl n 8, omax := s.ldecl n 9, hslew := s.ldecl n 10
    frz := if cfg / 2 ^ 24 < s.nsec n then cfg / 2 ^ 24 else 16
    out := s.outInit n, enPend := bitOf cfg 8 }

/-- The word of LPE_LSTAT of a loop (also selector STAT). -/
def lstat (l : LoopState) : Nat :=
  b2n l.en + b2n l.man * 2 + b2n l.own * 4 + b2n l.track * 8 + b2n l.slew.isSome * 16 + b2n (l.spw != l.spt) * 32 +
    b2n l.clhi * 64 + b2n l.cllo * 128 + b2n l.nanSeen * 256 + b2n l.srcq * 512 + b2n l.actb * 1024 +
    b2n l.swap.isSome * 2048 + b2n l.held * 4096

/-- LPE_LSTAT of a loop brought up to date. -/
def State.showLoop (s : State) (n : Nat) : State :=
  let w := lstat (s.loop n)
  let s := s.wr (R.LPE_LSTAT_EN n) w
  let s := s.wr (R.LPE_LSTAT_MAN n) (w / 2)
  let s := s.wr (R.LPE_LSTAT_OWN n) (w / 4)
  let s := s.wr (R.LPE_LSTAT_TRACK n) (w / 8)
  let s := s.wr (R.LPE_LSTAT_SLEW n) (w / 16)
  let s := s.wr (R.LPE_LSTAT_RAMPING n) (w / 32)
  let s := s.wr (R.LPE_LSTAT_CLHI n) (w / 64)
  let s := s.wr (R.LPE_LSTAT_CLLO n) (w / 128)
  let s := s.wr (R.LPE_LSTAT_NANSEEN n) (w / 256)
  let s := s.wr (R.LPE_LSTAT_SRCQ n) (w / 512)
  let s := s.wr (R.LPE_LSTAT_ACTB n) (w / 1024)
  let s := s.wr (R.LPE_LSTAT_SWPEND n) (w / 2048)
  s.wr (R.LPE_LSTAT_HELD n) (w / 4096)

/-- NAN and SLEW of LPE_STAT follow the claimed loops. -/
def State.showLpe (s : State) : State :=
  let s := s.wrB R.LPE_STAT_NAN (s.claimed.any fun n => (s.loop n).nanSeen)
  s.wrB R.LPE_STAT_SLEW (s.claimed.any fun n => (s.loop n).slew.isSome)

/-- Every claimed loop goes to its declared state (R209): parameters, banks, flags, ownership, as LPR then
reads them; writes not yet taken drop. -/
def State.loopsRestart (s : State) : State :=
  let s := { s with lpe := { s.lpe with loops := [], seen := [], writes := [] } }
  let s := s.claimed.foldl (fun s n =>
    let s := s.setLoop n (s.declaredLoop n)
    let bank := swindow s.lpe.declared (coefKey n 0 0) (coefKey (n + 1) 0 0)
    let live := sclear s.lpe.coef (coefKey n 0 0) (coefKey (n + 1) 0 0)
    let s := { s with lpe := { s.lpe with coef := bank.foldl (fun m (c : Nat × Nat) => sput 0 m c.1 c.2) live } }
    s.showLoop n) s
  { s with lpe := { s.lpe with seen := s.lpe.loops } }.showLpe

/-! ### Sources (R188) -/

/-- A point's VALUE as f32 (R188): .b a bool, .h unsigned, .w and .d signed, .f as it is, .g rounded. -/
def pointF32 (ty v : Nat) : Nat :=
  match ty with
  | 0 => if v % 256 = 0 then 0 else f32.ofInt 0 1
  | 1 => f32.ofInt 0 (v % 65536 : Nat)
  | 2 => f32.ofInt 0 (toSigned 32 v)
  | 4 => v % 2 ^ 32
  | 5 => f32.ofVal 0 (f64.unpack (v % 2 ^ 64))
  | _ => f32.ofInt 0 (toSigned 64 v)

/-- A bad bit of Table 4.5: Q_INIT, Q_STALE, Q_RANGE, Q_FAULT or Q_UNDELIVERED. -/
def badBits (q : Nat) : Bool := q % 16 != 0 || bitOf q 5

/-- A loop's source at a sample: the state after the read, pv and SRCQ (Table 8.1). Poison in a point counts as a
non-finite value (R279). -/
def State.loopSource (s : State) (n : Nat) : State × Nat × Bool :=
  let w := s.ldecl n 0
  let i := w % 65536
  match w / 2 ^ 28 with
  | 0 =>
    let sl := i / 2 % 4
    let code := sget 0 s.ring.aiCode (2 * sl + i % 2) - 1
    (s, s.aiValue sl (i % 2) code, s.aiRange sl (i % 2) code || s.aiOpen sl (i % 2) code || bitOf (s.rd (R.SLR_SSTAT_ANFLT sl)) (i % 2) ||
      !s.present sl || s.on R.SLR_RING_BROKEN)
  | 1 =>
    let r := s.readChecked 6 (pointAddr i) 12
    let ty := match r.1.decl i with
      | some p => p.ty
      | none => 3
    (r.1, if r.2 then f32.nan else pointF32 ty (r.1.ptValue i), badBits (r.1.ptQual i))
  | _ =>
    let f := qtyFeeder i
    let v := if i % 4096 = 0x4A6 then s.rd (R.MET_FASTP_FASTP f) else s.rd (R.MET_VALUE_VALUE f (qtyPhase i) (qtyNum i - 0xA0))
    (s, v, s.metQual i != 0)

/-! ### The sample (R192 to R204) -/

/-- FMIN(FMAX(v, OMIN), OMAX) (R192). -/
def LoopState.lim (l : LoopState) (v : Nat) : Nat := f32.minMax false (f32.minMax true v l.omin) l.omax

/-- Ts as an f32: P * 25 µs (R186). -/
def tsOf (period : Nat) : Nat := f32.div (f32.ofInt 0 (period * 25 : Nat)) (f32.ofInt 0 1000000)

/-- `a < b` as f32. -/
def flt (a b : Nat) : Bool := (f32.unpack a).cmp (f32.unpack b) == some .lt

/-- `v` is a positive finite number. -/
def fpos (v : Nat) : Bool := (f32.unpack v).finite && flt 0 v

/-- One step from `a` toward `b` at a rate per second, stopping at `b`; a rate that is 0, negative or non-finite goes there
at once (R193, R203). -/
def stepToward (a b rate ts : Nat) : Nat :=
  if !fpos rate then b
  else
    let d := f32.mul rate ts
    if flt a b then
      let c := f32.add a d
      if flt c b then c else b
    else
      let c := f32.sub a d
      if flt b c then c else b

/-- Whether a pattern is a finite number. -/
def fin (v : Nat) : Bool := (f32.unpack v).finite

/-- The cascade's results: s1 and s2 to come, inputs and outputs of the sections, RAW, and whether all was finite. -/
structure Cascade where
  n1 : List Nat
  n2 : List Nat
  xs : List Nat
  ys : List Nat
  raw : Nat
  ok : Bool

/-- The cascade in transposed direct form II (R192, R194). -/
def cascade (co : Nat → Nat → Nat) (s1 s2 : List Nat) : List Nat → Nat → Cascade
  | [], x => ⟨[], [], [], [], x, true⟩
  | k :: ks, x =>
    let y := f32.add (f32.mul (co k 0) x) (s1.getD k 0)
    let a := f32.add (f32.sub (f32.mul (co k 1) x) (f32.mul (co k 3) y)) (s2.getD k 0)
    let b := f32.sub (f32.mul (co k 2) x) (f32.mul (co k 4) y)
    let r := cascade co s1 s2 ks y
    ⟨a :: r.n1, b :: r.n2, x :: r.xs, y :: r.ys, r.raw, fin y && fin a && fin b && r.ok⟩

/-- rescale(v) (R196): s1 of each section from its latest input and output, s2 zero. -/
def rescale (co : Nat → Nat → Nat) (nsec v : Nat) (xl yl : List Nat) : List Nat :=
  (List.range nsec).map fun k =>
    f32.sub (if k + 1 < nsec then yl.getD k 0 else v) (f32.mul (co k 0) (xl.getD k 0))

/-- The held value of a loop's destination, were it the owner (R199): the safe value where the mode calls for it, else the
forced value of its mirror point. -/
def State.heldValue (s : State) (n : Nat) : Option Nat :=
  if 2 ≤ s.dstKind n then none
  else if s.safeMode then some (s.dstSafe n)
  else (s.forceOf (s.ldecl n 4)).map (· % 2 ^ 32)

/-- The members of a loop's handover group other than itself. -/
def State.rivals (s : State) (n : Nat) : List Nat :=
  s.claimed.filter fun m => m != n && s.groupOf n != 0 && s.groupOf m == s.groupOf n

/-- A handover request is ignored: fault 0x0602 and line 42 (R204). -/
def State.ignoreOwn (s : State) : State := (s.report R.LPE_LASTFAULT_FAULT 0x0602).raise 42

/-- A non-finite sample (R200): NANSEEN; the first while LPE_STAT.NAN is clear latches the loop, reports 0x0601 and raises
line 40; every one counts (DEDUCED, log entry 30). -/
def State.nanSample (s : State) (n : Nat) : State :=
  let s := s.incSat R.LPE_NANLAST_COUNT
  let l := s.loop n
  let s := s.setLoop n { l with nanSeen := true }
  if s.on R.LPE_STAT_NAN then s
  else (((s.wr R.LPE_NANLAST_LOOP n).wr R.LPE_STAT_NAN 1).report R.LPE_LASTFAULT_FAULT 0x0601).raise 40

/-- A sample of a disabled loop (R192, R202, R204). -/
def State.disabledSample (s : State) (n : Nat) (l : LoopState) : State :=
  let held := if l.own then s.heldValue n else none
  let out := match held with
    | some v => v
    | none => if s.dstKind n < 2 then s.dstSafe n else l.out
  let s := s.setLoop n { l with out := out, held := held.isSome, ownReq := false, slew := none }
  let s := if l.ownReq then s.ignoreOwn else s
  if l.slew.isSome then s.raise 41 else s

/-- How an enabled sample sets its output: the value, whether it tracks, whether it clamps, and the slew that stays. -/
structure Output where
  out : Nat
  track : Bool
  hi : Bool
  lo : Bool
  slew : Option Nat
  ended : Bool

/-- The output step of R192 for a loop that owns or now takes over its destination, or does neither. -/
def outputStep (l : LoopState) (own : Bool) (held : Option Nat) (takeover : Option Nat) (ts raw : Nat) : Output :=
  let g := if l.man then l.lim l.mv else l.lim raw
  let slewTo := fun start goal =>
    let d := stepToward start goal l.hslew ts
    if d = goal then (⟨d, true, false, false, none, true⟩ : Output) else ⟨d, true, false, false, some goal, false⟩
  let free :=
    if l.enPend && own && takeover.isNone then (⟨l.out, true, false, false, none, false⟩ : Output)
    else if l.man then ⟨l.lim l.mv, true, false, false, none, false⟩
    else ⟨l.lim raw, false, flt l.omax raw, flt raw l.omin, none, false⟩
  match own, held with
  | true, some v => ⟨v, true, false, false, none, l.slew.isSome⟩
  | true, none =>
    match takeover, l.slew with
    | some d0, _ => slewTo d0 g
    | none, some goal => slewTo l.out goal
    | none, none => free
  | false, _ => free

/-- An enabled sample (R192 to R204). -/
def State.enabledSample (s : State) (n : Nat) (l : LoopState) : State :=
  let nsec := s.nsec n
  let ts := tsOf (s.ldecl n 2 % 65536)
  let spw := if l.enPend || (l.sptPend && l.ramp) then l.pv
    else if l.sptPend then l.spt
    else if l.spw = l.spt then l.spw
    else stepToward l.spw l.spt l.rate ts
  let x := if l.dir then f32.sub l.pv spw else f32.sub spw l.pv
  let actb := if l.swap.isSome then !l.actb else l.actb
  let co := s.coef n actb
  let resc := l.swap == some true
  let s1 := if resc then rescale co nsec l.out l.xl l.yl else l.s1
  let s2 := if resc then [] else l.s2
  let c := cascade co s1 s2 (List.range nsec) x
  let old := if l.ownReq && !l.own then (s.rivals n).find? fun m => (s.loop m).own else none
  let own := l.own || old.isSome
  let held := if own then s.heldValue n else none
  let o := outputStep l own held (old.map fun m => (s.loop m).out) ts c.raw
  let slewFin := match o.slew with
    | some g => fin g
    | none => true
  let ok := fin l.pv && fin spw && fin x && c.ok && fin c.raw && (!l.man || fin l.mv) && fin o.out && slewFin
  if !ok then (s.setLoop n l).nanSample n
  else
    let clamped := o.hi || o.lo
    let keep := fun (now was : List Nat) =>
      if clamped && decide (l.frz < nsec) then now.set l.frz (was.getD l.frz 0) else now
    let t1 := if o.track then rescale co nsec o.out c.xs c.ys else keep c.n1 s1
    let t2 := if o.track then [] else keep c.n2 s2
    let sat := fun v => min (2 ^ 32 - 1) (v + 1)
    let r0 := s
    let s := match old with
      | some m => s.setLoop m { s.loop m with own := false, slew := none }
      | none => s
    let s := s.setLoop n { l with
      spw := spw, err := x, raw := c.raw, out := o.out, track := o.track, clhi := o.hi, cllo := o.lo
      actb := actb, held := held.isSome, own := own, slew := o.slew
      s1 := t1, s2 := t2, xl := c.xs, yl := c.ys
      cltime := if clamped then sat l.cltime else l.cltime
      clrun := if clamped then sat l.clrun else 0
      nsamp := (l.nsamp + 1) % 2 ^ 32
      enPend := false, sptPend := false, swap := none, ownReq := false }
    let oldSlew := match old with
      | some m => held.isSome && (r0.loop m).slew.isSome
      | none => false
    if o.ended || oldSlew then s.raise 41 else s

/-- LOOP_SAMPLE: one sample of a loop (R192); the output of a point destination goes to its live copy (Table 8.2). -/
def State.sampleLoop (s : State) (n : Nat) : State :=
  let r := s.loopSource n
  let l := { r.1.loop n with pv := r.2.1, srcq := r.2.2 }
  if !l.en then (r.1.disabledSample n l).showLoop n
  else
    let before := (r.1.loop n).nsamp
    let s := (r.1.enabledSample n l).showLoop n
    if s.dstKind n = 2 && (s.loop n).nsamp != before then s.putLive (s.dstIdx n) (s.loop n).out else s

/-! ### Writes taken at a frame start (R187, R206) -/

/-- One LPW write taken. Disabling a slewing owner ends the slew (R204). -/
def State.takeWrite (s : State) (w : LoopWrite) : State :=
  let n := w.loop
  let l := s.loop n
  let v := w.value % 2 ^ 32
  let b := bitOf v 0
  match w.sel with
  | 0x00 =>
    let t := s.setLoop n { l with en := b, enPend := b && (l.enPend || !l.en), slew := if b then l.slew else none }
    if !b && l.slew.isSome then t.raise 41 else t
  | 0x01 => s.setLoop n { l with man := b }
  | 0x02 => s.setLoop n { l with ramp := b }
  | 0x03 => s.setLoop n { l with dir := b }
  | 0x04 =>
    if !b then s
    else if s.groupOf n = 0 then s.ignoreOwn
    else if l.own then s
    else if !l.en then s.ignoreOwn
    else s.setLoop n { l with ownReq := true }
  | 0x05 => s.setLoop n { l with swap := some (v != 0) }
  | 0x06 =>
    let l := if b then { l with nanSeen := false } else l
    s.setLoop n (if bitOf v 1 then { l with cltime := 0, clrun := 0 } else l)
  | 0x10 => s.setLoop n { l with spt := v, sptPend := l.sptPend || v != l.spt }
  | 0x11 => s.setLoop n { l with rate := v }
  | 0x12 => s.setLoop n { l with mv := v }
  | 0x13 => s.setLoop n { l with omin := v }
  | 0x14 => s.setLoop n { l with omax := v }
  | 0x15 => s.setLoop n { l with hslew := v }
  | 0x16 => s.setLoop n { l with frz := frzActs v }
  | sel =>
    if 0x40 ≤ sel && sel ≤ 0x8F then
      { s with lpe := { s.lpe with coef := sput 0 s.lpe.coef (coefKey n (b2n !l.actb) (sel - 0x40)) v } }
    else s

/-- LOOP_FRAME (R185 to R187, R210): the index steps, staged writes are taken in order, and the loops due are sampled in
loop order; with the LPE domain off no frame runs, and during an activation gap no sample is taken. -/
def execLoopFrame (s : State) : Res :=
  if !s.domOn 4 then .next s
  else
    let h := max 1 (s.rd R.LPE_HYPER_H)
    let idx := if s.lpe.fresh then 0 else (s.rd R.LPE_HIDX_IDX + 1) % h
    let s := (s.wr R.LPE_HIDX_IDX idx).inc R.LPE_FRAME_COUNT
    let ws := s.lpe.writes
    let s := { s with lpe := { s.lpe with fresh := false, writes := [] } }
    let s := (ws.foldl State.takeWrite s).showLpe
    let s := { s with lpe := { s.lpe with seen := s.lpe.loops } }
    if s.inGap then .next s
    else
      let due := s.claimed.filter fun n => idx % max 1 (s.ldecl n 2 % 65536) == s.ldecl n 2 / 65536
      .next (due.foldl State.sampleLoop s).showLpe

/-! ### Supervisor access (R212) -/

/-- A write of a word of LPE_LDECL outside a load: in STOP, the six initial values and EN, MAN, RAMP, DIR and FRZ. -/
def State.writeLdecl (s : State) (n w v : Nat) : State :=
  if s.mode ≠ 0 then s
  else if 5 ≤ w && w ≤ 10 then s.wr (R.LPE_LDECL_WORD n w) v
  else if w = 3 then
    let old := s.ldecl n 3
    s.wr (R.LPE_LDECL_WORD n 3) (old % 256 + slice 11 8 v * 2 ^ 8 + slice 23 12 old * 2 ^ 12 + v / 2 ^ 24 % 256 * 2 ^ 24)
  else s

/-- LPE_LDECL_WRITE (R212). -/
def execLpeLdeclWrite (loop : Fin 256) (word : BitVec 4) (value : Word) (s : State) : Res :=
  .next (s.writeLdecl loop.val word.toNat value.toNat)

/-- The coefficient at LPE_CADDR. -/
def State.readCdata (s : State) : Nat :=
  let i := s.rd R.LPE_CADDR_INDEX
  if 80 ≤ i then 0
  else sget 0 (if s.on R.LPE_CADDR_DECL then s.lpe.declared else s.lpe.coef)
    (coefKey (s.rd R.LPE_CADDR_LOOP) (s.rd R.LPE_CADDR_BANK) i)

/-- A write of LPE_CDATA, in STOP (RWL). -/
def State.writeCdata (s : State) (v : Nat) : State :=
  let i := s.rd R.LPE_CADDR_INDEX
  let k := coefKey (s.rd R.LPE_CADDR_LOOP) (s.rd R.LPE_CADDR_BANK) i
  if s.mode ≠ 0 || 80 ≤ i then s
  else if s.on R.LPE_CADDR_DECL then { s with lpe := { s.lpe with declared := sput 0 s.lpe.declared k (v % 2 ^ 32) } }
  else { s with lpe := { s.lpe with coef := sput 0 s.lpe.coef k (v % 2 ^ 32) } }

/-- LPE_CDATA_ACCESS (R212). -/
def execLpeCdataAccess (write : Option Word) (s : State) : Res :=
  match write with
  | some v => .next (s.writeCdata v.toNat)
  | none => .next { s with busData := s.readCdata }

/-! ### LPW and LPR (R158, R206) -/

/-- LPW accepts the selector (Table 8.4). -/
def selWritable (sel : Nat) : Bool := decide (sel ≤ 6) || (decide (0x10 ≤ sel) && decide (sel ≤ 0x16)) ||
  (decide (0x40 ≤ sel) && decide (sel ≤ 0x8F))

/-- LPR accepts the selector. -/
def selDefined (sel : Nat) : Bool := selWritable sel || (decide (0x20 ≤ sel) && decide (sel ≤ 0x28)) ||
  (decide (0x90 ≤ sel) && decide (sel ≤ 0xFF))

/-- A write staged behind those before it; of writes in one engine clock the lower-numbered engine's comes first (R161, R187). -/
def stageWrite (w : LoopWrite) : List LoopWrite → List LoopWrite
  | [] => [w]
  | x :: t => if x.clk = w.clk && decide (w.eng < x.eng) then w :: x :: t else x :: stageWrite w t

/-- LPW: the selector is checked first, then the loop; the write waits for the next frame start (R158, R187). -/
def lpwOp (e : Eng) (w : FmtA) (sel : Nat) (s : State) : Res :=
  engRun e (packA 0x62 w) 4 (fun s =>
    let n := s.x e w.a
    if !selWritable sel then .trap s 0x0501 n
    else if 256 ≤ n || !s.on (R.LPE_LDECL_CL_CLAIMED n) then .trap s 0x050F n
    else .done { s with lpe := { s.lpe with writes := stageWrite ⟨n, sel, s.x e w.b % 2 ^ 32, e, s.clk⟩ s.lpe.writes } } 4) s

/-- LPW (R158). -/
def execLpw (e : Eng) (w : FmtA) (s : State) : Res := lpwOp e w w.fn.toNat s

/-- LPW to selector OWN (R203). -/
def execLpwOwn (e : Eng) (w : FmtA) (s : State) : Res := lpwOp e w 0x04 s

/-- LPW to selector SWAP (R197). -/
def execLpwSwap (e : Eng) (w : FmtA) (s : State) : Res := lpwOp e w 0x05 s

/-- LPW to selector CLR (R206). -/
def execLpwClr (e : Eng) (w : FmtA) (s : State) : Res := lpwOp e w 0x06 s

/-- What LPR returns (Table 8.4): parameters as taken at the frame's start, computed values as the latest sample before it
left them (R187). -/
def State.lprValue (s : State) (n sel : Nat) : Nat :=
  let l := s.loop n
  let c := sget ({} : LoopState) s.lpe.seen n
  match sel with
  | 0x00 => b2n l.en
  | 0x01 => b2n l.man
  | 0x02 => b2n l.ramp
  | 0x03 => b2n l.dir
  | 0x04 => b2n c.own
  | 0x05 => b2n c.actb
  | 0x06 => 0
  | 0x10 => l.spt
  | 0x11 => l.rate
  | 0x12 => l.mv
  | 0x13 => l.omin
  | 0x14 => l.omax
  | 0x15 => l.hslew
  | 0x16 => if l.frz < 16 then l.frz else 0xFF
  | 0x20 => c.spw
  | 0x21 => c.pv
  | 0x22 => c.err
  | 0x23 => c.out
  | 0x24 => c.raw
  | 0x25 => lstat c
  | 0x26 => c.cltime
  | 0x27 => c.clrun
  | 0x28 => c.nsamp
  | _ =>
    if sel ≤ 0x8F then sget 0 s.lpe.coef (coefKey n (b2n !c.actb) (sel - 0x40))
    else if sel ≤ 0xDF then sget 0 s.lpe.coef (coefKey n (b2n c.actb) (sel - 0x90))
    else if sel % 2 = 0 then c.s1.getD ((sel - 0xE0) / 2) 0 else c.s2.getD ((sel - 0xE0) / 2) 0

/-- LPR (R158, R206): an unclaimed loop reads 0. -/
def execLpr (e : Eng) (w : FmtA) (s : State) : Res :=
  engRun e (packA 0x63 w) 4 (fun s =>
    let n := s.x e w.a
    let sel := w.fn.toNat
    if !selDefined sel then .trap s 0x0501 n
    else if 256 ≤ n then .trap s 0x050F n
    else .done (s.setX e w.d (if s.on (R.LPE_LDECL_CL_CLAIMED n) then s.lprValue n sel else 0)) 4) s

end Sys2Proof.Machine
end

