-- ==== Sys2Proof/Machine/Admission.lean ====
section
/-! DEFINITION. What the module computes from an image's code (R76, R135, R136, R151, R152), the checks 6 to 8 of
Table 7.6, and admission against the five ledgers (R60 to R78). -/

namespace Sys2Proof.Machine

/-! ### Costs (Tables 6.1 to 6.14) -/

/-- `a` at .w or .f, `b` at .d or .g. -/
def byTy (ty : BitVec 3) (a b : Nat) : Nat := if ty.toNat = 3 || ty.toNat = 5 then b else a

/-- A store narrower than a codeword costs 3 ticks, a wider one 1 (R134). -/
def storeCost (ty : BitVec 3) : Nat := if ty.toNat ≤ 1 then 3 else 1

/-- The service costs of Table 6.11. -/
def sysCost (n : Nat) : Nat :=
  match n with
  | 0x1 => 3
  | 0x2 => 4
  | 0x3 => 4
  | 0x4 => 4
  | 0x20 => 4
  | 0x30 => 6
  | 0x40 => 8
  | _ => 2

/-- The published ticks of an instruction that neither branches nor calls, WIN at its declared bound, and a register-base
access as one in register space (R140, R142, R162). -/
def costOf : Instr → Nat
  | .sti _ w _ => storeCost w.ty
  | .stl _ w _ => storeCost w.ty
  | .ld _ _ _ _ => 13
  | .st _ _ w _ => storeCost w.ty + 12
  | .ldp _ _ => 2
  | .stp _ _ => 3
  | .mul _ w => byTy w.ty 2 3
  | .div _ w => byTy w.ty 18 34
  | .fadd _ w => byTy w.ty 2 3
  | .fsub _ w => byTy w.ty 2 3
  | .fmul _ w => byTy w.ty 2 3
  | .fdiv _ w => byTy w.ty 10 16
  | .fsqrt _ w => byTy w.ty 12 20
  | .fmin _ _ => 2
  | .fmax _ _ => 2
  | .fcmp _ _ => 2
  | .cvt _ _ => 2
  | .ret _ _ => 4
  | .win _ _ _ _ bound => 40 + 96 * bound.toNat
  | .tmrTon _ _ _ => 4
  | .tmrTof _ _ _ => 4
  | .tmrTp _ _ _ => 4
  | .tmrElapsed _ _ _ => 4
  | .edge _ _ => 2
  | .sch _ _ => 8
  | .lpw _ _ => 4
  | .lpwOwn _ _ => 4
  | .lpwSwap _ _ => 4
  | .lpwClr _ _ => 4
  | .lpr _ _ => 4
  | .tly _ _ => 6
  | .evtest _ _ _ => 3
  | .evtake _ _ _ => 4
  | .evtakelo _ _ _ => 4
  | .evtakehi _ _ _ => 4
  | .tnow _ _ _ => 2
  | .pnow _ _ _ => 2
  | .cycnow _ _ _ => 2
  | .ticks _ _ _ => 2
  | .self _ _ _ => 2
  | .qualset _ _ _ => 4
  | .flacon _ _ _ => 6
  | .stopreq _ _ _ => 8
  | .call _ _ _ => 6
  | .callIndirect _ _ _ => 6
  | .callf _ _ _ => 5
  | .callfIndirect _ _ _ => 5
  | .illegalInstruction _ _ => 0
  | _ => 1

/-- The instruction traps whenever it executes: an unassigned opcode, a type code that it does not accept, a selector that is
not defined (R120, R158). -/
def alwaysIllegal : Instr → Bool
  | .illegalInstruction _ _ => true
  | .ldi _ w _ => !memTy w.ty
  | .sti _ w _ => !memTy w.ty
  | .ldl _ w _ => !memTy w.ty
  | .stl _ w _ => !memTy w.ty
  | .ldk _ w _ => !memTy w.ty
  | .ld _ _ w _ => !memTy w.ty
  | .st _ _ w _ => !memTy w.ty
  | .add _ w => !intTy w.ty
  | .sub _ w => !intTy w.ty
  | .neg _ w => !intTy w.ty
  | .abs _ w => !intTy w.ty
  | .mul _ w => !intTy w.ty
  | .div _ w => !intTy w.ty
  | .cmp _ w => !intTy w.ty
  | .and _ w => !intTy w.ty
  | .or _ w => !intTy w.ty
  | .xor _ w => !intTy w.ty
  | .not _ w => !intTy w.ty
  | .shl _ w => !intTy w.ty
  | .shr _ w => !intTy w.ty
  | .asr _ w => !intTy w.ty
  | .rot _ w => !intTy w.ty
  | .bit _ w => !intTy w.ty
  | .set _ w => !intTy w.ty
  | .clr _ w => !intTy w.ty
  | .lim _ w => !intTy w.ty
  | .fadd _ w => !floatTy w.ty
  | .fsub _ w => !floatTy w.ty
  | .fmul _ w => !floatTy w.ty
  | .fdiv _ w => !floatTy w.ty
  | .fsqrt _ w => !floatTy w.ty
  | .fmin _ w => !floatTy w.ty
  | .fmax _ w => !floatTy w.ty
  | .fcmp _ w => !floatTy w.ty
  | .cvt _ w => decide (w.ty.toNat < 2) || decide (5 < w.ty.toNat) || decide (w.fn.toNat % 8 < 2) ||
      decide (5 < w.fn.toNat % 8)
  | .tly _ w => decide (w.ty.toNat < 2) || decide (5 < w.ty.toNat)
  | .lpw _ w => !selWritable w.fn.toNat
  | .lpr _ w => !selDefined w.fn.toNat
  | _ => false

/-- A path through the code ends at this instruction: the return, or a trap that it always takes. -/
def endsPath : Instr → Bool
  | .ret _ _ => true
  | .sysUndefined _ _ _ _ => true
  | i => alwaysIllegal i

/-- The general registers that an instruction writes. -/
def regsWritten : Instr → List Nat
  | .ldi _ w _ => [w.d.toNat]
  | .ldl _ w _ => [w.d.toNat]
  | .ldk _ w _ => [w.d.toNat]
  | .ld _ _ w _ => [w.d.toNat]
  | .ldp _ w => [w.d.toNat]
  | .add _ w => [w.d.toNat]
  | .sub _ w => [w.d.toNat]
  | .neg _ w => [w.d.toNat]
  | .abs _ w => [w.d.toNat]
  | .mul _ w => [w.d.toNat]
  | .div _ w => [w.d.toNat]
  | .mov _ w => [w.d.toNat]
  | .and _ w => [w.d.toNat]
  | .or _ w => [w.d.toNat]
  | .xor _ w => [w.d.toNat]
  | .not _ w => [w.d.toNat]
  | .shl _ w => [w.d.toNat]
  | .shr _ w => [w.d.toNat]
  | .asr _ w => [w.d.toNat]
  | .rot _ w => [w.d.toNat]
  | .bit _ w => [w.d.toNat]
  | .set _ w => [w.d.toNat]
  | .clr _ w => [w.d.toNat]
  | .sel _ w => [w.d.toNat]
  | .lim _ w => [w.d.toNat]
  | .addImm _ w _ => [w.d.toNat]
  | .andImm _ w _ => [w.d.toNat]
  | .orImm _ w _ => [w.d.toNat]
  | .xorImm _ w _ => [w.d.toNat]
  | .movi _ w _ => [w.d.toNat]
  | .fadd _ w => [w.d.toNat]
  | .fsub _ w => [w.d.toNat]
  | .fmul _ w => [w.d.toNat]
  | .fdiv _ w => [w.d.toNat]
  | .fsqrt _ w => [w.d.toNat]
  | .fmin _ w => [w.d.toNat]
  | .fmax _ w => [w.d.toNat]
  | .cvt _ w => [w.d.toNat]
  | .tmrTon _ w _ => [w.d.toNat]
  | .tmrTof _ w _ => [w.d.toNat]
  | .tmrTp _ w _ => [w.d.toNat]
  | .tmrElapsed _ w _ => [w.d.toNat]
  | .edge _ w => [w.d.toNat]
  | .lpr _ w => [w.d.toNat]
  | .evtest _ d _ => [d.toNat]
  | .evtake _ d _ => [d.toNat]
  | .evtakelo _ d _ => [d.toNat]
  | .evtakehi _ d _ => [d.toNat]
  | .tnow _ d _ => [d.toNat]
  | .pnow _ d _ => [d.toNat]
  | .cycnow _ d _ => [d.toNat]
  | .ticks _ d _ => [d.toNat]
  | .self _ d _ => [d.toNat]
  | .flacon _ d _ => [d.toNat]
  | .call _ _ _ => [14, 15]
  | .callIndirect _ _ _ => [14, 15]
  | .callf _ _ _ => [14, 15]
  | .callfIndirect _ _ _ => [14, 15]
  | .loop _ w _ _ => [w.a.toNat]
  | _ => []

/-! ### One body of code -/

/-- The code that the load checks read: sections, code store bytes and types. -/
structure CodeView where
  ss : List Section
  cm : Sparse (BitVec 8)
  types : List Nat

/-- The instruction at a code store address; past the store, nothing. -/
def CodeView.at (v : CodeView) (a : Nat) : Instr :=
  if a + 4 > 0x800000 then .illegalInstruction 0 0
  else decodeZ 0 (BitVec.ofNat 32 (readLE v.cm a 4)) (BitVec.ofNat 32 (readLE v.cm (a + 4) 4))

/-- The address after the instruction at `a`. -/
def CodeView.after (v : CodeView) (a : Nat) : Nat := a + wordLen (BitVec.ofNat 32 (readLE v.cm a 4))

/-- The target of a format B instruction at `a`, as a signed address (R151). -/
def targetOf (a : Nat) (w : FmtB) : Int := (a : Int) + 4 * w.off.toInt

/-- Where control can go from the instruction at `a`, each with the ticks it costs to go there; a taken branch out of the
code store goes nowhere. -/
def CodeView.succs (v : CodeView) (a : Nat) : List (Nat × Nat) :=
  match v.at a with
  | .b _ w => if 0 ≤ targetOf a w && targetOf a w < 0x800000 then [((targetOf a w).toNat, 2)] else []
  | .bc _ w =>
    (if 0 ≤ targetOf a w && targetOf a w < 0x800000 then [((targetOf a w).toNat, 2)] else []) ++ [(v.after a, 1)]
  | i => if endsPath i then [] else [(v.after a, costOf i)]

/-- What a path that stops at the instruction at `a` costs, where one can: its end, or a branch out of the code store. A word that
assigns no instruction ends a path at no cost (DESIGN CHOICE, log entry 65). -/
def CodeView.endCost (v : CodeView) (a : Nat) : Option Nat :=
  match v.at a with
  | .b _ w => if 0 ≤ targetOf a w && targetOf a w < 0x800000 then none else some 2
  | .bc _ w => if 0 ≤ targetOf a w && targetOf a w < 0x800000 then none else some 2
  | .sysUndefined _ _ _ _ => some 1
  | i => if endsPath i then some (costOf i) else none

/-- Where control can go from `a`, the LOOP's back edge included. -/
def CodeView.nexts (v : CodeView) (a : Nat) : List Nat :=
  (match v.at a with
   | .loop _ w _ _ => if 0 ≤ targetOf a w && targetOf a w < 0x800000 then [(targetOf a w).toNat] else []
   | _ => []) ++ (v.succs a).map (·.1)

/-- The addresses that control can reach, in rising order; `fuel` bounds the visits. -/
def CodeView.reach (v : CodeView) : Nat → List Nat → Sparse Nat → Sparse Nat
  | 0, _, seen => seen
  | _, [], seen => seen
  | fuel + 1, a :: work, seen =>
    if sget 0 seen a = 1 then CodeView.reach v fuel work seen
    else CodeView.reach v fuel (v.nexts a ++ work) (sput 0 seen a 1)

/-- The instructions of the body that begins at `entry`, by address. -/
def CodeView.body (v : CodeView) (entry : Nat) : List Nat := (v.reach (2 ^ 25) [entry] []).map (·.1)

/-- The descriptors that a call can call; none where it names no descriptor or no target list (R129, R152). -/
def CodeView.callees (v : CodeView) (i : Instr) : Option (List Nat) :=
  let direct := fun (x : Word) => if v.types.contains x.toNat then some [x.toNat] else none
  let listed := fun (x : Word) => if targetList v.ss v.cm v.types x.toNat then some (targetsOf v.cm x.toNat) else none
  match i with
  | .call _ _ x => direct x
  | .callf _ _ x => direct x
  | .callIndirect _ _ x => listed x
  | .callfIndirect _ _ x => listed x
  | _ => some []

/-- The instruction at `a` of a body breaks a rule that bounds the code (R76, R135, R151, R152). -/
def CodeView.unbounded (v : CodeView) (body : List Nat) (a : Nat) : Bool :=
  match v.at a with
  | .b _ w => decide (w.off.toInt ≤ 0)
  | .bc _ w => decide (w.off.toInt ≤ 0)
  | .loop _ w _ bound =>
    let t := targetOf a w
    bound == 0 || decide (0 ≤ w.off.toInt) || decide (t < 0) ||
      body.any fun x => decide (t ≤ x) && decide (x < a) &&
        ((regsWritten (v.at x)).contains w.a.toNat ||
          match v.at x with
          | .b _ u => decide (targetOf x u < t) || decide ((a : Int) < targetOf x u)
          | .bc _ u => decide (targetOf x u < t) || decide ((a : Int) < targetOf x u)
          | _ => false)
  | i => (v.callees i).isNone

/-! ### The longest path -/

/-- The larger of two costs, where there are any. -/
def maxOpt : Option Nat → Option Nat → Option Nat
  | none, b => b
  | a, none => a
  | some a, some b => some (max a b)

/-- A cost with more in front. -/
def addOpt (c : Nat) : Option Nat → Option Nat
  | none => none
  | some x => some (c + x)

/-- What is known of a place in a body: the longest cost from there up to and through the address where the walk stops, and
the longest cost to an end before it. -/
structure PathCost where
  reach : Option Nat
  fin : Option Nat
  deriving DecidableEq, Repr

/-- The longest path of one iteration of each LOOP of a body, by its address. -/
abbrev LoopCosts := Sparse PathCost

/-- What follows from the places behind `a`, already walked. -/
def CodeView.place (v : CodeView) (calls : Nat → Nat) (loops : LoopCosts) (stop : Option Nat) (known : Sparse PathCost)
    (a : Nat) : PathCost :=
  if stop = some a then ⟨some 1, none⟩
  else
    let rest := fun x => sget (⟨none, none⟩ : PathCost) known x
    match v.at a with
    | .loop _ _ _ bound =>
      let one := sget (⟨none, none⟩ : PathCost) loops a
      let r := rest (v.after a)
      let n := bound.toNat
      match one.reach with
      | some b =>
        ⟨addOpt (1 + (n - 1) * b) r.reach,
         maxOpt (addOpt (1 + (n - 1) * b) r.fin) (if 2 ≤ n then addOpt (1 + (n - 2) * b) one.fin else none)⟩
      | none => ⟨addOpt 1 r.reach, maxOpt (addOpt 1 r.fin) (if 2 ≤ n then addOpt 1 one.fin else none)⟩
    | _ =>
      (v.succs a).foldl (fun p e =>
        let r := rest e.1
        let c := e.2 + calls a
        ⟨maxOpt p.reach (addOpt c r.reach), maxOpt p.fin (addOpt c r.fin)⟩) ⟨none, v.endCost a⟩

/-- The walk over places in falling order of address. -/
def CodeView.walk (v : CodeView) (calls : Nat → Nat) (loops : LoopCosts) (stop : Option Nat) (places : List Nat) :
    Sparse PathCost :=
  places.foldl (fun k a => sput ⟨none, none⟩ k a (v.place calls loops stop k a)) []

/-- One iteration of every LOOP of a body, in rising order of address, from its target up to and through itself (R135). -/
def CodeView.loopCosts (v : CodeView) (calls : Nat → Nat) (body : List Nat) : LoopCosts :=
  body.foldl (fun m a =>
    match v.at a with
    | .loop _ w _ _ =>
      let t := (targetOf a w).toNat
      let places := (body.filter fun x => decide (t ≤ x) && decide (x ≤ a)).reverse
      sput ⟨none, none⟩ m a (sget ⟨none, none⟩ (v.walk calls m (some a) places) t)
    | _ => m) []

/-- The WCET of the body of a descriptor (R76, R136): none where a path has no bound. `stack` holds the descriptors whose
bodies call this one; a descriptor already there is a recursive call. -/
def CodeView.wcet (v : CodeView) : Nat → List Nat → Nat → Option Nat
  | 0, _, _ => none
  | fuel + 1, stack, desc =>
    if stack.contains desc then none
    else
      let entry := readLE v.cm (desc + 8) 4
      let body := v.body entry
      if body.any (v.unbounded body) then none
      else
        let sub := body.map fun a =>
          (a, ((v.callees (v.at a)).getD []).foldl (fun m d =>
            match m, CodeView.wcet v fuel (desc :: stack) d with
            | some x, some y => some (max x y)
            | _, _ => none) (some 0))
        if sub.any fun c => c.2.isNone then none
        else
          let costs : Sparse Nat := sub.foldl (fun m c => sput 0 m c.1 (c.2.getD 0)) []
          let calls := fun a => sget 0 costs a
          some ((sget ⟨none, none⟩ (v.walk calls (v.loopCosts calls body) none body.reverse) entry).fin.getD 0)

/-- The code view of an image. -/
def viewOf (ss : List Section) (im : Image) : CodeView := ⟨ss, im.codeMem, im.types⟩

/-- The bodies that a task can run, its own and those it calls; `fuel` bounds the depth. -/
def CodeView.bodies (v : CodeView) : Nat → Nat → List Nat
  | 0, _ => []
  | fuel + 1, desc =>
    let body := v.body (readLE v.cm (desc + 8) 4)
    body ++ (body.map fun a => (((v.callees (v.at a)).getD []).map (CodeView.bodies v fuel)).flatten).flatten

/-! ### Checks 6 and 7 -/

/-- The enabled tasks with their numbers. -/
def Image.enabled (im : Image) : List (Nat × TaskRec) :=
  ((List.range im.tasks.length).map fun t => (t, im.tasks[t]?)).filterMap fun c =>
    match c.2 with
    | some r => if r.en then some (c.1, r) else none
    | none => none

/-- Check 6 of Table 7.6 (0x0407): at most 4 lenient tasks, each a heart or base note that owns no safety-relevant
point (R95); the failure is at the task record. -/
def check6 (ss : List Section) (im : Image) : Option LoadErr :=
  let ls := im.enabled.filter fun c => c.2.lenient
  firstErr <| (List.range ls.length).map fun k =>
    match ls[k]? with
    | none => none
    | some c =>
      need (decide (k < 4) && (c.2.note == 1 || c.2.note == 2) &&
        im.points.all fun p => !(p.wkind == 1 && p.who == c.1 && bitOf p.flags 1)) 0x0407 (sectIndex ss 6) (64 * c.1)

/-- A point is declared with the task as its writer. -/
def ownsPoint (im : Image) (t p : Nat) : Bool :=
  im.points.any fun q => q.point == p && q.wkind == 1 && q.who == t

/-- The direct STPs of a task that go to a point that it does not own, by their addresses (R91, R125). -/
def strayStp (v : CodeView) (im : Image) (t : Nat) (r : TaskRec) : List Nat :=
  (v.bodies (im.types.length + 1) r.entry).filter fun a =>
    match v.at a with
    | .stp _ w => !(w.x || ownsPoint im t w.id.toNat)
    | _ => false

/-- A failure at an address of the code store: the section that holds it and the offset there. -/
def errCode (ss : List Section) (fault a : Nat) : Option LoadErr :=
  match ss.findIdx? fun x => (x.ty == 1 || x.ty == 2) && decide (x.target ≤ a) && decide (a < x.target + x.bytes.length) with
  | some k => errAt fault k (a - ((ss[k]?).map (·.target)).getD 0)
  | none => errAt fault 0xFF 0

/-- A loop record's destination kind and index, group and point (Table 8.5). -/
def recKind (r : List Nat) : Nat := r.getD 1 0 / 2 ^ 28
/-- The index of a loop record's destination. -/
def recIdx (r : List Nat) : Nat := r.getD 1 0 % 65536
/-- The handover group of a loop record. -/
def recGroup (r : List Nat) : Nat := slice 23 16 (r.getD 3 0)
/-- The loop number of a loop record. -/
def recLoop (r : List Nat) : Nat := r.getD 11 0 % 256

/-- The loop that stands as a destination's writer (R190): the loop itself, or the lowest of its group. -/
def writerLoop (rs : List (List Nat)) (r : List Nat) : Nat :=
  if recGroup r = 0 then recLoop r
  else (rs.filter fun q => recGroup q == recGroup r).foldl (fun m q => min m (recLoop q)) 255

/-- A loop's DPOINT is declared as R189 and R190 say. -/
def dpointOk (im : Image) (r : List Nat) : Bool :=
  im.points.any fun p => p.point == r.getD 4 0 && p.src == 6 && p.ty == 4 && p.wkind == 2 &&
    p.out == decide (recKind r < 2) && p.who == writerLoop im.loops r

/-- The on-module channel of an output point: 16 * slice + channel, DO 0 to 7 and AO 8 to 9. -/
def outChannel (p : PointDecl) : Option Nat :=
  if p.src = 1 then
    match p.bind / 4096 with
    | 1 => some (16 * (p.bind / 256 % 16) + p.bind % 256)
    | 3 => some (16 * (p.bind / 256 % 16) + 8 + p.bind % 256)
    | _ => none
  else none

/-- The channel of a loop's destination, in the same numbers. -/
def loopChannel (r : List Nat) : Option Nat :=
  match recKind r with
  | 0 => some (16 * (recIdx r / 2) + 8 + recIdx r % 2)
  | 1 => some (16 * (recIdx r / 8) + recIdx r % 8)
  | _ => none

/-- The DO channels that pulse channels of a configuration drive (R269), in the same numbers. -/
def State.pulseChannels (s : State) : List Nat :=
  [4, 5, 6, 7].filterMap fun n =>
    let d := s.rd (R.MET_PCFG_W_DO n)
    if s.on (R.MET_PCFG_EN n) && s.rd (R.MET_PCFG_WT_WT n) != 0 && decide (d < 32) then some (16 * (d / 8) + d % 8) else none

/-- Check 7 of Table 7.6 (0x0408): writers (R91, R190, R269); the failure is at the instruction, the loop record or the point
record that breaks it. -/
def check7 (s : State) (ss : List Section) (v : CodeView) (im : Image) : Option LoadErr :=
  let pulses := (s.applyCfg im).pulseChannels
  let outs := im.points.filterMap outChannel
  firstErr <|
    (im.enabled.map fun c => (strayStp v im c.1 c.2).head?.bind (errCode ss 0x0408)) ++
    (List.range im.loops.length).map (fun k =>
      let r := im.loops.getD k []
      need (dpointOk im r && match loopChannel r with
        | some c => !outs.contains c && !pulses.contains c
        | none => true) 0x0408 (sectIndex ss 8) (64 * k)) ++
    (List.range im.points.length).map (fun k =>
      match im.points[k]? with
      | none => none
      | some p =>
        need ((match p.wkind with
          | 1 => decide (p.who < 32)
          | 2 => decide (p.who < 256)
          | _ => true) && match outChannel p with
          | some c => !pulses.contains c
          | none => true) 0x0408 (sectIndex ss 7) (16 * k))

/-! ### The checks of PHS (R50) -/

/-- The nominal frequency of the reference lies inside the band (R50, R47). -/
def State.nominalIn (s : State) : Bool :=
  let lo := s.rd R.PHS_FMIN_F
  let hi := s.rd R.PHS_FMAX_F
  match s.rd R.PHS_CFG_REF with
  | 0 =>
    let f := if s.on R.PHS_CFG_MNOM then 60000 else 50000
    decide (lo ≤ f) && decide (f ≤ hi)
  | 1 =>
    let p := s.rd R.PHS_NETPER_PER
    decide (lo * p ≤ 1000000000000) && decide (1000000000000 ≤ hi * p)
  | _ =>
    let p := s.rd R.PHS_XTALPER_PER
    decide (lo * p ≤ 25000000000) && decide (25000000000 ≤ hi * p)

/-- The checks of R50 on the PHS configuration in force. -/
def State.phsOk (s : State) : Bool :=
  let n := s.rd R.PHS_CFG_N
  let net := s.rd R.PHS_NETPER_PER
  let xt := s.rd R.PHS_XTALPER_PER
  s.rd R.PHS_CFG_REF != 3 && s.rd R.PHS_CFG_WIT != s.rd R.PHS_CFG_REF && decide (1 ≤ n) && decide (n ≤ 64) &&
    s.rd R.PHS_CFG_MBW != 3 && s.nominalIn &&
    decide (250000 ≤ net) && decide (net ≤ 640000000) && 1000000000 % net == 0 &&
    decide (6250 ≤ xt) && decide (xt ≤ 16000000) &&
    decide (250000 * n * s.rd R.PHS_FMAX_F ≤ 1000000000000) && decide (1000000000000 ≤ 10000000 * n * s.rd R.PHS_FMIN_F)

/-! ### Ledgers (R60 to R74) -/

/-- An admission report (Table 3.5). -/
def reportBytes (fault engine sl task wh claim cap : Nat) : List (BitVec 8) :=
  toLE 2 fault ++ toLE 1 engine ++ toLE 1 sl ++ toLE 1 task ++ zeros 3 ++ toLE 4 wh ++ zeros 4 ++ toLE 8 claim ++ toLE 8 cap

/-- A refused admission. -/
def refusal (fault engine sl task wh claim cap : Nat) : LoadErr :=
  { fault := fault, report := reportBytes fault engine sl task wh claim cap }

/-- A refused admission that concerns a section: `sect` is its type until the load's reply gives its index (R168). -/
def LoadErr.within (e : LoadErr) (ty ofs : Nat) : LoadErr := { e with sect := ty, ofs := ofs }

/-- A refusal of one task, at its record of the section TASKS (R77, R168). -/
def taskRefusal (fault : Nat) (t : Nat) (r : TaskRec) (claim cap : Nat) : LoadErr :=
  (refusal fault r.eng 0xFF t 0 claim cap).within 6 (64 * t)

/-- The deadline D of R65 for period p and commit phase c, at `n` cycles a turn and `fmax` mHz. -/
def deadlineOf (n fmax p c : Nat) : Nat := ((p - 1) * 2 ^ 32 + c * n) * 400000000000 / (n * fmax * 2 ^ 32)

/-- T of R66: the period in ticks. -/
def periodTicks (n fmax p : Nat) : Nat := p * 400000000000 / (n * fmax)

/-- The response time of R66: `e` of the task, `hp` the E and T of those before it, `d` its deadline. -/
def respond (e d : Nat) (hp : List (Nat × Nat)) : Nat → Nat → Nat
  | 0, r => r
  | fuel + 1, r =>
    let next := e + hp.foldl (fun m c => m + ceilDiv r c.2 * c.1) 0
    if next = r || decide (d < next) then next else respond e d hp fuel next

/-- The tasks of engine `e` in the order of R64: by note, then by number. Note 3, which no load check refuses, comes after base
(DESIGN CHOICE, log entry 65). -/
def Image.onEngine (im : Image) (e : Nat) : List (Nat × TaskRec) :=
  let mine := im.enabled.filter fun c => c.2.eng == e
  (List.range 4).flatMap fun k => mine.filter fun c => c.2.note == k

/-- The p of R65: 1 for a top note, else the task's PERIOD. -/
def TaskRec.cycles (r : TaskRec) : Nat := if r.note = 0 then 1 else r.period

/-- The tick ledger of one engine: task, R and D, in the order of R64. A PERIOD of 0, which no load check refuses, counts as no
ticks (DESIGN CHOICE, log entry 65). -/
def tickLedger (n fmax : Nat) : List (Nat × Nat) → List (Nat × TaskRec) → List (Nat × Nat × Nat)
  | _, [] => []
  | hp, (t, r) :: rest =>
    let e := r.wclaim + 80
    let d := deadlineOf n fmax r.cycles r.commit
    let first := e + hp.foldl (fun m c => m + c.1) 0
    (t, (if hp.isEmpty then e else respond e d hp (d + 1) first), d) ::
      tickLedger n fmax (hp ++ [(e, periodTicks n fmax r.cycles)]) rest

/-- The least common multiple of the loop periods (R186). -/
def hyperOf (rs : List (List Nat)) : Nat := rs.foldl (fun h r => Nat.lcm h (max 1 (r.getD 2 0 % 65536))) 1

/-- The sections of the loops that sample in frame `i` (R69). -/
def frameLoad (rs : List (List Nat)) (i : Nat) : Nat :=
  rs.foldl (fun m r => if i % max 1 (r.getD 2 0 % 65536) = r.getD 2 0 / 65536 then m + r.getD 3 0 % 32 else m) 0

/-- The worst frame below `h`: its load and its index, the first of the worst. -/
def worstFrame (rs : List (List Nat)) : Nat → Nat × Nat
  | 0 => (0, 0)
  | h + 1 =>
    let b := worstFrame rs h
    let l := frameLoad rs h
    if b.1 < l then (l, h) else b

/-- The places at which a slot claim counts an action: its range, and that of the clear edge of a pair (R73). -/
def SlotClaim.arcs (c : SlotClaim) : List (Nat × Nat) :=
  if c.shaft || decide (3 < c.slice) then []
  else
    match c.action with
    | 7 => [(c.lo, c.hi), (c.clo, c.chi)]
    | 0 => []
    | 6 => []
    | k => if k ≤ 5 then [(c.lo, c.hi)] else []

/-- A part of the range `arc` lies in the window of `w` counts from `at` (R73). -/
def inWindow (w start : Nat) (arc : Nat × Nat) : Bool :=
  decide ((arc.1 + 2 ^ 32 - start) % 2 ^ 32 < w) ||
    decide ((start + 2 ^ 32 - arc.1) % 2 ^ 32 ≤ (arc.2 + 2 ^ 32 - arc.1) % 2 ^ 32)

/-- The worst window: its count and its start, the lowest of the worst. A count rises only where a window's last place comes
to the start of a range, so those starts and 0 are enough. -/
def worstWindow (w : Nat) (arcs : List (Nat × Nat)) : Nat × Nat :=
  let starts := 0 :: arcs.map fun a => (a.1 + 2 ^ 32 + 1 - w) % 2 ^ 32
  starts.foldl (fun b p =>
    let n := (arcs.filter (inWindow w p)).length
    if b.1 < n || (b.1 = n && p < b.2) then (n, p) else b) ((arcs.filter (inWindow w 0)).length, 0)

/-! ### Check 1 of Table 3.4 -/

/-- A loop source exists (Table 8.1, R263). -/
def sourceOk (w : Nat) : Bool :=
  let i := w % 65536
  match w / 2 ^ 28 with
  | 0 => decide (i < 8)
  | 1 => decide (i < 4096)
  | 2 => isValue i
  | _ => false

/-- A loop destination exists (Table 8.2). -/
def destOk (w : Nat) : Bool :=
  let i := w % 65536
  match w / 2 ^ 28 with
  | 0 => decide (i < 8)
  | 1 => decide (i < 32)
  | 2 => decide (i < 4096)
  | _ => false

/-- A loop record keeps Table 8.5 and R208 on its own. -/
def loopRecOk (len : Nat) (r : List Nat) : Bool :=
  let p := r.getD 2 0 % 65536
  let nsec := r.getD 3 0 % 32
  let frz := r.getD 3 0 / 2 ^ 24
  sourceOk (r.getD 0 0) && destOk (r.getD 1 0) && decide (1 ≤ p) && decide (p ≤ 40000) && decide (r.getD 2 0 / 65536 < p) &&
    decide (1 ≤ nsec) && decide (nsec ≤ 16) && (decide (frz < nsec) || frz == 0xFF) &&
    r.getD 12 0 % 4 == 0 && decide (r.getD 12 0 + 40 * nsec ≤ len) && (recKind r != 2 || r.getD 4 0 == recIdx r) &&
    decide (recGroup r ≤ 64) && decide (r.getD 11 0 < 256) && r.getD 0 0 / 65536 % 4096 == 0 && r.getD 1 0 / 65536 % 4096 == 0 &&
    r.getD 13 0 == 0 && r.getD 14 0 == 0 && r.getD 15 0 == 0

/-- A handover group keeps R208: 2 to 8 members, one destination, a channel, one OWN flag. -/
def groupOk (rs : List (List Nat)) (g : Nat) : Bool :=
  let ms := rs.filter fun r => recGroup r == g
  ms.isEmpty || (decide (2 ≤ ms.length) && decide (ms.length ≤ 8) &&
    (ms.all fun r => recKind r != 2 && some (r.getD 1 0) == (ms.head?.map fun q => q.getD 1 0)) &&
    (ms.filter fun r => bitOf (r.getD 3 0) 12).length == 1)

/-- Two loop records cannot stand together: one loop number, or one channel outside a common group (R190, R208). -/
def loopsClash (a b : List Nat) : Bool :=
  recLoop a == recLoop b || !((recGroup a != 0 && recGroup a == recGroup b) || recKind a == 2 || recKind b == 2 ||
    loopChannel a != loopChannel b)

/-- The offset in LOOPS of the first record that breaks R207 or R208, 0 where the section as a whole does. -/
def loopFailure (im : Image) : Option Nat :=
  let rs := im.loops
  if loopsMalformed im.loopBytes then some 0
  else
    match (List.range rs.length).find? fun k =>
        let r := rs.getD k []
        !loopRecOk im.loopBytes.length r || (rs.take k).any (loopsClash r) ||
          (recGroup r != 0 && !groupOk rs (recGroup r)) with
    | some k => some (64 * k)
    | none => if decide (16777216 < hyperOf rs) then some 0 else none

/-- A slot claim names a slot, an action and a place that exist, and no DO that a pulse channel drives (R73, R269). An action code
above 7, and a slice code 4 to 6 also where the action ignores its target, make the claim malformed (DESIGN CHOICE, log entry 27). -/
def slotClaimOk (pulses : List Nat) (c : SlotClaim) : Bool :=
  let isDo := [1, 2, 3, 7].contains c.action
  decide (c.slot < 1024) && decide (c.action ≤ 7) && (decide (c.slice ≤ 3) || c.slice == 7) &&
    !(isDo && pulses.contains (16 * c.slice + c.chan))

/-- A task's descriptor keeps R112: its stack in the instance store, its window in the DRAM program region, their
alignments, and an ENTRY that TYPES lists. -/
def descriptorOk (im : Image) (r : TaskRec) : Bool :=
  im.types.contains r.entry && r.stack % 64 == 0 && decide (0x1000000 ≤ r.stack) &&
    decide (r.stack + r.stackSz ≤ 0x2800000) && r.wbase % 64 == 0 && r.wsize % 64 == 0 &&
    (r.wsize == 0 || (decide (0x180000000 ≤ r.wbase) && decide (r.wbase + r.wsize ≤ 0x2FFE00000)))

/-- Check 1 of Table 3.4 (0x0440): claims well formed, naming what exists; the failure is at the record that breaks it (R168). -/
def claimsOk (s : State) (im : Image) : Option LoadErr :=
  let pulses := s.pulseChannels
  match im.enabled.find? fun c => !descriptorOk im c.2 with
  | some c => some (taskRefusal 0x0440 c.1 c.2 0 0)
  | none =>
  match loopFailure im with
  | some ofs => some ((refusal 0x0440 0xFF 0xFF 0xFF 0 0 0).within 8 ofs)
  | none =>
  (List.range im.slots.length).findSome? fun k =>
    im.slots[k]?.bind fun c =>
      let clash := (im.slots.take k).any fun d => d.slot == c.slot
      if clash || !slotClaimOk pulses c then
        some ((refusal 0x0440 0xFF (if c.slice ≤ 5 && !clash then c.slice else 0xFF) 0xFF 0 0 0).within 9 (24 * k))
      else none

/-! ### Admission (R75 to R78) -/

/-- The W of every enabled task, or none without a bound. -/
def taskW (v : CodeView) (im : Image) (r : TaskRec) : Option Nat := v.wcet (im.types.length + 1) [] r.entry

/-- The enabled tasks engine by engine, in the order of R77. -/
def Image.inOrder (im : Image) : List (Nat × TaskRec) := (List.range 4).flatMap im.onEngine

/-- The stamp lanes of a configuration: slices with stamping enabled on a channel (Table 3.3). -/
def State.stampLanes (s : State) : Nat :=
  ((List.range 4).filter fun sl => (List.range 12).any fun ch => s.rd (R.SLR_DICFG_STAMP sl ch) != 0).length

/-- An entry of a passed admission with its margin (R78). -/
def entryOf (ledger idx claim cap : Nat) : LedgerEntry := ⟨ledger, idx, claim, cap, cap - claim⟩

/-- Checks 2 to 8 of Table 3.4 on an image under the PHS configuration in force, then the ledger entries (R77, R78). -/
def ledgers (s : State) (v : CodeView) (im : Image) : LoadErr ⊕ List LedgerEntry :=
  let n := s.rd R.PHS_CFG_N
  let fmax := s.rd R.PHS_FMAX_F
  let order := im.inOrder
  let ws := order.map fun c => (c, taskW v im c.2)
  match ws.find? fun c => c.2.isNone with
  | some c => .inl (taskRefusal 0x0447 c.1.1 c.1.2 0 0)
  | none =>
  match ws.find? fun c => decide (c.1.2.wclaim < c.2.getD 0) with
  | some c => .inl (taskRefusal 0x0446 c.1.1 c.1.2 (c.2.getD 0) c.1.2.wclaim)
  | none =>
  let ticks := (List.range 4).flatMap fun e => (tickLedger n fmax [] (im.onEngine e)).map fun c => (e, c)
  match ticks.find? fun c => decide (c.2.2.2 < c.2.2.1) with
  | some c => .inl ((refusal 0x0441 c.1 0xFF c.2.1 0 c.2.2.1 c.2.2.2).within 6 (64 * c.2.1))
  | none =>
  let cap := 3125000000 / (n * fmax)
  let lines := (List.range 4).map fun e => (e, (im.onEngine e).foldl (fun m c => m + c.2.lines) 0)
  match lines.find? fun c => decide (cap < c.2) with
  | some c => .inl (refusal 0x0442 c.1 0xFF 0xFF 0 c.2 cap)
  | none =>
  let frame := worstFrame im.loops (hyperOf im.loops)
  if 1024 < frame.1 then .inl ((refusal 0x0443 0xFF 0xFF 0xFF frame.2 frame.1 1024).within 8 0)
  else
  let w := ceilDiv (2 ^ 32 * fmax) 40000000
  let all := worstWindow w (im.slots.flatMap SlotClaim.arcs)
  let bytes := 224 + 16 * s.stampLanes + 4 * all.1
  if 512 < bytes then .inl (refusal 0x0444 0xFF 0xFF 0xFF all.2 bytes 512)
  else
  let per := (List.range 4).map fun sl =>
    (sl, worstWindow w ((im.slots.filter fun c => c.slice == sl).flatMap SlotClaim.arcs))
  match per.find? fun c => decide (64 < c.2.1) with
  | some c => .inl (refusal 0x0445 0xFF c.1 0xFF c.2.2 c.2.1 64)
  | none =>
    .inr (ticks.map (fun c => entryOf 0 c.2.1 c.2.2.1 c.2.2.2) ++ lines.map (fun c => entryOf 1 c.1 c.2 cap) ++
      [entryOf 2 frame.2 frame.1 1024, entryOf 3 all.2 bytes 512] ++ per.map (fun c => entryOf 4 c.1 c.2.1 64))

/-- Admission in the order of Table 3.4 (R77), under the PHS configuration and the channel settings that `s` holds. -/
def admitImage (s : State) (v : CodeView) (im : Image) : LoadErr ⊕ List LedgerEntry :=
  match claimsOk s im with
  | some e => .inl e
  | none => ledgers s v im

/-- The code view of the loaded image, from the image itself. The sections of the active slot are those it was loaded
with. -/
def Image.view (im : Image) : CodeView :=
  ⟨im.code.map fun c => { ty := if c.1 = im.poolBase && c.2 = im.poolBytes then 2 else 1, off := 0, target := c.1, bytes := c.2 },
   im.codeMem, im.types⟩

/-- The checks of Table 7.6 in order (R168): the first failure, or the image with its ledger. -/
def loadChecks (s : State) (img : List (BitVec 8)) : LoadErr ⊕ (Image × List LedgerEntry) :=
  match check1 s img with
  | some e => .inl e
  | none =>
  let im := parseImage img
  let ss := sectionsOf img
  let v := viewOf ss im
  if !(decide (1 ≤ im.profile) && decide (im.profile ≤ 64) && bitOf (s.rd R.SYS_PROFMASK_MASK) (im.profile - 1)) then
    .inl { fault := 0x0413, sect := 0xFF, ofs := 6 }
  else
  match (check3 s ss im v.cm).or ((check4 ss im v.cm).or (check5 s ss im)) with
  | some e => .inl e
  | none =>
  match (check6 ss im).or (check7 s ss v im) with
  | some e => .inl e
  | none =>
  if !s.phsOk then .inl { fault := 0x0301 }
  else
    match admitImage (s.applyCfg im) v im with
    | .inl e => .inl { e with sect := sectIndex ss e.sect }
    | .inr l => .inr (im, l)

end Sys2Proof.Machine
end

