-- ==== Sys2Proof/Machine/Records.lean ====
section
/-! DEFINITION. The records that NVS keeps in the partitions SET, REC and TLYH: their bytes, where they lie, and whether they can be
read (R288, R292, R412, R420, R169, R400). -/

namespace Sys2Proof.Machine

/-! ### Bytes (DESIGN CHOICE, log entry 33) -/

/-- A byte string behind its length. -/
def counted (bs : List (BitVec 8)) : List (BitVec 8) := toLE 2 bs.length ++ bs

/-- A byte string before its CRC-32. -/
def withCrc (bs : List (BitVec 8)) : List (BitVec 8) := bs ++ toLE 4 (crc32 bs)

/-- The settings record as it is sent, without the owner node: FMT, PROFILE, the boot registers, the start action, labels and
definitions, and a CRC-32 (R412). -/
def recordBytes (r : SettingsRec) : List (BitVec 8) :=
  withCrc (toLE 2 r.fmt.toNat ++ toLE 1 r.profile.toNat ++ toLE 1 r.start.toNat ++
    toLE 4 r.regs.length ++ (r.regs.flatMap fun c => toLE 5 c.1.toNat ++ toLE 8 c.2.toNat) ++ counted r.site ++
    counted r.building ++ toLE 1 r.tenants.length ++ (r.tenants.flatMap fun t => toLE 1 t.1.toNat ++ counted t.2) ++
    toLE 2 r.defs.length ++ r.defs.flatMap counted)

/-- The settings as a slot of SET holds them: the record, the wrapped owner node, and the number of the write (R412). -/
def SetCopy.bytes (c : SetCopy) : List (BitVec 8) := withCrc (recordBytes c.record ++ counted c.owner ++ toLE 4 c.seq)

/-- The first block of the slot that a write of the settings fills: the slots alternate (R412). -/
def SetCopy.lba (c : SetCopy) : Nat := 0xAA00 + 256 * (c.seq % 2)

/-- The first block of the backup slot. -/
def backupLba : Nat := 0xAC00

/-- The cells of a register window. -/
def State.regWindow (s : State) (lo hi : Nat) : Sparse Nat := swindow s.regs (lo * 64) (hi * 64)

/-- A firmware bank of the module: 0 A, 1 B. -/
def State.fwBank (s : State) (b : Nat) : FwBank := if b = 0 then s.upd.bankA else s.upd.bankB

/-- A firmware bank replaced. -/
def State.setBank (s : State) (b : Nat) (v : FwBank) : State :=
  if b = 0 then { s with upd := { s.upd with bankA := v } } else { s with upd := { s.upd with bankB := v } }

/-- A gap whose new bank is marked is in progress, and has not been recorded (R463). -/
def State.markedGap (s : State) : Option Gap :=
  match s.upd.gap with
  | some g => if g.marked then some g else none
  | none => none

/-- The update state that the record in flash keeps across a reset (R463): TRIAL for an activation whose new bank is marked, and
for a FALLBACK in progress, whose boot is decided as that of a TRIAL with a fallback due. A gap that has ended but for its first
boundary of RUN counts as over. -/
def State.keptState (s : State) : Nat :=
  match s.rd R.UPD_STAT_STATE with
  | 1 => 0
  | 2 | 3 => 2
  | 4 =>
    match s.markedGap with
    | some g => if g.cause = 1 then 0 else 5
    | none => 2
  | 5 => 5
  | 6 => if s.upd.ended.isSome then 0 else 5
  | _ => 0

/-- The seconds of a full trial (R414, UPD_CFG). -/
def State.trialWindow (s : State) : Nat := max 1 (s.rd R.UPD_CFG_CONFWIN) * 3600

/-- The UPD registers that the record keeps: STATE, FALLPEND and CONFLEFT as R463 and R411 have them, UNSYNCACT, OWNER_LOCK, the
configuration and LOCKCNT; in reset those that the reset found, and in a power-fail warning those that it found, since the record is
not written (R429). -/
def State.updRecord (s : State) : Sparse Nat :=
  if s.pwr.held || s.on R.NVS_STAT_PFWORDER then s.upd.record
  else
    let kept := s.keptState
    let t :=
      match s.rd R.UPD_STAT_STATE with
      | 4 => if kept = 5 then (s.wr R.UPD_STAT_FALLPEND 0).wr R.UPD_CONFLEFT_SEC s.trialWindow else s
      | 6 => if kept = 5 then s.wr R.UPD_STAT_FALLPEND 1 else (s.wr R.UPD_STAT_FALLPEND 0).wr R.UPD_CONFLEFT_SEC 0
      | _ => s
    (t.wr R.UPD_STAT_STATE kept).regWindow 0x10120000 0x10130000

/-- The bank that the update record has a boot start from: of a fallback in progress the trial's, since the boot decides (R463). -/
def State.bootMark (s : State) : Nat :=
  match s.markedGap with
  | some g => if g.fallback && s.upd.ended.isNone then s.rd R.UPD_BANK_ACTIVE else s.upd.marked
  | none => s.upd.marked

/-- The update record: the bank marked active, and the fields of the UPD registers, each by its place (R420). -/
def State.updBytes (s : State) : List (BitVec 8) :=
  let cells := s.updRecord
  withCrc (toLE 1 s.upd.marked ++ toLE 2 cells.length ++ cells.flatMap fun c => toLE 5 c.1 ++ toLE 8 c.2)

/-- The active program slot marker: the slot, and 1 once a load has marked it (R169). -/
def State.markerBytes (s : State) : List (BitVec 8) := withCrc (toLE 1 s.nvs.activeSlot ++ toLE 1 (b2n s.nvs.marked))

/-- The tally log header: NEXTSEQ, OLDSEQ, USED, ERASES, and the next free place (R400). -/
def State.logHeader (s : State) : List (BitVec 8) :=
  withCrc (toLE 4 s.tly.next ++ toLE 4 s.tly.old ++ toLE 4 s.tly.used ++ toLE 4 s.tly.erases ++ toLE 4 s.tly.place)

/-! ### Places -/

/-- The records with their first blocks (Table 11.7): the settings slots, the backup slot, both copies of the update record and of
the slot marker, and the log header. -/
def State.records (s : State) : List (Nat × List (BitVec 8)) :=
  let backup := match s.upd.backup with
    | some c => [(backupLba, c.bytes)]
    | none => []
  (s.upd.setSlots.map fun c => (c.lba, c.bytes)) ++ backup ++
    [(0xAD04, s.updBytes), (0xAD05, s.updBytes), (0xAD06, s.markerBytes), (0xAD07, s.markerBytes), (0x40000, s.logHeader)]

/-- Two ranges of blocks, by first and count, meet. -/
def blocksMeet (a b : Nat × Nat) : Bool := decide (a.1 < b.1 + b.2) && decide (b.1 < a.1 + a.2)

/-- No command has written or trimmed blocks of a range since the record there was written. -/
def State.ownBlocks (s : State) (r : Nat × Nat) : Bool := !s.nvs.foreign.any (blocksMeet r)

/-- The record in a range of blocks can be read: every block reads, and no command has written over it (R292). -/
def State.recordReads (s : State) (lba n : Nat) : Bool :=
  s.ownBlocks (lba, n) && !s.nvs.unreadable.any fun l => decide (lba ≤ l) && decide (l < lba + n)

/-- The blocks that a record fills. -/
def blocksOf (bs : List (BitVec 8)) : Nat := ceilDiv bs.length 4096

/-- The flash as a READ command delivers it: its bytes, the records in their partitions, and zeros for a block that cannot be read
(R288, R292). -/
def State.flashView (s : State) : Sparse (BitVec 8) :=
  let lay := fun (m : Sparse (BitVec 8)) (r : Nat × List (BitVec 8)) =>
    let n := blocksOf r.2
    if s.ownBlocks (r.1, n) then writeBytes (sclear m (4096 * r.1) (4096 * (r.1 + n))) (4096 * r.1) r.2 else m
  s.nvs.unreadable.foldl (fun m l => sclear m (4096 * l) (4096 * (l + 1))) (s.records.foldl lay s.flash)

/-- The part of a range of blocks outside another one. -/
def cutRange (lba n : Nat) (r : Nat × Nat) : List (Nat × Nat) :=
  [(r.1, min (r.1 + r.2) lba - r.1), (max r.1 (lba + n), r.1 + r.2 - max r.1 (lba + n))].filter fun p => p.2 != 0

/-- A record is written again in its blocks: they read, and hold it, but for those that cannot be written (R292) (DESIGN CHOICE, log
entry 60). -/
def State.claimBlocks (s : State) (lba n : Nat) : State :=
  let bad := s.nvs.worn.filter fun l => decide (lba ≤ l) && decide (l < lba + n)
  let s : State := bad.foldl (fun s _ => s.writeFailure) s
  { s with nvs := { s.nvs with
    foreign := s.nvs.foreign.flatMap (cutRange lba n) ++ bad.map fun l => (l, 1)
    unreadable := s.nvs.unreadable.filter fun l => !(decide (lba ≤ l) && decide (l < lba + n)) || bad.contains l } }

/-- A command of the supervisor has written or trimmed blocks. -/
def State.overwrite (s : State) (lba n : Nat) : State :=
  { s with nvs := { s.nvs with
    foreign := s.nvs.foreign.flatMap (cutRange lba n) ++ if n = 0 then [] else [(lba, n)]
    worn := s.nvs.worn.filter fun l => !(decide (lba ≤ l) && decide (l < lba + n)) } }

/-- A block that a WRITE could not write: it keeps what it holds, and the records that other clients of NVS put there fail too (DESIGN
CHOICE, log entry 60). -/
def State.wearOut (s : State) (l : Nat) : State :=
  let t := { s with flash := spaste 0 s.flashView s.flash (4096 * l) (4096 * l) 4096 }
  let t := t.overwrite l 1
  { t with nvs := { t.nvs with worn := l :: t.nvs.worn } }

/-! ### Records read back (R288, R292) -/

/-- A counted byte string in flash, and the address behind it. -/
def countedAt (fl : Sparse (BitVec 8)) (a : Nat) : List (BitVec 8) × Nat :=
  let n := readLE fl a 2
  (readBytes fl (a + 2) n, a + 2 + n)

/-- `n` counted byte strings in flash, and the address behind them. -/
def countedsAt (fl : Sparse (BitVec 8)) : Nat → Nat → List (List (BitVec 8)) × Nat
  | 0, a => ([], a)
  | n + 1, a =>
    let d := countedAt fl a
    let r := countedsAt fl n d.2
    (d.1 :: r.1, r.2)

/-- The labels of `n` tenants in flash, and the address behind them. -/
def tenantsAt (fl : Sparse (BitVec 8)) : Nat → Nat → List (BitVec 7 × List (BitVec 8)) × Nat
  | 0, a => ([], a)
  | n + 1, a =>
    let d := countedAt fl (a + 1)
    let r := tenantsAt fl n d.2
    ((BitVec.ofNat 7 (readLE fl a 1), d.1) :: r.1, r.2)

/-- The CRC-32 of the bytes from `a` up to `b` stands at `b`. -/
def crcAt (fl : Sparse (BitVec 8)) (a b : Nat) : Bool := readLE fl b 4 == crc32 (readBytes fl a (b - a))

/-- The pairs of a 5-byte and an 8-byte number, `n` of them from `a`. -/
def pairsAt (fl : Sparse (BitVec 8)) (a n : Nat) : List (Nat × Nat) :=
  (List.range n).map fun i => (readLE fl (a + 13 * i) 5, readLE fl (a + 13 * i + 5) 8)

/-- A settings record in flash, and the address behind it. -/
def recordAt (fl : Sparse (BitVec 8)) (a : Nat) : Option (SettingsRec × Nat) :=
  let n := readLE fl (a + 4) 4
  if 0x100000 < 13 * n then none
  else
    let site := countedAt fl (a + 8 + 13 * n)
    let building := countedAt fl site.2
    let ts := tenantsAt fl (readLE fl building.2 1) (building.2 + 1)
    let ds := countedsAt fl (readLE fl ts.2 2) (ts.2 + 2)
    if crcAt fl a ds.2 then
      some ({ fmt := BitVec.ofNat 16 (readLE fl a 2), profile := BitVec.ofNat 8 (readLE fl (a + 2) 1)
              start := BitVec.ofNat 2 (readLE fl (a + 3) 1)
              regs := (pairsAt fl (a + 8) n).map fun c => (BitVec.ofNat 40 c.1, BitVec.ofNat 64 c.2)
              site := site.1, building := building.1, tenants := ts.1, defs := ds.1 }, ds.2 + 4)
    else none

/-- A slot of SET as flash holds it (R412). -/
def copyAt (fl : Sparse (BitVec 8)) (lba : Nat) : Option SetCopy :=
  match recordAt fl (4096 * lba) with
  | none => none
  | some (r, a) =>
    let o := countedAt fl a
    if crcAt fl (4096 * lba) (o.2 + 4) then some ⟨r, o.1, readLE fl o.2 4⟩ else none

/-- A copy of the update record as flash holds it: the bank marked, and the fields of the UPD registers (R420). -/
def updAt (fl : Sparse (BitVec 8)) (lba : Nat) : Option (Nat × Sparse Nat) :=
  let a := 4096 * lba
  let n := readLE fl (a + 1) 2
  if crcAt fl a (a + 3 + 13 * n) then some (readLE fl a 1 % 2, (pairsAt fl (a + 3) n).foldl (fun m c => sins m c.1 c.2) []) else none

/-- A copy of the slot marker as flash holds it: the active slot, and whether a load has marked it (R169). -/
def markerAt (fl : Sparse (BitVec 8)) (lba : Nat) : Option (Nat × Bool) :=
  let a := 4096 * lba
  if crcAt fl a (a + 2) then some (readLE fl a 1 % 2, readLE fl (a + 1) 1 == 1) else none

/-- The tally log header as flash holds it: NEXTSEQ, OLDSEQ, USED, ERASES and the next free place (R400). -/
def headerAt (fl : Sparse (BitVec 8)) : Option (List Nat) :=
  let a := 4096 * 0x40000
  if crcAt fl a (a + 20) then some ((List.range 5).map fun i => readLE fl (a + 4 * i) 4) else none

/-! ### The settings (R412, R413, R429) -/

/-- A copy of the settings written to the slot that does not hold the newest one: one that a block cannot take is lost (R292). -/
def State.putCopy (s : State) (r : SettingsRec) : State :=
  let seq := match s.upd.setSlots with
    | c :: _ => c.seq + 1
    | [] => 0
  let c : SetCopy := ⟨r, s.upd.owner, seq⟩
  let n := 4096 * blocksOf c.bytes
  let others := s.upd.setSlots.filter fun d => d.lba != c.lba
  if s.writable (4096 * c.lba) n < n then
    { s with upd := { s.upd with setSlots := others } }.writeFailure
  else { s with upd := { s.upd with setSlots := c :: others } }.claimBlocks c.lba (blocksOf c.bytes)

/-- The settings in force written: in TRIAL with SETMODE = DUAL in the new image's format too, the older format newest (R413). -/
def State.storeSettings (s : State) : State :=
  let s := if s.rd R.UPD_STAT_STATE = 5 && s.on R.UPD_CFG_SETMODE then
      s.putCopy { s.upd.settings with fmt := BitVec.ofNat 16 (s.fwBank s.upd.marked).setfmt }
    else s
  let s := s.putCopy s.upd.settings
  { s with upd := { s.upd with setDue := false, firstStart := false } }

/-- New settings: in force at once, and written as soon as NVS can (R291, R429). -/
def State.putSettings (s : State) (r : SettingsRec) (owner : List (BitVec 8)) : State :=
  let s := { s with upd := { s.upd with settings := r, owner := owner, setDue := true } }
  if s.nvsFree then s.storeSettings else s

/-- The settings as the boot finds them: the newest slot that reads, else the backup; `false` where none does (R412, R435). -/
def State.readSettings (s : State) : State × Bool :=
  let fl := s.flashView
  let good := [copyAt fl 0xAA00, copyAt fl 0xAB00].filterMap id
  let good := match good with
    | [a, b] => if a.seq < b.seq then [b, a] else [a, b]
    | l => l
  match good, copyAt fl backupLba with
  | c :: _, _ => ({ s with upd := { s.upd with settings := c.record, owner := c.owner, setSlots := good, setDue := false } }, true)
  | [], some c => ({ s with upd := { s.upd with settings := c.record, owner := c.owner, setSlots := [], setDue := false } }, true)
  | [], none => (s, false)

end Sys2Proof.Machine
end

