-- ==== Sys2Proof/Machine/Key.lean ====
section
/-! DEFINITION. KEY: derivation, working slots, the operations of Table 15.2, and the flacon builds (R364 to R383). -/

namespace Sys2Proof.Machine

/-- The six bytes of NET_MACADDR, first octet first (R322, R372). -/
def macBytes : List (BitVec 8) := toLE 6 Config.macAddr

/-- The bytes of a label as a byte list. -/
def asciiOf (t : String) : List (BitVec 8) := t.toList.map fun c => BitVec.ofNat 8 c.toNat

/-- A child key (R365). -/
def deriveKey (parent label : List (BitVec 8)) (attr : Nat) (exportable : Bool) (depth : Nat) : List (BitVec 8) :=
  hmac256 parent (toBE 4 1 ++ label ++ [0] ++ toLE 1 attr ++ toLE 1 (b2n exportable) ++ toLE 1 depth ++
    toLE 1 label.length ++ toBE 4 0x100)

/-! ### Slots -/

/-- The key in a slot. -/
def State.slotKey (s : State) (n : Nat) : List (BitVec 8) := sget [] s.key.keys n

/-- A slot filled: its key, attribute, export bit, depth, origin and STORE (R367). -/
def State.fillSlot (s : State) (n : Nat) (k : List (BitVec 8)) (attr : Nat) (exportable : Bool) (depth origin : Nat)
    (store : Bool) : State :=
  let s := { s with key := { s.key with keys := sput [] s.key.keys n k } }
  let s := s.wr (R.KEY_SLOT_ATTR n) attr
  let s := s.wrB (R.KEY_SLOT_EXPORT n) exportable
  let s := s.wr (R.KEY_SLOT_DEPTH n) depth
  let s := s.wr (R.KEY_SLOT_ORIGIN n) origin
  s.wrB (R.KEY_SLOT_STORE n) store

/-- A slot made empty (Table 15.2, ERASE). -/
def State.emptySlot (s : State) (n : Nat) : State := s.fillSlot n [] 0 false 0 0 false

/-- A slot number that names a slot with an attribute. -/
def State.slotHas (s : State) (n attr : Nat) : Bool := decide (n < 64) && s.rd (R.KEY_SLOT_ATTR n) == attr

/-- The parent that SRC names, with its depth: the root, or a slot with DERIVE (R366). -/
def State.parentOf (s : State) (src : Nat) : Option (List (BitVec 8) × Nat) :=
  if src = 0x40 then s.key.root.map fun r => (r, 0)
  else if s.slotHas src 4 then some (s.slotKey src, s.rd (R.KEY_SLOT_DEPTH src))
  else none

/-- The label of a command: the first LABLEN bytes of KEY_LABEL. -/
def State.labelOf (s : State) (len : Nat) : List (BitVec 8) :=
  (((List.range 8).map fun i => toLE 4 (s.rd (R.KEY_LABEL_BYTES i))).flatten).take len

/-- TENANT: the tenant node from a building slot and a label, and from it the flacon key in the tenant table (R374). -/
def State.placeTenant (s : State) (src t : Nat) (label : List (BitVec 8)) : State :=
  let node := deriveKey (s.slotKey src) label 4 false 4
  let k := deriveKey node (asciiOf "flacon" ++ macBytes ++ toLE 1 (s.rd R.KEY_STAT_GEN)) 1 false 5
  { s with key := { s.key with tenants := sput [] s.key.tenants t k } }

/-! ### The end of an operation (R371) -/

/-- The fault that a STATUS reports; 0 for none (R370, R371). -/
def keyFault (status : Nat) : Nat :=
  match status with
  | 1 => 0x0E02
  | 3 => 0x0E07
  | 4 => 0x0E03
  | _ => 0

/-- KEY_RESULT set, line 112 raised (R371). -/
def State.keyFinish (s : State) (op status : Nat) : State :=
  let s := s.wr R.KEY_RESULT_STATUS status
  let s := s.wr R.KEY_RESULT_OP op
  let s := s.wr R.KEY_RESULT_BUSY 0
  let s := { s with key := { s.key with op := none } }
  (if keyFault status = 0 then s else s.report R.KEY_LASTFAULT_FAULT (keyFault status)).raise 112

/-! ### The boot record (R379) -/

/-- The flash address of copy `i` of the boot record. -/
def bootCopy (i : Nat) : Nat := (0xAD02 + i) * 4096

/-- BOOT of a copy that reads: its CRC-32 matches (R379, R292). -/
def State.bootRead (s : State) (i : Nat) : Option Nat :=
  let a := bootCopy i
  if readLE s.legible (a + 4) 4 = crc32 (readBytes s.legible a 4) then some (readLE s.legible a 4) else none

/-- A copy of the boot record written, or the other one where a block cannot be written, and BOOT with it; the build counts return to 0
(R378, R379). Where neither can be written builds are refused (R292) (DESIGN CHOICE, log entry 60). -/
def State.bootWrite (s : State) (i v : Nat) : State :=
  let bs := toLE 4 v ++ toLE 4 (crc32 (toLE 4 v))
  let t := s.flashPut (bootCopy i) bs
  let r := if s.writable (bootCopy i) 8 = 8 then (t, true)
    else (t.flashPut (bootCopy (1 - i)) bs, s.writable (bootCopy (1 - i)) 8 == 8)
  if r.2 then { r.1.wr R.KEY_BOOT_BOOT v with key := { r.1.key with counts := [] } }
  else ((r.1.wr R.KEY_STAT_SEQLOST 1).report R.KEY_LASTFAULT_FAULT 0x0E05).raise 114

/-- TENANT run for one tenant of the settings (R371, R374). -/
def State.runTenant (s : State) (t : BitVec 7 × List (BitVec 8)) : State := (s.placeTenant 5 t.1.toNat (t.2.take 32)).keyFinish 10 0

/-- TENANT run again for every enabled tenant (R379). -/
def State.runTenants (s : State) : State :=
  s.upd.settings.tenants.foldl (fun s t =>
    if t.1.toNat = 0 || 64 < t.1.toNat || !s.slotHas 5 4 || !bitOf (s.rd R.KEY_TENEN_EN) (t.1.toNat - 1) then s
    else s.runTenant t) s

/-- The same because GEN has changed, once no operation is in progress (R371, R379). -/
def State.rerunTenants (s : State) : State :=
  if s.on R.KEY_RESULT_BUSY then { s with key := { s.key with due := s.key.due ++ [.tenants] } } else s.runTenants

/-- KEY reads the boot record by way of NVS, increments BOOT and writes it, the older copy first to be overwritten (R378, R379). With
both copies unreadable it blows the next generation fuse, and the tenants get new flacon keys; with none left, builds are
refused. -/
def State.advanceBoot (s : State) : State :=
  let s := s.nvsReads 0xAD02 2
  let s := { s with key := { s.key with bootDue := false } }
  match s.bootRead 0, s.bootRead 1 with
  | some a, some b => if a < b then s.bootWrite 0 ((b + 1) % 2 ^ 32) else s.bootWrite 1 ((a + 1) % 2 ^ 32)
  | some a, none => s.bootWrite 1 ((a + 1) % 2 ^ 32)
  | none, some b => s.bootWrite 0 ((b + 1) % 2 ^ 32)
  | none, none =>
    if s.key.fuses < 64 then
      let s := { s with key := { s.key with fuses := s.key.fuses + 1 } }
      let s := (s.bootWrite 0 1).wr R.KEY_STAT_GEN s.key.fuses
      ((s.report R.KEY_LASTFAULT_FAULT 0x0E04).raise 114).rerunTenants
    else ((s.wr R.KEY_STAT_SEQLOST 1).report R.KEY_LASTFAULT_FAULT 0x0E05).raise 114

/-- The KEY boot record, which NVS serves as soon as it can (R291, R294, R379). -/
def State.bootRecordDue (s : State) : State :=
  if s.nvsFree then s.advanceBoot else { s with key := { s.key with bootDue := true } }

/-- What waits for NVS is served, once it can be: the KEY boot record, then the supervisor's records (R291). -/
def State.nvsDrain (s : State) : State :=
  if s.nvsFree then
    let t := if s.key.bootDue then s.advanceBoot else s
    let t := if t.upd.setDue then t.storeSettings else t
    let t : State := t.nvs.due.foldl State.flashDo t
    { t with nvs := { t.nvs with due := [] } }
  else s

/-! ### The operations -/

/-- The fields of a KEY_CMD value. -/
structure KeyCmd where
  op : Nat
  attr : Nat
  exportable : Bool
  src : Nat
  dst : Nat
  depth : Nat
  lablen : Nat
  deriving DecidableEq, Repr

/-- A KEY_CMD value taken apart. -/
def keyCmd (v : Nat) : KeyCmd :=
  ⟨v % 16, slice 6 4 v, bitOf v 7, slice 22 16 v, slice 30 24 v, slice 35 32 v, slice 45 40 v⟩

/-- A buffer lies wholly in the DRAM supervisor region (R369). -/
def supBuffer (a n : Nat) : Bool := decide (0x100000000 ≤ a) && decide (a + n ≤ 0x180000000)

/-- A buffer of an operation, address and length, is allowed: an empty one lies in the region wherever it stands (R369). -/
def keyBufferOk (b : Nat × Nat) : Bool := b.2 == 0 || supBuffer b.1 b.2

/-- The buffers that an operation reads and writes, as (address, length) (Table 15.2). -/
def State.keyBuffers (s : State) (op : Nat) : List (Nat × Nat) × List (Nat × Nat) :=
  let a0 := s.rd (R.KEY_ARG_ADDR 0)
  let a1 := s.rd (R.KEY_ARG_ADDR 1)
  let len := s.rd R.KEY_LEN_LEN
  let aux := s.rd R.KEY_LEN_AUX
  match op with
  | 4 => ([], [(a1, 40)])
  | 5 => ([(a0, 40)], [])
  | 6 => ([(a0, 12 + aux + len)], [(a1, len + 16)])
  | 7 => ([(a0, 12 + aux + len + 16)], [(a1, len)])
  | 8 => ([(a0, len)], [(a1, 32)])
  | 9 => ([(a0, len), (a1, aux)], [])
  | _ => ([], [])

/-- The operation breaks R366 to R370, names an empty or wrongly attributed source, or names a DST outside its range
(R371). -/
def State.keyRefused (s : State) (c : KeyCmd) : Bool :=
  let slotDst := decide (c.dst < 64)
  match c.op with
  | 1 =>
    match s.parentOf c.src with
    | none => true
    | some (_, d) =>
      !slotDst || decide (c.lablen > 32) || c.attr == 0 || decide (c.attr > 4) || decide (8 < d + 1) ||
        (c.attr == 4 && c.exportable)
  | 2 =>
    !slotDst || c.attr == 0 || decide (c.attr > 4) || c.depth == 0 || decide (c.depth > 8) ||
      (c.attr == 4 && c.exportable)
  | 3 => !slotDst
  | 4 =>
    !s.slotHas c.src 3 || !slotDst || s.rd (R.KEY_SLOT_ATTR c.dst) == 0 || s.on (R.KEY_SLOT_STORE c.dst) ||
      (!s.on (R.KEY_SLOT_STORE c.src) &&
        (!s.on (R.KEY_SLOT_EXPORT c.dst) || s.rd (R.KEY_SLOT_ATTR c.dst) == 4))
  | 5 => !s.slotHas c.src 3 || !slotDst
  | 6 => !s.slotHas c.src 1
  | 7 => !s.slotHas c.src 2
  | 8 => !s.slotHas c.src 1
  | 9 => !s.slotHas c.src 2 || decide (s.rd R.KEY_LEN_AUX < 16) || decide (s.rd R.KEY_LEN_AUX > 32)
  | 10 =>
    !s.slotHas c.src 4 || s.rd (R.KEY_SLOT_DEPTH c.src) != 3 || c.dst == 0 || decide (c.dst > 64) ||
      decide (c.lablen > 32)
  | _ => true

/-- A buffer of the operation reaches MEM_FRONT or beyond, so its accesses wait (R281). -/
def State.keyWaits (s : State) (c : KeyCmd) : Bool :=
  let b := s.keyBuffers c.op
  (b.1 ++ b.2).any fun x => x.2 != 0 && decide (s.rd R.MEM_FRONT_ADDR < x.1 + x.2)

/-- A command that must wait before KEY performs it: for the end of the build under way (R375), or for MEM_FRONT (R281). -/
def State.keyHeld (s : State) (c : KeyCmd) : Bool := s.key.build.isSome || (!s.keyRefused c && s.keyWaits c)

/-- The key wrapped under a WRAP slot (R370). -/
def State.wrapped (s : State) (c : KeyCmd) : List (BitVec 8) :=
  let iv := [0xA6, 0xA6, 0xA6, 0xA6, 0x4B] ++ toLE 1 (s.rd (R.KEY_SLOT_ATTR c.dst)) ++
    toLE 1 (s.rd (R.KEY_SLOT_EXPORT c.dst) * 128 + s.rd (R.KEY_SLOT_DEPTH c.dst)) ++ [0]
  Aes.wrap (s.slotKey c.src) iv (s.slotKey c.dst)

/-- An unwrapped initial value names a key: its fixed bytes hold, and it carries an attribute and a depth (R370). -/
def ivGood (iv : List (BitVec 8)) : Bool :=
  let at' := fun i => (iv.getD i 0).toNat
  iv.take 5 == [0xA6, 0xA6, 0xA6, 0xA6, 0x4B] && at' 7 == 0 && decide (1 ≤ at' 5) && decide (at' 5 ≤ 4) &&
    decide (1 ≤ at' 6 % 128) && decide (at' 6 % 128 ≤ 8)

/-- UNWRAP on 40 bytes: the slot filled and STATUS 0, or STATUS 4 (R370). -/
def State.unwrapInto (s : State) (c : KeyCmd) (bs : List (BitVec 8)) : State × Nat :=
  let r := Aes.unwrap (s.slotKey c.src) bs
  if ivGood r.1 then
    let a := (r.1.getD 5 0).toNat
    let d := (r.1.getD 6 0).toNat
    (s.fillSlot c.dst r.2 a (decide (128 ≤ d)) (d % 128) 3 false, 0)
  else (s, 4)

/-- The operations on data: the bytes at ARG0 and, for HMACVER, those at ARG1 are at hand (Table 15.2). -/
def State.keyData (s : State) (c : KeyCmd) (d0 d1 : List (BitVec 8)) : State × Nat :=
  let k := s.slotKey c.src
  let a1 := s.rd (R.KEY_ARG_ADDR 1)
  let len := s.rd R.KEY_LEN_LEN
  let aux := s.rd R.KEY_LEN_AUX
  let iv := d0.take 12
  let aad := (d0.drop 12).take aux
  let txt := (d0.drop (12 + aux)).take len
  match c.op with
  | 5 => s.unwrapInto c d0
  | 6 =>
    let ct := Aes.gcmText k iv txt
    (s.masterWrite 9 a1 (ct ++ Aes.gcmTag k iv aad ct), 0)
  | 7 =>
    if Aes.gcmTag k iv aad txt = (d0.drop (12 + aux + len)).take 16 then
      (s.masterWrite 9 a1 (Aes.gcmText k iv txt), 0)
    else (s, 2)
  | 8 => (s.masterWrite 9 a1 (hmac256 k d0), 0)
  | 9 => if (hmac256 k d0).take aux = d1 then (s, 0) else (s, 2)
  | _ => (s, 0)

/-- The operations without buffers (Table 15.2, R374). -/
def State.keyPlain (s : State) (c : KeyCmd) : State × Nat :=
  match c.op with
  | 1 =>
    match s.parentOf c.src with
    | none => (s, 1)
    | some (p, d) =>
      let l := s.labelOf c.lablen
      let store := c.src == 0x40 && l == asciiOf "store" && c.attr == 3 && !c.exportable
      (s.fillSlot c.dst (deriveKey p l c.attr c.exportable (d + 1)) c.attr c.exportable (d + 1) 1 store, 0)
  | 2 =>
    let k := ((List.range 8).map fun i => toLE 4 (s.rd (R.KEY_KDATA_BYTES i))).flatten
    let s : State := (List.range 8).foldl (fun s i => s.wr (R.KEY_KDATA_BYTES i) 0) s
    (s.fillSlot c.dst k c.attr c.exportable c.depth 2 false, 0)
  | 3 => (s.emptySlot c.dst, 0)
  | 10 => (s.placeTenant c.src c.dst (s.labelOf c.lablen), 0)
  | _ => (s, 1)

/-- Buffers read in turn by KEY's DMA; none where one is poisoned (R279). -/
def State.keyRead (s : State) : List (Nat × Nat) → State × Option (List (List (BitVec 8)))
  | [] => (s, some [])
  | (a, n) :: t =>
    match s.dmaRead 9 a n with
    | (s, none) => (s, none)
    | (s, some bs) =>
      match s.keyRead t with
      | (s, none) => (s, none)
      | (s, some bss) => (s, some (bs :: bss))

/-- An operation performed: the state and the STATUS it will end with. A poisoned buffer abandons it, and which STATUS then
shows is a free value (R279, R371). -/
def State.keyPerform (s : State) (c : KeyCmd) : State × Nat :=
  let b := s.keyBuffers c.op
  if s.keyRefused c then (s, 1)
  else if !(b.1 ++ b.2).all keyBufferOk then (s, 3)
  else
    match c.op with
    | 4 => (s.masterWrite 9 (s.rd (R.KEY_ARG_ADDR 1)) (s.wrapped c), 0)
    | 1 | 2 | 3 | 10 => s.keyPlain c
    | _ =>
      match s.keyRead b.1 with
      | (s, none) => (s.useFree, s.freeVal % 8)
      | (s, some bss) => s.keyData c (bss.getD 0 []) (bss.getD 1 [])

/-- A write to KEY_CMD (R369, R371): STATUS 5 while an operation runs; else the operation begins, and its effect on slots
and buffers is as Table 15.2 states; while a build runs it waits (R375). With KEY off there is no operation (DEDUCED, log entry 31). -/
def State.keyStart (s : State) (v : Nat) : State :=
  let c := keyCmd v
  if !s.domOn 9 then s
  else if s.on R.KEY_RESULT_BUSY then s.wr R.KEY_RESULT_STATUS 5
  else
    let s := s.wr R.KEY_RESULT_BUSY 1
    if s.keyHeld c then { s with key := { s.key with op := some ⟨c.op, v, none⟩ } }
    else
      let r := s.keyPerform c
      { r.1 with key := { r.1.key with op := some ⟨c.op, v, some r.2⟩ } }

/-- The command of a KEY operation row: the row's OP over the other fields of the value written. -/
def keyRow (op : Nat) (cmd : DWord) : Nat := cmd.toNat / 16 * 16 + op

/-- OP 1 (R365, R366). -/
def execKeyDerive (cmd : DWord) (s : State) : Res := .next (s.keyStart (keyRow 1 cmd))

/-- OP 2 (R368). -/
def execKeyLoadclear (cmd : DWord) (s : State) : Res := .next (s.keyStart (keyRow 2 cmd))

/-- OP 3 (R369). -/
def execKeyErase (cmd : DWord) (s : State) : Res := .next (s.keyStart (keyRow 3 cmd))

/-- OP 4 (R370). -/
def execKeyWrap (cmd : DWord) (s : State) : Res := .next (s.keyStart (keyRow 4 cmd))

/-- OP 5 (R370). -/
def execKeyUnwrap (cmd : DWord) (s : State) : Res := .next (s.keyStart (keyRow 5 cmd))

/-- OP 6 (R369). -/
def execKeyGcmenc (cmd : DWord) (s : State) : Res := .next (s.keyStart (keyRow 6 cmd))

/-- OP 7 (R369). -/
def execKeyGcmdec (cmd : DWord) (s : State) : Res := .next (s.keyStart (keyRow 7 cmd))

/-- OP 8 (R369). -/
def execKeyHmacgen (cmd : DWord) (s : State) : Res := .next (s.keyStart (keyRow 8 cmd))

/-- OP 9 (R369). -/
def execKeyHmacver (cmd : DWord) (s : State) : Res := .next (s.keyStart (keyRow 9 cmd))

/-- OP 10 (R374). -/
def execKeyTenant (cmd : DWord) (s : State) : Res := .next (s.keyStart (keyRow 10 cmd))

/-- The KEY domain goes off: slots, tenant table and queue are empty, and what was in progress is lost (R381). -/
def State.keyDomainOff (s : State) : State :=
  { s.resetRegs 0x10100000 0x10110000 with
    key := { root := s.key.root, fuses := s.key.fuses, draws := s.key.draws, rootTried := s.key.rootTried, ownerDue := s.key.ownerDue } }

/-- The KEY domain starts (R364, R379, R383): registers at reset, slots, tenant table and queue empty; a blank root field is
filled from the entropy source if that source passes its health tests, once a reset; then the boot record. After a failure
ROOTFAIL shows at a later start too, until the reset that brings the next try (DESIGN CHOICE, log entry 62). -/
def State.keyDomainStart (s : State) (healthy : Bool) : State :=
  let s := s.keyDomainOff
  let s :=
    if s.key.root.isSome then s.wr R.KEY_STAT_ROOTOK 1
    else if s.key.rootTried then s.wr R.KEY_STAT_ROOTFAIL 1
    else if healthy then
      { s.wr R.KEY_STAT_ROOTOK 1 with
        key := { s.key with root := some (toLE 32 (Config.entropy s.key.draws)), draws := s.key.draws + 1 } }
    else
      let s := { s with key := { s.key with rootTried := true } }
      ((s.wr R.KEY_STAT_ROOTFAIL 1).report R.KEY_LASTFAULT_FAULT 0x0E01).raise 114
  (s.wr R.KEY_STAT_GEN s.key.fuses).bootRecordDue

/-! ### Flacons -/

/-- Tenants queued by mask, on request or by a periodic round; one queued already stays as it is (R375). -/
def State.queueTenants (s : State) (mask : Nat) (req : Bool) : State :=
  let q := s.key.queue
  let new := mask &&& (q ^^^ (2 ^ 64 - 1))
  { s with key := { s.key with queue := q ||| new, byReq := if req then s.key.byReq ||| new else s.key.byReq } }

/-- A write of KEY_FLREQ (R375). -/
def State.flreqWrite (s : State) (v : Nat) : State := if s.domOn 9 then s.queueTenants (v % 2 ^ 64) true else s

/-- FLACON_REQUEST (R375). -/
def execFlaconRequest (value : DWord) (s : State) : Res := .next (s.flreqWrite value.toNat)

/-- KEY counts one top-note cycle boundary, and at every PERIOD-th queues every enabled tenant; a round that finds one
still queued counts in LATE (R375). -/
def State.flaconRound (s : State) : State :=
  if !s.domOn 9 || s.rd R.KEY_CFG_PERIOD = 0 then s
  else
    let per := max 10 (s.rd R.KEY_CFG_PERIOD)
    let n := s.key.round + 1
    if n < per then { s with key := { s.key with round := n } }
    else
      let s := { s with key := { s.key with round := 0 } }
      let en := s.rd R.KEY_TENEN_EN
      let s := if en &&& s.key.queue = 0 then s else s.incSat R.KEY_FLSTAT_LATE
      s.queueTenants en false

/-- SYS FLACON: xd is 1 where the request queued a tenant (R162, R375). -/
def execFlacon (e : Eng) (d a : BitVec 4) (s : State) : Res :=
  engRun e (sysWord d a 0x30) 4 (fun s =>
    let n := s.x e a
    let en := if s.domOn 9 then s.rd R.KEY_TENEN_EN else 0
    let mask := if n = 0 then en else if n ≤ 64 && bitOf en (n - 1) then 2 ^ (n - 1) else 0
    let new := mask &&& (s.key.queue ^^^ (2 ^ 64 - 1))
    .done ((s.queueTenants mask true).setX e d (b2n (new != 0))) 6) s

/-- The points whose entry has TENANT equal to `t`, in ascending order (R376). -/
def State.tenantPoints (s : State) (t : Nat) : List Nat :=
  (List.range 4096).filter fun p => readLE s.mem (pointAddr p + 10) 1 == t

/-- KEY reads TENANT of every entry, then the other codewords of tenant `t`'s (R273, R376): the state after it, and whether it meets
poison. -/
def State.flaconReads (s : State) (t : Nat) : State × Bool :=
  let q := readCws 9 ((s.dirtyCws 0x4000000 0x10000).filter fun cw => cw % 16 == 8) s
  let r := readCws 9 (((q.1.tenantPoints t).map fun p =>
    (q.1.dirtyCws (pointAddr p) 16).filter fun cw => cw % 16 != 8).flatten) q.1
  (r.1, q.2 || r.2)

/-- One 16-byte record of the payload: POINT, QUAL, AGE and VALUE (R377). -/
def State.flaconRecord (s : State) (p : Nat) : List (BitVec 8) :=
  toLE 2 p ++ toLE 2 (s.ptQual p) ++ readBytes s.mem (pointAddr p + 12) 4 ++ readBytes s.mem (pointAddr p) 8

/-- The 60 header bytes before COMPLETE (Table 15.4). -/
def State.flaconHeader (s : State) (t seq npts : Nat) (req latched : Bool) : List (BitVec 8) :=
  let flags := b2n req + 2 * b2n latched + 4 * b2n (!s.on R.TIM_STAT_SYNC)
  toLE 4 0x4E434C46 ++ toLE 1 1 ++ toLE 1 t ++ toLE 1 (s.rd R.KEY_STAT_GEN) ++ toLE 1 flags ++ toLE 8 seq ++
    toLE 8 s.tsk.latchTime ++ toLE 4 s.tsk.latchCyc ++ toLE 2 npts ++ zeros 2 ++ macBytes ++ zeros 2 ++
    toLE 8 (s.rd R.TSK_IMAGE_ID) ++ zeros 12

/-- The address of a tenant's buffer for a SEQ (R380). -/
def State.flaconAddr (s : State) (t seq : Nat) : Nat :=
  s.rd R.KEY_FLBASE_ADDR + 131328 * (t - 1) + 65664 * (seq % 2)

/-- The next SEQ of a tenant (R378): its count incremented, BOOT advanced first where the count would pass its end. -/
def State.drawSeq (s : State) (t : Nat) : State × Nat :=
  let s := if sget 0 s.key.counts t = 2 ^ 32 - 1 then s.advanceBoot else s
  let n := sget 0 s.key.counts t + 1
  ({ s with key := { s.key with counts := sput 0 s.key.counts t n } }, s.rd R.KEY_BOOT_BOOT * 2 ^ 32 + n)

/-- Tenant `t` leaves the queue. -/
def State.unqueue (s : State) (t : Nat) : State :=
  let drop := fun q => withBit q (t - 1) false
  { s with key := { s.key with queue := drop s.key.queue, byReq := drop s.key.byReq } }

/-- The build of tenant `t`, under its flacon key as it stands once SEQ is drawn (R376 to R380): SEQ is drawn, the points are copied,
and 0 in COMPLETE, the header, the payload and the tag are written. Poison in the copy, or a buffer outside the region, abandons it
(R381); a BOOT that can no longer advance refuses it (R379) (DEDUCED, log entry 47). -/
def State.buildFlacon (s : State) (t : Nat) (req latched : Bool) : State :=
  let d := s.drawSeq t
  let seq := d.2
  let s := d.1
  let k := sget [] s.key.tenants t
  if s.on R.KEY_STAT_SEQLOST then s
  else
  let r := s.flaconReads t
  let s := r.1
  let pts := s.tenantPoints t
  if r.2 then (s.poisonReport 9).incSat R.KEY_FLSTAT_ABANDON
  else
    let a := s.flaconAddr t seq
    if s.rd R.KEY_FLBASE_ADDR % 64 ≠ 0 || !supBuffer a 65664 then
      (s.report R.KEY_LASTFAULT_FAULT 0x0E07).incSat R.KEY_FLSTAT_ABANDON
    else
      let hdr := s.flaconHeader t seq pts.length req latched
      let nonce := zeros 3 ++ toLE 1 t ++ toBE 8 seq
      let ct := Aes.gcmText k nonce ((pts.map s.flaconRecord).flatten)
      let s := s.masterWrite 9 (a + 0x3C) (zeros 4)
      let s := s.masterWrite 9 a hdr
      let s := s.masterWrite 9 (a + 0x40) (ct ++ Aes.gcmTag k nonce hdr ct)
      { s.wr R.KEY_STAT_BUILDING 1 with key := { s.key with build := some ⟨t, seq, a⟩ } }

/-- FLACON_BUILD: the lowest queued tenant that is enabled; disabled tenants drop from the queue, and one without a flacon key is
skipped with fault 0x0E06 (R375, R376, R381). Nothing is built while KEY is off or not ready, before the boot record has been
written and the tenants have their keys, in a gap, with SEQLOST, while a build or an operation runs, or while the tenant's buffers
wait above MEM_FRONT (DEDUCED, log entry 47). A count at its end has the boot record written first (R378). -/
def execFlaconBuild (latched : Bool) (s : State) : Res :=
  if !s.domOn 9 || !bitOf (s.rd R.PWR_DOMSTAT_READY) 9 || s.key.bootDue || !s.key.due.isEmpty || s.inGap || s.on R.KEY_STAT_SEQLOST ||
      s.key.build.isSome || s.on R.KEY_RESULT_BUSY then .next s
  else
    let en := s.rd R.KEY_TENEN_EN
    let s := { s with key := { s.key with queue := s.key.queue &&& en, byReq := s.key.byReq &&& en } }
    match (List.range 64).find? fun i => bitOf s.key.queue i with
    | none => .next s
    | some i =>
      let t := i + 1
      if s.rd R.MEM_FRONT_ADDR < min 0x180000000 (s.rd R.KEY_FLBASE_ADDR + 131328 * t) then .next s
      else if sget 0 s.key.counts t = 2 ^ 32 - 1 && !s.nvsFree then .next s.bootRecordDue
      else
        let q := s.unqueue t
        .next (if (sget [] s.key.tenants t).isEmpty then q.report R.KEY_LASTFAULT_FAULT 0x0E06
          else q.buildFlacon t (bitOf s.key.byReq i) latched)

/-- FLACON_COMPLETE (R380): COMPLETE, then KEY_TSEQ_t; line 113 where the build emptied the queue. In a gap the build stands still
(R381). -/
def execFlaconComplete (s : State) : Res :=
  match (if s.inGap then none else s.key.build) with
  | none => .next s
  | some b =>
    let s := s.masterWrite 9 (b.addr + 0x3C) (toLE 4 0x4B4F4C46)
    let s := s.wr (R.KEY_TSEQ_SEQ (b.tenant - 1)) b.seq
    let s := (s.inc R.KEY_FLSTAT_BUILT).wr R.KEY_STAT_BUILDING 0
    let s := { s with key := { s.key with build := none } }
    .next (if s.key.queue = 0 then s.raise 113 else s)

/-! ### The supervisor's tree (R372) -/

/-- A slot derived from a slot of the tree (R365, R371, Table 15.3). -/
def State.deriveSlot (s : State) (src dst : Nat) (label : List (BitVec 8)) (attr depth : Nat) : State :=
  if s.slotHas src 4 then
    (s.fillSlot dst (deriveKey (s.slotKey src) label attr false depth) attr false depth 1 false).keyFinish 1 0
  else s

/-- The tree of Table 15.3 below the owner node, and the tenants with their keys (R372, R374). -/
def State.ownerTree (s : State) : State :=
  let s := (s.deriveSlot 1 2 (asciiOf "cmd") 2 2).deriveSlot 1 3 (asciiOf "tally" ++ macBytes) 1 2
  let s := (s.deriveSlot 1 4 (s.upd.settings.site.take 32) 4 2).deriveSlot 4 5 (s.upd.settings.building.take 32) 4 3
  s.upd.settings.tenants.foldl (fun s t =>
    if t.1.toNat = 0 || 64 < t.1.toNat || !s.slotHas 5 4 then s
    else (s.runTenant t).setBit R.KEY_TENEN_EN (t.1.toNat - 1)) s

/-- K00 holds the store key (R370, R372). -/
def State.storeKey (s : State) : Bool := s.slotHas 0 3 && s.on (R.KEY_SLOT_STORE 0)

/-- The owner node wrapped under the store key for flash: a 32-byte DERIVE key of depth 1 without EXPORT (R370, R372). -/
def State.wrapOwner (s : State) (node : List (BitVec 8)) : List (BitVec 8) :=
  Aes.wrap (s.slotKey 0) [0xA6, 0xA6, 0xA6, 0xA6, 0x4B, 4, 1, 0] (fitBytes 32 node)

/-- The owner node clear-written at commissioning, with the tree below it, and wrapped by K00 for flash (R372). -/
def State.writeOwner (s : State) (node : List (BitVec 8)) : State :=
  let t := ((s.fillSlot 1 node 4 false 1 2 false).keyFinish 2 0).ownerTree
  if t.storeKey then { (t.keyFinish 4 0).putSettings t.upd.settings (t.wrapOwner node) with
      key := { (t.keyFinish 4 0).key with ownerDue := none } }
  else { t with key := { t.key with ownerDue := some node } }

/-- A new owner node: written once KEY has no operation in progress (R371); with KEY off it waits for the domain's next start, in the
supervisor's memory (R372) (DESIGN CHOICE, log entry 75). -/
def State.commission (s : State) (node : List (BitVec 8)) : State :=
  if !s.domOn 9 || !bitOf (s.rd R.PWR_DOMSTAT_READY) 9 then { s with key := { s.key with ownerDue := some node } }
  else if s.on R.KEY_RESULT_BUSY then { s with key := { s.key with due := s.key.due ++ [.owner node] } }
  else s.writeOwner node

/-- The owner node unwrapped from flash into K01, with the tree below it (R372); what stood there goes. -/
def State.loadOwner (s : State) : State :=
  let s : State := [1, 2, 3, 4, 5].foldl State.emptySlot { s with key := { s.key with tenants := [] } }
  let s :=
    if s.upd.owner.isEmpty || !s.storeKey then s
    else
      let r : State × Nat := s.unwrapInto ⟨5, 0, false, 0, 1, 0, 0⟩ s.upd.owner
      r.1.keyFinish 5 r.2
  s.ownerTree

/-- What the supervisor does at each start of the KEY domain (R372): K00 from the root, a session KEK of its own choice in K06, and the
owner node with the tree below it, unwrapped from flash into K01, or clear-written where a new one waits. -/
def State.keyTree (s : State) : State :=
  let s := match s.key.root with
    | some r => (s.fillSlot 0 (deriveKey r (asciiOf "store") 3 false 1) 3 false 1 1 true).keyFinish 1 0
    | none => s
  let s := { (s.fillSlot 6 (toLE 32 s.freeVal) 3 false 8 2 false).keyFinish 2 0 with free := s.free + 1 }
  match s.key.ownerDue with
  | some node => s.writeOwner node
  | none => s.loadOwner

/-- The supervisor's operations that waited are run, oldest first (R371). -/
def State.keyResume (s : State) : State :=
  s.key.due.foldl (fun s d => match d with
    | .owner node => s.writeOwner node
    | .reload => s.loadOwner
    | .tenants => s.runTenants) { s with key := { s.key with due := [] } }

/-- The operation in progress ends (R371); one that waited for the end of a build or for MEM_FRONT is performed first, once it can
be (R281, R375). -/
def execKeyOperationEnd (s : State) : Res :=
  match s.key.op with
  | none => .next s
  | some ⟨op, _, some st⟩ => .next (s.keyFinish op st).keyResume
  | some ⟨op, v, none⟩ =>
    if s.keyHeld (keyCmd v) then .next s
    else
      let r := s.keyPerform (keyCmd v)
      .next (r.1.keyFinish op r.2).keyResume

end Sys2Proof.Machine
end

