-- ==== Sys2Proof/Machine/Tally.lean ====
section
/-! DEFINITION. The tally book: definitions, updates, epochs, sealing, the log and its erase (R384 to R400, R159). -/

namespace Sys2Proof.Machine

/-! ### Codes -/

/-- The code is defined (R384). -/
def State.tallyDefined (s : State) (c : Nat) : Bool := decide (c < 1024) && s.on (R.TLY_DEF_DEF c)

/-- The live set of a code. -/
def State.live (s : State) (c : Nat) : TallyLive := sget {} s.tly.live c

/-- The live set of a code replaced; TLY_DEF.UPD shows its accepted updates. -/
def State.setLive (s : State) (c : Nat) (l : TallyLive) : State :=
  { s.wr (R.TLY_DEF_UPD c) (min 0xFFFFFFFF l.updates) with
    tly := { s.tly with live := sput {} s.tly.live c l } }

/-- Edge `i` of a code, an f32 pattern (Table 16.2). -/
def State.edge (s : State) (c i : Nat) : Nat := leNat (((sget [] s.tly.defs c).drop (8 + 4 * i)).take 4)

/-- One f64 value is below another (R390). -/
def lt64 (a b : Nat) : Bool := (f64.unpack a).cmp (f64.unpack b) == some .lt

/-- The number of edges at or below a value (R388, R390). -/
def State.binOf (s : State) (c v : Nat) : Nat :=
  ((List.range 15).filter fun i =>
    match (f32.unpack (s.edge c i)).cmp (f64.unpack v) with
    | some .gt => false
    | some _ => true
    | none => false).length

/-- An accepted update of `v`, an f64 pattern (R390): bins for HIST and BOTH, extremes for EXTR and BOTH (Table 16.1). -/
def State.tallyAccept (s : State) (c v stamp : Nat) : State :=
  let l := s.live c
  let l := { l with updates := l.updates + 1, second := l.second + 1 }
  let kind := s.rd (R.TLY_DEF_KIND c)
  if f64.unpack v = .nan then s.setLive c { l with nan := true }
  else
    let k := s.binOf c v
    let l := if kind % 2 = 1 then l else { l with bins := l.bins.set k (min 0xFFFFFFFF (l.bins.getD k 0 + 1)) }
    if kind % 3 = 0 then s.setLive c l
    else
      let l := if lt64 v l.min then { l with min := v, mint := stamp } else l
      s.setLive c (if lt64 l.max v then { l with max := v, maxt := stamp } else l)

/-- An update (R388, R389): suppressed where RATE is not 0 and this second's count has reached it. -/
def State.tallyUpdate (s : State) (c v stamp : Nat) : State :=
  let l := s.live c
  let rate := s.rd (R.TLY_DEF_RATE c)
  if rate ≠ 0 && decide (rate ≤ l.second) then s.setLive c { l with suppressed := l.suppressed + 1 }
  else s.tallyAccept c v stamp

/-- An update put in its place among those of one clock, by engine number (R161). -/
def putTurn (u : Nat × Nat × Nat) : List (Nat × Nat × Nat) → List (Nat × Nat × Nat)
  | [] => [u]
  | x :: t => if u.1 < x.1 then u :: x :: t else x :: putTurn u t

/-- An update by engine `e`: those that engines have made to the code in this clock are taken in engine order, none is lost (R161). -/
def State.tallyTurn (s : State) (e c v stamp : Nat) : State :=
  let held := s.tly.turns.filter fun r => r.clk == s.clk
  let r : TallyTurn := match held.find? fun r => r.code == c && decide (r.after = s.live c) with
    | some r => { r with ups := putTurn (e, v, stamp) r.ups }
    | none => ⟨s.clk, c, s.live c, s.live c, [(e, v, stamp)]⟩
  let t := r.ups.foldl (fun t u => t.tallyUpdate c u.2.1 u.2.2) (s.setLive c r.before)
  { t with tly := { t.tly with turns := (held.filter fun x => x.code != c) ++ [{ r with after := t.live c }] } }

/-- A TLY operand as f64, by type and signedness (R388). -/
def tallyValue (ty : BitVec 3) (sx : Bool) (v : Nat) : Nat :=
  let n := tyBits ty
  let v := v % 2 ^ n
  if floatTy ty then (if ty.toNat = 4 then f64.ofVal 0 (f32.unpack v) else v)
  else f64.ofInt 0 (if sx then toSigned n v else (v : Int))

/-- TLY (R159): the stamp is TSTAMP of the run; a code outside 0x100 to 0x3FF or without a definition traps with 0x0510. -/
def execTly (e : Eng) (w : FmtA) (s : State) : Res :=
  engRun e (packA 0x64 w) 4 (fun s =>
    let c := s.x e w.a
    if !(intTy w.ty || floatTy w.ty) then .trap s 0x0501 0
    else if !(decide (0x100 ≤ c) && decide (c ≤ 0x3FF) && s.tallyDefined c) then .trap s 0x0510 c
    else .done (s.tallyTurn e c (tallyValue w.ty w.sx (s.x e w.b)) (s.task (s.curTask e)).tstamp) 6) s

/-! ### Sealing -/

/-- The records the log holds (R397). -/
def logCapacity : Nat := 16777216

/-- Free places in the log, those of waiting records left out. -/
def State.tallyRoom (s : State) : Nat := logCapacity - s.tly.used - s.tly.sealing.length

/-- The codes that a boundary seals: defined, of kind 0 to 2 (R392). -/
def State.sealedCodes (s : State) : List Nat :=
  (List.range 1024).filter fun c => s.on (R.TLY_DEF_DEF c) && s.rd (R.TLY_DEF_KIND c) != 3

/-- The bytes 0x20 to 0xBB of a code's record: bins, extremes and edges, those that the kind does not use at 0. -/
def State.recordBody (s : State) (c : Nat) : List (BitVec 8) :=
  let l := s.live c
  let kind := s.rd (R.TLY_DEF_KIND c)
  let bins := if kind = 1 then zeros 64 else (l.bins.map (toLE 4)).flatten
  let ext := if kind = 0 then zeros 32 else toLE 8 l.min ++ toLE 8 l.mint ++ toLE 8 l.max ++ toLE 8 l.maxt
  let edges := if kind = 1 then zeros 60 else fitBytes 60 ((sget [] s.tly.defs c).drop 8)
  bins ++ ext ++ edges

/-- The record of a code's live epoch, sealed now (R393, R395); `merged` where the seal ends FULL (R398). -/
def State.liveRecord (s : State) (c : Nat) (cut merged : Bool) : TallyRec :=
  let l := s.live c
  let span := match l.own with
    | some (st, m) => (st, s.tly.missed - m + 1, true)
    | none => (s.rd R.TLY_EPSTART_START, s.tly.missed + 1, s.tly.cutBefore)
  let time := if l.own.isSome then (l.stepped, l.unsync) else (s.tly.stepped, s.tly.unsync)
  let flags := b2n (merged || decide (1 < span.2.1)) + 2 * b2n (span.2.2 || l.marred) + 4 * b2n cut + 8 * b2n time.1 +
    16 * b2n (time.2 || !s.on R.TIM_STAT_SYNC) + 32 * b2n l.nan
  ⟨c, s.rd (R.TLY_DEF_KIND c), flags, span.1, s.tstampNow, span.2.1, s.rd (R.TLY_DEF_RATE c), s.recordBody c, l.updates,
    l.suppressed, s.rd R.TSK_IMAGE_ID⟩

/-- The record of an event (R395, Table 16.3). -/
def State.eventRecord (s : State) (e : TallyEvent) : TallyRec :=
  ⟨e.code, 3, 0, e.time, e.time, 0, 0, fitBytes 64 e.payload ++ zeros 92, 0, 0, s.rd R.TSK_IMAGE_ID⟩

/-- Records moved into the sealing bank. -/
def State.bankRecords (s : State) (rs : List TallyRec) : State :=
  if rs.isEmpty then s
  else { (s.wr R.TLY_STAT_SEALING 1).wr R.NVS_STAT_SEAL 1 with tly := { s.tly with sealing := s.tly.sealing ++ rs } }

/-- Every live set restarts empty, and TLY_DEF.UPD with it (R392); the counts of the present second go on (R389). -/
def State.clearLive (s : State) : State :=
  let s : State := (s.tly.live.map (·.1)).foldl (fun s c => s.wr (R.TLY_DEF_UPD c) 0) s
  { s with tly := { s.tly with live := smap {} (fun l => { second := l.second }) s.tly.live } }

/-- FULL is set with fault 0x0F01 and line 117 (R397). -/
def State.setFull (s : State) : State :=
  if s.on R.TLY_STAT_FULL then s else ((s.wr R.TLY_STAT_FULL 1).report R.TLY_LASTFAULT_FAULT 0x0F01).raise 117

/-- Every live epoch is sealed and the next one starts, all or nothing (R392, R397, R398): the gap record first where FULL
clears. Without room, or while records cannot be sealed, the live sets are kept and the boundary counts as missed. -/
def State.sealEpoch (s : State) (cut : Bool) : State :=
  let codes := s.sealedCodes
  let gap := s.on R.TLY_STAT_FULL
  if !s.tallyReady then { s with tly := { s.tly with missed := s.tly.missed + 1 } }
  else if s.tallyRoom < codes.length + b2n gap then
    { s.setFull with tly := { s.setFull.tly with missed := s.tly.missed + 1 } }
  else
    let recs := codes.map fun c => s.liveRecord c cut gap
    let gapRec := s.eventRecord
      ⟨0x00D, toLE 4 s.tly.missed ++ toLE 4 (s.rd R.TLY_EVLOST_COUNT), s.tstampNow⟩
    let s := if gap then
        ((s.wr R.TLY_STAT_FULL 0).wr R.TLY_EVLOST_COUNT 0).raise 117
      else s
    let s := (s.bankRecords (if gap && s.tallyDefined 0x00D then gapRec :: recs else recs)).clearLive
    let s := s.wr R.TLY_EPSTART_START s.tstampNow
    { s with tly := { s.tly with missed := 0, stepped := false, unsync := !s.on R.TIM_STAT_SYNC, cutBefore := cut } }

/-- The epoch length: EPOCH held in 60 to 86,400 s (R391, TLY_CFG). -/
def State.epochLen (s : State) : Nat := max 60 (min 86400 (s.rd R.TLY_CFG_EPOCH))

/-- The epoch index of the present second: floor((SEC - TLY_ALIGN) / E) (R391). -/
def State.epochIndex (s : State) : Int :=
  ((s.rd R.TIM_SEC_SEC : Int) - toSigned 32 (s.rd R.TLY_ALIGN_OFS)).fdiv (s.epochLen : Int)

/-- The statistics that the supervisor feeds once a second, with the values in f64 (Table 16.3). A read of MAXRUN clears it,
as any read of an RC field does (R7). -/
def State.feedStats (s : State) : State :=
  let feed := fun (s : State) (c v : Nat) => if s.tallyDefined c then s.tallyUpdate c v s.tstampNow else s
  let s : State := (List.range 32).foldl (fun s t =>
    if s.tallyDefined (0x80 + t) then
      (feed s (0x80 + t) (f64.ofInt 0 (s.rd (R.TSK_TSTAT_MAXRUN_MAXRUN t)))).wr (R.TSK_TSTAT_MAXRUN_MAXRUN t) 0
    else s) s
  let s := feed s 0xA0 (f64.div (f64.ofInt 0 (s.rd R.PWR_VIN_VIN)) (f64.ofInt 0 100))
  (List.range 4).foldl (fun s i =>
    feed s (0xA1 + i) (f64.div (f64.ofInt 0 (s.rd (R.SLR_FSV_V i))) (f64.ofInt 0 10))) s

/-- What a second boundary of network time brings to TLY: the rate counts return to 0, a written EPOCH takes effect with CUT, and a
changed epoch index seals (R389, R391, R393). The feed of the statistics is a row of its own, MODULE_STAT_UPDATE. -/
def State.tallySecond (s : State) : State :=
  let s := { s with tly := { s.tly with live := smap {} (fun l => { l with second := 0 }) s.tly.live } }
  let i := s.epochIndex
  let s :=
    if s.tly.epochWritten then (s.sealEpoch true)
    else if i ≠ s.tly.idx then s.sealEpoch false else s
  { s with tly := { s.tly with epochWritten := false, idx := i } }

/-- MODULE_STAT_UPDATE (R396, R421): the supervisor feeds the module's statistics, PWR_VIN as latest measured. -/
def execModuleStatUpdate (vin vhu : BitVec 16) (s : State) : Res :=
  .next ((s.wr R.PWR_VIN_VIN vin.toNat).wr R.PWR_VIN_VHU vhu.toNat).feedStats

/-- TIM has become unsynchronised, or been stepped, during the live epoch and every epoch of a code's own (R393). -/
def State.tallyTime (s : State) (step : Bool) : State :=
  let off := !s.on R.TIM_STAT_SYNC
  let note := fun (l : TallyLive) =>
    if l.own.isSome then { l with stepped := l.stepped || step, unsync := l.unsync || off } else l
  { s with tly := { s.tly with stepped := s.tly.stepped || step, unsync := s.tly.unsync || off
                               live := smap {} note s.tly.live } }

/-- The module event codes 0x001 to 0x00E are defined, of kind EVENT (R384, R385, Table 16.3). -/
def State.defineEvents (s : State) : State :=
  ((List.range 14).map (· + 1)).foldl (fun s c => (s.wr (R.TLY_DEF_DEF c) 1).wr (R.TLY_DEF_KIND c) 3) s

/-- TLY starts after a reset by the logic supply (R393, R400, Table 16.7): registers at reset, the counts of the log read from
its header, the event codes defined (R384, R385), an empty live set that is PARTIAL, and record 0x00E. -/
def State.tallyStart (s : State) (headerBad : Bool) : State :=
  let h := headerAt s.flashView
  let n := h.getD [s.tly.next, s.tly.old, s.tly.used, s.tly.erases, s.tly.place]
  let t := { s.tly with next := n.getD 0 0, old := n.getD 1 0, used := n.getD 2 0, erases := n.getD 3 0, place := n.getD 4 0 }
  let s := s.resetRegs 0x10110000 0x10120000
  let s := { s with tly := { next := t.next, old := t.old, used := t.used, erases := t.erases, place := t.place,
                             index := t.index } }
  let s := ((s.wr R.TLY_NEXTSEQ_SEQ t.next).wr R.TLY_OLDSEQ_SEQ t.old).wr R.TLY_USED_COUNT t.used
  let s := (s.wr R.TLY_ERASES_COUNT t.erases).wr R.TLY_EPSTART_START s.tstampNow
  let s := { s with tly := { s.tly with idx := s.epochIndex } }
  let s := s.defineEvents
  let s := if headerBad || h.isNone then
      ((s.wr R.TLY_STAT_NOLOG 1).report R.TLY_LASTFAULT_FAULT 0x0F05).raise 119
    else s
  s.tallyEvent 0x00E (toLE 4 t.next ++ toLE 4 s.key.fuses)

/-! ### Records (R395) -/

/-- The bytes of a record under a SEQ; the HMAC is a free value where K03 holds no tally key. -/
def State.recordBytes (s : State) (r : TallyRec) (seq : Nat) : List (BitVec 8) :=
  let head := toLE 2 r.code ++ toLE 1 r.kind ++ toLE 1 r.flags ++ toLE 4 seq ++ toLE 8 r.start ++ toLE 8 r.stop ++
    toLE 4 r.epochs ++ toLE 2 r.rate ++ zeros 2 ++ fitBytes 156 r.body ++ zeros 4 ++ toLE 8 r.updates ++
    toLE 8 r.suppressed ++ toLE 8 r.imageId ++ macBytes ++ zeros 14
  let mac := if s.slotHas 3 1 then (hmac256 (s.slotKey 3) head).take 16 else toLE 16 s.freeVal
  head ++ mac ++ toLE 4 (crc32 (head ++ mac))

/-- The flash address of a place in the log: 16 records per block of the partition TLY (Table 11.7). -/
def logAddr (place : Nat) : Nat := 0x40100 * 4096 + 256 * (place % logCapacity)

/-- The log's counts in the registers. -/
def State.showLog (s : State) : State :=
  (((s.wr R.TLY_NEXTSEQ_SEQ s.tly.next).wr R.TLY_OLDSEQ_SEQ s.tly.old).wr R.TLY_USED_COUNT s.tly.used).wr
    R.TLY_ERASES_COUNT s.tly.erases

/-- Use of the log has passed TLY_CFG.WARN per cent (Table 16.6). -/
def State.usePassed (s : State) : Bool := decide (s.rd R.TLY_CFG_WARN * logCapacity < s.tly.used * 100)

/-- The first free place from `p` on, `held` being the places of the records held, each plus one: with `n` of them, `n` steps reach it
(R397). -/
def freePlace (held : List Nat) : Nat → Nat → Nat
  | 0, p => p
  | n + 1, p => if held.contains (p + 1) then freePlace held n ((p + 1) % logCapacity) else p

/-- The next free place of the log: never one that a record holds (R397). -/
def State.nextPlace (s : State) : Nat :=
  let held := s.tly.index.map (·.2)
  freePlace held held.length (s.tly.place % logCapacity)

/-- A record written at the next free place under the next SEQ (R395); a failed write leaves the place unused and the record
waiting for the next free one (R292, fault 0x0F02). -/
def State.writeRecord (s : State) (r : TallyRec) (failed : Bool) : State :=
  let p := s.nextPlace
  if failed then
    { s.writeFailure.report R.TLY_LASTFAULT_FAULT 0x0F02 with tly := { s.tly with place := (p + 1) % logCapacity } }
  else
    let was := s.usePassed
    let q := s.tly.next
    let bs := s.recordBytes r q
    let s := if s.slotHas 3 1 then s else s.useFree
    let s := (s.setFlash (logAddr p) 256 (writeBytes s.flash (logAddr p) bs)).claimBlocks 0x40000 1
    let s := { s with tly := { s.tly with index := sput 0 s.tly.index q (p + 1)
                                          place := (p + 1) % logCapacity
                                          next := (q + 1) % 2 ^ 32
                                          used := s.tly.used + 1 } }
    let s := s.showLog
    if s.usePassed && !was then (s.wr R.TLY_STAT_WARNED 1).raise 118 else s

/-- The sealing bank has emptied: the seal ends with line 116, and NVS goes on to what waited (R291). -/
def State.endSeal (s : State) : State :=
  if s.tly.sealing.isEmpty then (((s.wr R.TLY_STAT_SEALING 0).wr R.NVS_STAT_SEAL 0).raise 116).nvsDrain else s

/-- The oldest event has its record, or is given up: after the last NVS goes on to what waited (R291). -/
def State.dropEvent (s : State) : State := { s with tly := { s.tly with events := s.tly.events.drop 1 } }.nvsDrain

/-- A code's record of an epoch is given up: it takes no SEQ, and the code's next record carries PARTIAL (Table 20.4). -/
def State.abandonRecord (s : State) (r : TallyRec) (rs : List TallyRec) : State :=
  if rs.any fun q => q.code == r.code then
    let later := rs.dropWhile fun q => q.code != r.code
    let marked := later.take 1 |>.map fun q => { q with flags := withBit q.flags 1 true }
    { s with tly := { s.tly with sealing := rs.take (rs.length - later.length) ++ marked ++ later.drop 1 } }
  else { s.setLive r.code { s.live r.code with marred := true } with tly.sealing := rs }

/-- TALLY_RECORD_WRITE (R392, R395 to R397): the oldest waiting event, else the first record of the sealing bank. An event
that finds no room is counted in TLY_EVLOST with fault 0x0F03. Records wait for a retain save and until NVS is ready (R291, R294).
While PFW is set, only the seal is written (R429) (DEDUCED, log entry 35). An event whose code is no longer defined is not sealed
(R384), and poison in a code's data gives its record up (R279, Table 20.4) (DESIGN CHOICE, log entry 63). -/
def execTallyRecordWrite (done : SealEnd) (s : State) : Res :=
  if !s.tallyReady || !s.nvsReady || s.on R.NVS_STAT_SAVE then .next s
  else
    match (if s.on R.NVS_STAT_PFWORDER then [] else s.tly.events), s.tly.sealing with
    | e :: _, _ =>
      if !s.tallyDefined e.code then .next s.dropEvent
      else if s.tallyRoom = 0 then
        .next (((s.incSat R.TLY_EVLOST_COUNT).report R.TLY_LASTFAULT_FAULT 0x0F03).raise 119).dropEvent
      else
        let t := s.writeRecord (s.eventRecord e) done.failed
        .next (if done.failed then t else t.dropEvent)
    | [], r :: rs =>
      if done.poison && r.kind != 3 then .next ((s.poisonReport 0xA).abandonRecord r rs).endSeal
      else
        let t := s.writeRecord r done.failed
        .next (if done.failed then t else { t with tly := { t.tly with sealing := rs } }.endSeal)
    | [], [] => .next s

/-! ### The erase (R398) -/

/-- The MAC that an erase up to `last` carries: under the command key K02. -/
def State.eraseMac (s : State) (last : Nat) : List (BitVec 8) :=
  hmac256 (s.slotKey 2) (asciiOf "erase" ++ macBytes ++ toLE 4 last ++ toLE 4 s.tly.erases)

/-- An erase of the records from the oldest up to `last`: true where it is performed. A bad MAC or a `last` outside the
records held refuses it with fault 0x0F04. The loss of the header ends with an erase of the whole log, one of no records
included (Table 16.7). -/
def State.tallyErase (s : State) (last : Nat) (mac : List (BitVec 8)) : State × Bool :=
  let n := (last + 1 + 2 ^ 32 - s.tly.old) % 2 ^ 32
  let whole := s.on R.TLY_STAT_NOLOG && s.tly.used == 0
  if s.domOn 9 && s.slotHas 2 2 && mac = s.eraseMac last && (decide (1 ≤ n) || whole) && decide (n ≤ s.tly.used) then
    let first := s.tly.old
    let qs := (List.range n).map fun i => (first + i) % 2 ^ 32
    let t := { s.tly with
      index := qs.foldl (fun m q => sdel m q) s.tly.index
      old := (last + 1) % 2 ^ 32
      used := s.tly.used - n
      erases := (s.tly.erases + 1) % 2 ^ 32 }
    let fl := qs.foldl (fun m q =>
      match sget 0 s.tly.index q with
      | 0 => m
      | k => sclear m (logAddr (k - 1)) (logAddr (k - 1) + 256)) s.flash
    let s : State := (State.showLog { s with flash := fl, tly := t }).claimBlocks 0x40000 1
    let s : State := if s.tly.used = 0 then s.wr R.TLY_STAT_NOLOG 0 else s
    (s.tallyEvent 0x00C (toLE 4 first ++ toLE 4 last ++ toLE 4 s.tly.erases), true)
  else ((s.report R.TLY_LASTFAULT_FAULT 0x0F04).raise 119, false)

/-! ### Definitions -/

/-- A code defined by 72 bytes of Table 16.2; a number that is no code defines nothing (R384). -/
def State.defineCode (s : State) (d : List (BitVec 8)) : State :=
  let at' := fun o n => leNat ((d.drop o).take n)
  let c := at' 0 2
  if 1024 ≤ c then s
  else
    let s := ((s.wr (R.TLY_DEF_KIND c) (at' 2 1)).wr (R.TLY_DEF_DEF c) 1).wr (R.TLY_DEF_RATE c) (at' 4 2)
    { s with tly := { s.tly with defs := sput [] s.tly.defs c d } }

/-- The live epoch of one code ends early with CUT, and a new one of its own starts (R387). Without room the epoch is lost
and FULL is set. -/
def State.cutCode (s : State) (c : Nat) : State :=
  let r := s.liveRecord c true false
  let s := if s.tallyRoom = 0 then s.setFull else s.bankRecords [r]
  s.setLive c { own := some (s.tstampNow, s.tly.missed), second := (s.live c).second, unsync := !s.on R.TIM_STAT_SYNC }

/-- A statistics code defined from the module settings, of the kind that Table 16.3 gives it (R385, R396). -/
def State.defineStat (s : State) (d : List (BitVec 8)) : State :=
  let c := leNat (d.take 2)
  if 0x080 ≤ c && c ≤ 0x0A4 then (s.defineCode d).wr (R.TLY_DEF_KIND c) (if c = 0x0A0 then 2 else 1) else s

/-- TLY_ALIGN written from RTC_UTCOFS (R391). -/
def State.alignEpochs (s : State) : State := s.wr R.TLY_ALIGN_OFS (ofSigned 32 (toSigned 16 (s.rd R.RTC_UTCOFS_OFS)))

/-- The program definitions of a committed image (R387): unchanged codes keep their live epochs; those of changed and removed
codes are sealed with CUT. -/
def State.tallyDefine (s : State) (ds : List (List (BitVec 8))) : State :=
  let codeOf := fun d => leNat (d.take 2)
  let kept := fun c => ds.any fun d => codeOf d == c && sget [] s.tly.defs c == d
  let old := (List.range 0x300).map (· + 0x100)
  let s : State := (old.filter fun c => s.on (R.TLY_DEF_DEF c) && !kept c).foldl (fun s c => s.cutCode c) s
  let gone := old.filter fun c => s.on (R.TLY_DEF_DEF c) && !(ds.any fun d => codeOf d == c)
  let s : State := gone.foldl (fun s c =>
    let s := (((s.wr (R.TLY_DEF_DEF c) 0).wr (R.TLY_DEF_KIND c) 0).wr (R.TLY_DEF_RATE c) 0).setLive c {}
    { s with tly := { s.tly with defs := sdel s.tly.defs c } }) s
  ds.foldl (fun s d =>
    let c := codeOf d
    let fresh := !s.tallyDefined c
    let s := s.defineCode d
    if fresh then s.setLive c { own := some (s.tstampNow, s.tly.missed), unsync := !s.on R.TIM_STAT_SYNC } else s) s

end Sys2Proof.Machine
end

