-- ==== Sys2Proof/Machine/Restart.lean ====
section
/-! DEFINITION. The commit of a loaded image, orphan forces, and restarts (R106, R109, R138, R165 to R184, R282, R387). -/

namespace Sys2Proof.Machine

/-! ### Orphan forces (R106) -/

/-- A force on the point is orphan: an input without a source, or an output without a writer. -/
def State.orphanPoint (s : State) (p : Nat) : Bool :=
  if bitOf (s.ptFlags p) 0 then
    match s.decl p with
    | some d => d.wkind == 0
    | none => true
  else s.ptSrc p == 0

/-- FLAGS of a point written by the supervisor. -/
def State.putFlags (s : State) (p v : Nat) : State := s.masterWrite 0 (pointAddr p + 11) (toLE 1 v)

/-- One force entry re-evaluated: ORPHAN in the entry and in the point's FLAGS, line 29 on a change (R106). -/
def State.evalForce (s : State) (n : Nat) : State :=
  let p := s.rd (R.TSK_FORCE_CTL_POINT n)
  let s := s.supRead (pointAddr p + 8) 4
  let o := s.on (R.TSK_FORCE_CTL_EN n) && s.orphanPoint p
  let s := if s.on (R.TSK_FORCE_CTL_EN n) && bitOf (s.ptFlags p) 2 != o then
      s.putFlags p (withBit (s.ptFlags p) 2 o)
    else s
  if s.on (R.TSK_FORCE_CTL_ORPHAN n) = o then s else (s.wrB (R.TSK_FORCE_CTL_ORPHAN n) o).raise 29

/-- The counts of forces, and TSK_STAT.ORPHAN. -/
def State.countForces (s : State) : State :=
  let fs := s.forces
  let orph := (fs.filter fun c => s.on (R.TSK_FORCE_CTL_ORPHAN c.1)).length
  ((s.wr R.TSK_FORCECNT_USED fs.length).wr R.TSK_FORCECNT_ORPH orph).wrB R.TSK_STAT_ORPHAN (orph != 0)

/-- Every force re-evaluated (R106). -/
def State.evalForces (s : State) : State :=
  let s : State := s.forces.foldl (fun s c => s.evalForce c.1) s
  s.countForces

/-- Force entry `n` written by the supervisor: its point, value and EN. Q_FORCED of an output entry follows at once; an input
point changes at the next latch (R105). -/
def State.writeForce (s : State) (n p v : Nat) (en : Bool) : State :=
  let was := s.rd (R.TSK_FORCE_CTL_POINT n)
  let wasOn := s.on (R.TSK_FORCE_CTL_EN n)
  let s := ((s.wr (R.TSK_FORCE_CTL_POINT n) p).wr (R.TSK_FORCE_VALUE_VALUE n) v).wrB (R.TSK_FORCE_CTL_EN n) en
  let settle := fun (s : State) (p : Nat) =>
    let s := s.supRead (pointAddr p + 8) 4
    let f := (s.forceOf p).isSome
    let s := if bitOf (s.ptFlags p) 2 && !f then s.putFlags p (withBit (s.ptFlags p) 2 false) else s
    if bitOf (s.ptFlags p) 0 && bitOf (s.ptQual p) 4 != f then
      s.masterWrite 0 (pointAddr p + 8) (toLE 2 (withBit (s.ptQual p) 4 f))
    else s
  let s := settle s p
  let s := if wasOn && was != p then settle s was else s
  let s := if !en && s.on (R.TSK_FORCE_CTL_ORPHAN n) then (s.wr (R.TSK_FORCE_CTL_ORPHAN n) 0).raise 29 else s
  s.evalForces

/-! ### The commit of a load (R169) -/

/-- The flash address of a program slot (Table 11.7). -/
def progBase (slot : Nat) : Nat := (if slot = 0 then 0x4200 else 0x7200) * 4096

/-- The slot that the marker in flash names, and whether a load has marked it (R169). -/
def State.marker (s : State) : Option (Nat × Bool) := (markerAt s.flashView 0xAD06).or (markerAt s.flashView 0xAD07)

/-- The slot that the next load fills: the one that is not active. -/
def State.freeSlot (s : State) : Nat := 1 - (s.marker.getD (s.nvs.activeSlot, false)).1 % 2

/-- Every block of a program slot that an image fills can be written (R292). -/
def State.slotTakes (s : State) (img : List (BitVec 8)) : Bool := s.writable (progBase s.freeSlot) img.length == img.length

/-- Step 1: the image goes into the slot that is not active, which is then marked active. -/
def State.storeImage (s : State) (img : List (BitVec 8)) : State :=
  let slot := s.freeSlot
  let s := (s.flashDo (.trim (progBase slot) (12288 * 4096))).flashPut (progBase slot) img
  { s with nvs := { s.nvs with activeSlot := slot, marked := true } }.claimBlocks 0xAD06 2

/-- Step 2: the code store, zero outside CODE and POOL. -/
def State.writeCode (s : State) (im : Image) : State :=
  im.code.foldl (fun s c => s.poke c.1 c.2) (s.zeroRange 0 0x800000)

/-- The task table row of a task record. -/
def State.writeTask (s : State) (t : Nat) (r : TaskRec) : State :=
  let s := s.wr (R.TSK_TASK_CTL_EN t) (r.w0 % 2)
  let s := s.wr (R.TSK_TASK_CTL_LENIENT t) (r.w0 / 2)
  let s := s.wr (R.TSK_TASK_CTL_NOTE t) (r.w0 / 4)
  let s := s.wr (R.TSK_TASK_CTL_ENG t) (r.w0 / 16)
  let s := s.wr (R.TSK_TASK_CTL_PERIOD t) (r.w0 / 2 ^ 16)
  (s.wr (R.TSK_TASK_COMMIT_COMMIT t) r.commit).wr (R.TSK_TASK_OFS_OFS t) r.ofs

/-- The task table as the image gives it. -/
def State.writeTasks (s : State) (im : Image) : State :=
  (List.range 32).foldl (fun s t =>
    match im.tasks[t]? with
    | some r => s.writeTask t r
    | none => s) s

/-- FBE_EVSUB as the image gives it; EVLIVE and EVSNAP clear (R138). -/
def State.writeEvsub (s : State) (im : Image) : State :=
  (List.range 8).foldl (fun s k =>
    let e := k / 2
    let j := k % 2
    ((s.wr (R.FBE_EVSUB_SUB e j) (im.evsub.getD k 0)).wr (R.FBE_EVLIVE_LIVE e j) 0).wr (R.FBE_EVSNAP_SNAP e j) 0) s

/-- TENANT and FLAGS of every entry of the process image; an undeclared point has both 0. They are half of a codeword, which is read
first, and one that holds poison keeps what it has (R274). -/
def State.writeDecls (s : State) (im : Image) : State :=
  let s := s.partReads 0 ((s.dirtyCws 0x4000000 0x10000).filter fun cw => cw % 16 == 8)
  let keep := fun (c : Nat × BitVec 8) =>
    !(decide (0x4000000 ≤ c.1) && decide (c.1 < 0x4010000) && (c.1 % 16 == 10 || c.1 % 16 == 11)) ||
      (s.cwErr (cwBase c.1)).poison
  let s : State := { s with mem := s.mem.filter keep }
  im.points.foldl (fun s p => s.masterWrite 0 (pointAddr p.point + 10) (toLE 1 p.tenant ++ toLE 1 p.flags)) s

/-- The declared coefficients of a loop record: bank A from COEFOFF, bank B following (R207). -/
def declaredCoefs (im : Image) (r : List Nat) : List (Nat × Nat) :=
  let n := recLoop r
  let nsec := r.getD 3 0 % 32
  let off := r.getD 12 0
  ((List.range (5 * nsec)).map fun i => (coefKey n 0 i, numAt im.loopBytes (off + 4 * i) 4)) ++
    ((List.range (5 * nsec)).map fun i => (coefKey n 1 i, numAt im.loopBytes (off + 20 * nsec + 4 * i) 4))

/-- The loop declarations: LPE_LDECL, LPE_HYPER, the declared copies, and every claimed loop in its declared state (R186,
R209, R212). -/
def State.writeLoops (s : State) (im : Image) : State :=
  let s := s.resetRegs (0x10080000 + 0x1000) (0x10080000 + 0x5000)
  let s : State := im.loops.foldl (fun s r =>
    let n := recLoop r
    let s : State := (List.range 11).foldl (fun s w => s.wr (R.LPE_LDECL_WORD n w) (r.getD w 0)) s
    s.wr (R.LPE_LDECL_CL_CLAIMED n) 1) s
  let s := s.wr R.LPE_HYPER_H (hyperOf im.loops)
  let decl := (im.loops.flatMap (declaredCoefs im)).foldl (fun m (c : Nat × Nat) => sput 0 m c.1 c.2) []
  let s := { s with lpe := { s.lpe with declared := decl, coef := [], fresh := true } }
  s.loopsRestart

/-- What a pulse channel counts: its quantity, weight and output, for channels 0 to 3 always the S0 output, and 32 for no DO (R267,
R268). -/
def State.pulseKey (s : State) (n : Nat) : Nat × Nat × Nat :=
  (s.rd (R.MET_PCFG_QTY n), s.rd (R.MET_PCFG_WT_WT n), if n < 4 then 32 else min 32 (s.rd (R.MET_PCFG_W_DO n)))

/-- The channel settings of the image, which the slices follow (R243); a pulse channel that they change starts anew, its pending count
added to LOST (R268). -/
def State.writeSliceCfg (s : State) (im : Image) : State :=
  let t := (s.applyCfg im).followCfg
  (List.range 8).foldl (fun t n =>
    if s.pulseKey n = t.pulseKey n then t
    else
      let t := t.incSat (R.MET_LOST_LOST n) (t.rd (R.MET_PENDING_PENDING n))
      let t := t.wr (R.MET_PENDING_PENDING n) 0
      { t with met := { t.met with pulses := sdel t.met.pulses n } }) t

/-- Steps 2 to 4 of R169, and the orphans after step 3 (R170). -/
def State.applyImage (s : State) (im : Image) (led : List LedgerEntry) : State :=
  let s := ((s.writeCode im).writeTasks im).writeEvsub im
  let s : State := { s with img := some im, ledger := led }
  let s := ((s.writeDecls im).writeSliceCfg im).writeLoops im
  let s : State := { s with tsk := { s.tsk with live := [], liveQ := [], fresh := [], qualWait := [], qualOwn := [], initOwed := [] } }
  let s := s.tallyDefine im.tally
  let s := (s.wr R.TSK_IMAGE_ID im.imageId).wr R.TSK_RSTAT_LOADED 1
  let s := s.wr R.SYS_PROFILE_ACTIVE im.profile
  let orph := s.forces.filter fun c => s.orphanPoint c.2
  let s : State := orph.foldl (fun s c => s.putFlags c.2 (withBit (s.ptFlags c.2) 2 true)) s
  s.evalForces

/-- The payload of tally record 0x003 (Table 16.3): fault, IMAGEID, section and offset. -/
def loadPayload (fault imageId sect ofs : Nat) : List (BitVec 8) :=
  toLE 4 fault ++ toLE 8 imageId ++ toLE 4 sect ++ toLE 4 ofs

/-- The commit of an accepted image (R169). -/
def State.commitImage (s : State) (img : List (BitVec 8)) (im : Image) (led : List LedgerEntry) : State :=
  ((s.storeImage img).applyImage im led).tallyEvent 0x003 (loadPayload 0 im.imageId 0 0)

/-- SNAPOK: a warm restart would now find a valid snapshot (R170). -/
def State.snapOk (s : State) : Bool := s.newestValid.isSome

/-- The image in the active program slot, with the slot, as long as its header states (R181, step 2); none before a load has marked a
slot, or where neither copy of the marker reads (DESIGN CHOICE, log entry 33). -/
def State.activeImage (s : State) : Option (Nat × List (BitVec 8)) :=
  match s.marker with
  | some (slot, true) =>
    let b := progBase slot
    some (slot, readBytes s.legible b (min (12288 * 4096) (readLE s.legible (b + 0x10) 4)))
  | _ => none

/-- The active image read from flash and checked, what failed reported and recorded (R181, steps 2 and 3, R292, R396): the image with
its ledger, or none. -/
def State.readActive (s : State) : State × Option (Image × List LedgerEntry) :=
  match s.activeImage with
  | none => (s, none)
  | some (slot, img) =>
    let s := s.nvsReads (progBase slot / 4096) (ceilDiv img.length 4096)
    match loadChecks s img with
    | .inl e =>
      let s := if e.report.isEmpty then s else s.tallyEvent 0x002 e.report
      ((s.note e.fault).tallyEvent 0x003 (loadPayload e.fault (numAt img 8 8) e.sect e.ofs), none)
    | .inr r => (s, some r)

/-- Steps 2 and 3 of R181: the active image is checked and applied. -/
def State.bootImage (s : State) : State :=
  match s.readActive with
  | (t, none) => t
  | (t, some (im, led)) => (t.applyImage im led).tallyEvent 0x003 (loadPayload 0 im.imageId 0 0)

/-- What a return of MEM writes into its stores, built from the active image as step 2 of R181 builds it: the code store, TENANT and
FLAGS (R426). -/
def State.rebuildMem (s : State) : State :=
  match s.readActive with
  | (t, none) => t
  | (t, some (im, _)) =>
    let t := (t.writeCode im).writeDecls im
    let orph := t.forces.filter fun c => t.orphanPoint c.2
    let t : State := orph.foldl (fun s c => s.putFlags c.2 (withBit (s.ptFlags c.2) 2 true)) t
    t.evalForces

/-! ### Restarts (R177 to R180) -/

/-- A region zeroed if its DIRTY bit is set (R282) (DEDUCED, log entry 17). -/
def State.zeroDirty (s : State) (bit lo hi : Nat) : State :=
  if bitOf (s.rd R.MEM_STAT_DIRTY) bit then (s.zeroRange lo hi).clrBit R.MEM_STAT_DIRTY bit else s

/-- The DRAM program region zeroed behind the front (R281, R282). -/
def State.zeroProgram (s : State) : State :=
  if bitOf (s.rd R.MEM_STAT_DIRTY) 2 then
    ((s.zeroDirty 2 0x180000000 0x2FFE00000).wr R.MEM_FRONT_ADDR 0x180000000).wr R.MEM_STAT_ZEROING 1
  else s

/-- An instance initialised (R178): its header from its type, INITLEN bytes from INIT, the rest zero. -/
def State.initInst (s : State) (im : Image) (i : InstRec) : State :=
  let s := s.supRead i.desc 8
  let size := s.peek (i.desc + 4) 4
  let hdr := s.bytes i.desc 8 ++ toLE 4 (i.flags % 2) ++ zeros 4
  (s.zeroRange i.addr (i.addr + size)).poke i.addr (hdr ++ bytesAt im.init i.initOff i.initLen)

/-- The instances of an image initialised: the unretained ones, with `all` the retained ones too. -/
def State.initInsts (s : State) (all : Bool) : State :=
  match s.img with
  | none => s
  | some im => (im.insts.filter fun i => all || i.flags % 2 == 0).foldl (fun s i => s.initInst im i) s

/-- The 2 MiB of the retain store restored from a snapshot slot (Table 7.8). -/
def State.restoreSlot (s : State) (slot : Nat) : State :=
  let z := s.zeroRange 0x3000000 0x3200000
  let m := spaste 0 s.legible z.mem (snapBase slot + 4096) 0x3000000 0x200000
  ({ z with mem := m }).setBit R.MEM_STAT_DIRTY 1

/-- The process image after a restart (Table 4.5): VALUE 0, QUAL Q_INIT, AGE 0, TENANT and FLAGS from the image. -/
def State.initImage (s : State) : State :=
  let base : Sparse (BitVec 8) := (List.range 4096).map fun n => (pointAddr n + 8, 1)
  let pts := match s.img with
    | some im => im.points
    | none => []
  let reg := pts.foldl (fun m p =>
    writeBytes m (pointAddr p.point + 10) (toLE 1 p.tenant ++ toLE 1 p.flags)) base
  let s : State := { s with mem := splice 0 s.mem 0x4000000 0x4010000 reg
                            memx := { s.memx with ecc := rewriteCw s.memx.ecc 0x4000000 0x10000 } }
  let s : State := s.forces.foldl (fun s c =>
    let fl := withBit (s.ptFlags c.2) 2 (s.orphanPoint c.2)
    let s := { s with mem := writeLE s.mem (pointAddr c.2 + 11) 1 fl }
    if bitOf fl 0 then { s with mem := putQual s.mem c.2 (withBit (s.ptQual c.2) 4 true) } else s) s
  { s with tsk := { s.tsk with fresh := [], live := [], liveQ := [], initOwed := [], qualWait := [], qualOwn := [] } }

/-- The FBE registers of a restart (R138): reset values but for EVSUB, EVLIVE and EVSNAP. -/
def State.fbeRestart (s : State) : State :=
  (List.range 4).foldl (fun s e =>
    let b := 0x10040000 + 0x10000 * e
    (s.resetRegs b (b + 0x40)).resetRegs (b + 0x70) (b + 0x10000)) s

/-- The TSK registers of a restart (R109): those the tables give a single reset value, and after a cold restart TSK_CFG and
TSK_CYCCNT too. MODE, PEND and what R184 keeps stay, and CAUSE as the last entry to STOP, not at its reset value 0 (DESIGN CHOICE, log
entry 71). -/
def State.tskRestart (s : State) (cold : Bool) : State :=
  let s := s.wr R.TSK_STAT_LENW 0
  let s := s.resetRegs 0x10030018 0x10030028
  let s := s.resetRegs 0x10030030 0x10030038
  let s := s.resetRegs 0x10030400 0x10030600
  let s : State := (List.range 256).foldl (fun s n =>
    (s.wr (R.TSK_FORCE_LIVE_LIVE n) 0).wr (R.TSK_FORCE_LIVEQ_LIVEQ n) 0) s
  if cold then (s.resetRegs 0x10030000 0x10030008).wr R.TSK_CYCCNT_COUNT 0 else s

/-- All forces cleared (R106): line 29 where that clears ORPHAN of any (Table 4.10). -/
def State.clearForces (s : State) : State :=
  let s := if s.forces.any fun c => s.on (R.TSK_FORCE_CTL_ORPHAN c.1) then s.raise 29 else s
  let s : State := s.forces.foldl (fun s c => s.putFlags c.2 (withBit (s.ptFlags c.2) 2 false)) s
  (s.resetRegs 0x10032000 0x10034000).countForces

/-- The event slots at zero (R59). -/
def State.clearSlots (s : State) : State :=
  let s := s.resetRegs 0x10024000 0x10028000
  { s with phs := { s.phs with clears := [], deferred := [] } }

/-- The cold column of Table 7.8 (DEDUCED, log entry 17); the loop declarations and the channel settings are kept, as R212 and R246
have it against their Reset columns (DEDUCED, log entry 64). -/
def State.restartCold (s : State) : State :=
  let s := (s.nvsPut (.put (snapBase 0 + 0xFFC) (zeros 4))).nvsPut (.put (snapBase 1 + 0xFFC) (zeros 4))
  let s := { s with nvs := { s.nvs with cut := none } }
  let s := ((s.zeroDirty 0 0x1000000 0x2800000).zeroDirty 1 0x3000000 0x3200000).zeroProgram
  let s := (s.initInsts true).clearForces
  let s := s.clearSlots.initImage
  let s := (s.fbeRestart.tskRestart true)
  (match s.img with
    | some im => s.writeTasks im
    | none => s).loopsRestart

/-- The warm column of Table 7.8, the retain store from `slot`. -/
def State.restartWarm (s : State) (slot : Nat) : State :=
  let s := (s.zeroDirty 0 0x1000000 0x2800000).zeroProgram
  let s := (s.restoreSlot slot).initInsts false
  let s := if s.tsk.afterReset then s.clearForces else s
  ((s.initImage.fbeRestart).tskRestart false).loopsRestart

/-- KIND and REASON of TSK_RSTAT at a restart. OLDER and SLOT tell of the latest warm restart, so a cold one keeps them (R184). -/
def State.putRstat (s : State) (kind reason : Nat) : State := (s.wr R.TSK_RSTAT_KIND kind).wr R.TSK_RSTAT_REASON reason

/-- A restart begins (R177 to R180): its contents are treated, and RESTART_COMPLETE ends it. A warm restart without a valid
slot is forced cold; one from the older slot, the newer not complete or not valid, says so (R180, R430). -/
def State.beginRestart (s : State) (cold : Bool) : State :=
  let s :=
    if cold then s.restartCold.putRstat 1 0
    else
      let s := (s.nvsReads (snapBase 0 / 4096) 513).nvsReads (snapBase 1 / 4096) 513
      match s.newestValid with
      | none =>
        let reason := match s.newestComplete with
          | none => 1
          | some i => s.snapStatus i
        let s := (s.restartCold.putRstat 3 reason).note 0x0418
        s.tallyEvent 0x004 (toLE 4 0x0418 ++ toLE 4 reason)
      | some i =>
        let older := s.newestComplete != some i || s.nvs.cut.isSome
        let seqs := toLE 4 (s.snapSeq i) ++ toLE 4 (s.snapSeq (1 - i))
        let s := (((s.restartWarm i).putRstat 2 0).wrB R.TSK_RSTAT_OLDER older).wr R.TSK_RSTAT_SLOT i
        if older then (s.note 0x0419).tallyEvent 0x005 (toLE 4 0x0419 ++ seqs) else s
  { s with tsk := { s.tsk with entry := .restarting, afterReset := false, tasks := [] } }.showPend

end Sys2Proof.Machine
end

