-- ==== Sys2Proof/Machine/Memory.lean ====
section
/-! DEFINITION. MEM's commands: buckets, scrubbers, initialisers, retirement and the spoil list (R273 to R287), the flash store
NVS (R288 to R296), and the flash side of a retain save (R173, R292). -/

namespace Sys2Proof.Machine

/-! ### Buckets and scrubbers -/

/-- LEAK ms have passed: a level above 0 falls by 1 (R277). -/
def execBucketLeak (b : Fin 4) (s : State) : Res := .next (s.wr (R.MEM_BKT_LEVEL b) (s.rd (R.MEM_BKT_LEVEL b) - 1))

/-- A write of CLR (R277). -/
def execBucketClear (b : Fin 4) (s : State) : Res := .next (s.wr (R.MEM_BKT_LEVEL b) 0)

/-- What happens to a codeword between two reads: bits that turn over, and cells that stick (R273). -/
def CwErr.disturb (e : CwErr) (flips : List Nat) (stuck : List (Nat × Bool)) : CwErr :=
  { e with
    soft := flips.foldl (fun l b => if l.contains b then l.filter (· != b) else l ++ [b]) e.soft
    stuck := stuck.foldl (fun l c => (l.filter fun d => d.1 != c.1) ++ [c]) e.stuck }

/-- A scrubber reads an address: SRAM once its initialiser has finished, DRAM once the power-on initialisation has and below the front;
the spare of a retired page is read in its place, and a spare that was itself retired not at all (R280, R281). -/
def State.scrubs (s : State) (a : Nat) : Bool :=
  s.domOn 5 &&
    (if isDram a then
      s.on R.MEM_STAT_INITDONE && !s.aboveFront a 1 &&
        !(regionOf a = .spare && s.on (R.MEM_REMAP_BAD ((a - 0x2FFE00000) / 4096)))
    else isSram a && s.memx.init != 1)

/-- SCRUB_READ (R280): the codeword is read as by a master; a pass that ends is counted (DESIGN CHOICE, log entry 19). -/
def execScrubRead (addr : Addr) (flips : List (BitVec 7)) (stuck : List (BitVec 7 × Bool)) (endOfPass : Bool)
    (s : State) : Res :=
  let a := addr.toNat
  if !s.scrubs a then .next s
  else
    let l := s.logical a
    let cw := cwBase l
    let fl := (flips.map (·.toNat)).filter (· < cwBits cw)
    let st := (stuck.map fun c => (c.1.toNat, c.2)).filter fun c => decide (c.1 < cwBits cw)
    let s := s.setCw cw ((s.cwErr cw).disturb fl st)
    let s := (s.readCw 15 true cw).1
    .next (if !endOfPass then s
      else if isDram a then s.inc R.MEM_SCRUBSTAT_DPASS else s.inc R.MEM_SCRUBSTAT_SPASS)

/-! ### The front (R281) -/

/-- The engine behind a master code, if it is one (Table 1.3) (DEDUCED, log entry 11). -/
def masterEng (master : Nat) : Option Nat := if 2 ≤ master && decide (master ≤ 5) then some (master - 2) else none

/-- An engine's access on the bus meets a fault: where the engine runs a task, it traps (R22, R279) (DEDUCED, log entry 49). -/
def State.busTrap (s : State) (e fault a : Nat) : State :=
  if s.rd (R.FBE_STAT_STATE e) = 1 then s.trap e fault a (s.peek (s.rd (R.FBE_BANK_IP_IP e (s.rd (R.FBE_STAT_BANK e)))) 4) else s

/-- A read of memory by a master: the value stands in `busData`. Poison traps an engine, abandons a DMA transfer with fault 0x0904,
and comes to any other master as an indication (Table 11.3). -/
def State.busFetch (s : State) (master a n : Nat) : State :=
  let r := s.readChecked master a n
  let t := { r.1 with busData := r.1.peek a n, busPoison := r.2 }
  if !r.2 then t
  else
    match masterEng master with
    | some e => t.busTrap e 0x050A a
    | none => if 7 ≤ master && decide (master ≤ 0xB) then { r.1.poisonReport master with busPoison := true } else t

/-- A write of memory by a master: a codeword written in part that holds poison traps an engine, and from any other master the write
is dropped with fault 0x0904 (R274). -/
def State.busStore (s : State) (master a : Nat) (bs : List (BitVec 8)) : State :=
  match masterEng master with
  | some e =>
    let r := readCws master (s.partCws (s.logical a) bs.length) s
    if r.2 then r.1.busTrap e 0x050A a else (r.1.poke a bs).engWrote e a
  | none => s.masterWrite master a bs

/-- An entry of a receive ring has been written: RXWR counts it and line 96 + n rises (R334). -/
def State.entryWritten (s : State) (n : Nat) : State := (s.inc (R.FBS_RXWR_COUNT n)).raise (96 + n)

/-- The entry at `a` that waited above the front has been written, if one did. -/
def State.entryLands (s : State) (a : Nat) : State :=
  match (List.range 4).find? fun n => (s.chan n).onWay.contains a with
  | some n => (s.setChan n { s.chan n with onWay := (s.chan n).onWay.erase a }).entryWritten n
  | none => s

/-- One waiting access performed: a write, or a read whose value stands in `busData`. -/
def State.performWait (s : State) (w : FrontWait) : State :=
  match w.value with
  | some v => (s.busStore w.master w.addr (toLE w.size v)).entryLands w.addr
  | none => s.busFetch w.master w.addr w.size

/-- The front moves to `f`, and the accesses that waited for the lines below it complete, oldest first. -/
def State.passFront (s : State) (f : Nat) : State :=
  let s := s.wr R.MEM_FRONT_ADDR f
  let due := s.memx.waiting.filter fun w => decide (w.addr + w.size ≤ f)
  let s := { s with memx := { s.memx with waiting := s.memx.waiting.filter fun w => !decide (w.addr + w.size ≤ f) } }
  due.foldl State.performWait s

/-- FRONT_WAIT_RELEASE: the front has come to `front` (R281). -/
def execFrontWaitRelease (front : Addr) (s : State) : Res :=
  let f := front.toNat / 64 * 64
  if s.on R.MEM_STAT_ZEROING && decide (s.rd R.MEM_FRONT_ADDR ≤ f) && decide (f ≤ 0x300000000) then .next (s.passFront f)
  else .next s

/-- No initialiser runs: the front stands above DRAM, and every waiting access completes. -/
def State.frontDone (s : State) : State := (s.passFront 0x300000000).wr R.MEM_STAT_ZEROING 0

/-! ### The spoil list (R283 to R285) -/

/-- The flash address of copy `i` of the spoil record (Table 11.7). -/
def spoilCopy (i : Nat) : Nat := (0xAD00 + i) * 4096

/-- The bytes of the spoil record before its CRC: a sequence number, BANKMAP and REMAP (the model's layout) (DESIGN CHOICE,
log entry 33). -/
def State.spoilBytes (s : State) (seq : Nat) : List (BitVec 8) :=
  toLE 4 seq ++
  ((List.range 4).flatMap fun n =>
    toLE 4 (s.rd (R.MEM_BANKMAP_BANK n) + s.rd (R.MEM_BANKMAP_VALID n) * 2 ^ 31)) ++
  ((List.range 512).flatMap fun n =>
    toLE 4 (s.rd (R.MEM_REMAP_PAGE n) + s.rd (R.MEM_REMAP_BAD n) * 2 ^ 30 + s.rd (R.MEM_REMAP_VALID n) * 2 ^ 31))

/-- A copy of the spoil record in flash that reads: its CRC-32 matches, or no block has ever been written there (R285, R292) (DESIGN
CHOICE, log entry 33). -/
def State.spoilRead (s : State) (fl : Sparse (BitVec 8)) (i : Nat) : Option (List (BitVec 8)) :=
  let bs := readBytes fl (spoilCopy i) 2068
  if allZero (readBytes fl (spoilCopy i) 2072) then (if s.recordReads (0xAD00 + i) 1 then some bs else none)
  else if readLE fl (spoilCopy i + 2068) 4 = crc32 bs then some bs else none

/-- The sequence number of a copy. -/
def seqOf (bs : List (BitVec 8)) : Nat := leNat (bs.take 4)

/-- The newer of the copies that read. -/
def State.spoilNewest (s : State) (fl : Sparse (BitVec 8)) : Option (Nat × List (BitVec 8)) :=
  match s.spoilRead fl 0, s.spoilRead fl 1 with
  | some a, some b => if seqOf a < seqOf b then some (1, b) else some (0, a)
  | some a, none => some (0, a)
  | none, some b => some (1, b)
  | none, none => none

/-- The flash as it will be once the records that wait for NVS are in it. -/
def State.flashAhead (s : State) : Sparse (BitVec 8) := (s.nvs.due.foldl State.flashDo s).legible

/-- The spoil list written over the older copy by way of NVS, copies that wait counted (R285, R291). -/
def State.spoilWrite (s : State) : State :=
  let at' := match s.spoilNewest s.flashAhead with
    | some (i, b) => (1 - i, seqOf b + 1)
    | none => (0, 1)
  let bs := s.spoilBytes at'.2
  s.nvsPut (.put (spoilCopy at'.1) (bs ++ toLE 4 (crc32 bs)))

/-- The counts of MEM_SPOILSTAT. -/
def State.spoilCounts (s : State) : State :=
  let d := ((List.range 512).filter fun n => s.on (R.MEM_REMAP_VALID n) || s.on (R.MEM_REMAP_BAD n)).length
  let b := ((List.range 4).filter fun n => s.on (R.MEM_BANKMAP_VALID n)).length
  (s.wr R.MEM_SPOILSTAT_DUSED d).wr R.MEM_SPOILSTAT_SUSED b

/-- The spoil list loaded from the record at the start of MEM; with both copies unreadable it is empty (R285). -/
def State.spoilLoad (s : State) : State :=
  let s := s.nvsReads 0xAD00 2
  match s.spoilNewest s.legible with
  | none => ((s.wr R.MEM_STAT_SPOILLOST 1).report R.MEM_LASTFAULT_FAULT 0x0905).raise 77
  | some (_, bs) =>
    let at' := fun k => leNat ((bs.drop (4 + 4 * k)).take 4)
    let s : State := (List.range 4).foldl (fun s n =>
      (s.wr (R.MEM_BANKMAP_BANK n) (at' n)).wr (R.MEM_BANKMAP_VALID n) (at' n / 2 ^ 31)) s
    let s : State := (List.range 512).foldl (fun s n =>
      let w := at' (4 + n)
      ((s.wr (R.MEM_REMAP_PAGE n) w).wr (R.MEM_REMAP_BAD n) (w / 2 ^ 30)).wr (R.MEM_REMAP_VALID n) (w / 2 ^ 31)) s
    s.spoilCounts

/-- A retirement refused with its reason (R283, R284). -/
def State.refuseSpoil (s : State) (reason : Nat) : State :=
  ((s.wr R.MEM_SPOILSTAT_REASON reason).report R.MEM_LASTFAULT_FAULT 0x0903).raise 77

/-- A retirement copy begins. -/
def State.beginCopy (s : State) (sram : Bool) (unit spare : Nat) : State :=
  { s.wr R.MEM_STAT_RETBUSY 1 with memx := { s.memx with retiring := some (sram, unit, spare) } }

/-- The retirement of a DRAM page (R283). -/
def State.spoilPage (s : State) (a : Nat) : State :=
  if s.memx.retiring.isSome || s.inGap then s.refuseSpoil 4
  else if !isDram a || regionOf a = .spare then s.refuseSpoil 2
  else
    match (List.range 512).find? fun n => !s.on (R.MEM_REMAP_VALID n) && !s.on (R.MEM_REMAP_BAD n) with
    | none => s.refuseSpoil 3
    | some n => s.beginCopy false ((a - 0x100000000) / 4096) n

/-- The retirement of an SRAM bank, in STOP and HOLD (R284). -/
def State.spoilBank (s : State) (bank : Nat) : State :=
  if s.memx.retiring.isSome || s.inGap then s.refuseSpoil 4
  else if s.mode = 1 then s.refuseSpoil 1
  else if 544 < bank then s.refuseSpoil 2
  else
    match (List.range 4).find? fun n => !s.on (R.MEM_BANKMAP_VALID n) with
    | none => s.refuseSpoil 3
    | some n => s.beginCopy true bank n

/-- A write of MEM_SPOILCMD (R283, R284): nothing without GO, and nothing with MEM off. -/
def State.spoilCmd (s : State) (v : Nat) : State :=
  if !s.domOn 5 || !bitOf v 41 then s
  else if bitOf v 40 then s.spoilBank (v % 2 ^ 40) else s.spoilPage (v % 2 ^ 40)

/-- SPOIL_DRAM_PAGE: MEM_SPOILCMD with KIND 0. -/
def execSpoilDramPage (value : DWord) (s : State) : Res := .next (s.spoilCmd (withBit value.toNat 40 false))

/-- SPOIL_SRAM_BANK: MEM_SPOILCMD with KIND 1. -/
def execSpoilSramBank (value : DWord) (s : State) : Res := .next (s.spoilCmd (withBit value.toNat 40 true))

/-- The address of the first byte of an SRAM bank (R273). -/
def bankBase (b : Nat) : Nat :=
  if b < 128 then b * 65536
  else if b < 512 then 0x1000000 + (b - 128) * 65536
  else if b < 544 then 0x3000000 + (b - 512) * 65536
  else 0x4000000

/-- The codewords of a copied range: the copy corrects single errors, carries poison, and leaves the cells of the old place
behind (R283). -/
def copiedCws (ecc : Sparse CwErr) (a n : Nat) : Sparse CwErr :=
  (ecc.map fun c =>
    if decide (a ≤ c.1) && decide (c.1 < a + n) then (c.1, { poison := c.2.poison }) else c).filter
      fun c => decide (c.2 ≠ {})

/-- The errors of a range met by a copy: corrected, or poisoned (R275, R278). -/
def State.copyReads (s : State) (a n : Nat) : State := (readCws 15 (s.dirtyCws a n) s).1

/-- RETIREMENT_DONE (R283 to R285): the remap entry switches in one clock, a spare that was itself retired is marked unusable,
line 77 rises and the supervisor writes the spoil list (DEDUCED, log entry 51). -/
def execRetirementDone (s : State) : Res :=
  match s.memx.retiring with
  | none => .next s
  | some (sram, unit, n) =>
    let a := if sram then bankBase unit else 0x100000000 + unit * 4096
    let len := if sram then 65536 else 4096
    let s := s.copyReads a len
    let s := { s with memx := { s.memx with retiring := none, ecc := copiedCws s.memx.ecc a len } }
    let s := (s.wr R.MEM_STAT_RETBUSY 0).wr R.MEM_SPOILSTAT_REASON 0
    let s :=
      if sram then (s.wr (R.MEM_BANKMAP_BANK n) unit).wr (R.MEM_BANKMAP_VALID n) 1
      else
        let old := (List.range 512).filter fun k => s.on (R.MEM_REMAP_VALID k) && s.rd (R.MEM_REMAP_PAGE k) == unit
        let s : State := old.foldl (fun s k => (s.wr (R.MEM_REMAP_VALID k) 0).wr (R.MEM_REMAP_BAD k) 1) s
        (s.wr (R.MEM_REMAP_PAGE n) unit).wr (R.MEM_REMAP_VALID n) 1
    .next (s.spoilCounts.raise 77).spoilWrite

/-! ### Initialisers (R281) -/

/-- MEM starts, at power-on or at the switch-on of its domain: registers at reset, the spoil list loaded, and the SRAM
initialiser runs (R281, R426). -/
def State.memStart (s : State) : State :=
  let s := s.resetRegs 0x100B0000 0x100C0000
  let stuck := (s.memx.ecc.map fun c => (c.1, ({ stuck := c.2.stuck } : CwErr))).filter fun c => decide (c.2 ≠ {})
  let s := { s with mem := [], memx := { ecc := stuck, init := 1 } }
  s.spoilLoad.wr R.MEM_STAT_ZEROING 1

/-- A flacon build that MEM leaves is abandoned, since KEY builds none with MEM off (R437) (DESIGN CHOICE, log entry 75). -/
def State.dropBuild (s : State) : State :=
  if s.key.build.isNone then s
  else { (s.incSat R.KEY_FLSTAT_ABANDON).wr R.KEY_STAT_BUILDING 0 with key := { s.key with build := none } }

/-- MEM goes off: its stores hold nothing, and what waited is lost. -/
def State.memOff (s : State) : State :=
  let s := s.dropBuild
  let stuck := (s.memx.ecc.map fun c => (c.1, ({ stuck := c.2.stuck } : CwErr))).filter fun c => decide (c.2 ≠ {})
  { s.resetRegs 0x100B0000 0x100C0000 with
    mem := [], memx := { ecc := stuck, init := 0 }, fbs := smap {} (fun c => { c with onWay := [] }) s.fbs }

/-- SRAM_INIT_DONE: every SRAM bank is zero with valid check bits, and the DRAM initialiser starts at the foot of DRAM. -/
def execSramInitDone (s : State) : Res :=
  if s.memx.init ≠ 1 then .next s
  else
    let s := ((s.zeroRange 0 0x800000).zeroRange 0x1000000 0x2800000).zeroRange 0x3000000 0x3200000
    let s := (s.zeroRange 0x4000000 0x4010000).zeroRange 0x100000000 0x300000000
    let s := (s.wr R.MEM_STAT_DIRTY 0).wr R.MEM_STAT_ZEROING 1
    .next { s.wr R.MEM_FRONT_ADDR 0x100000000 with memx := { s.memx with init := 2 } }

/-- DRAM_INIT_DONE: the front has passed all of DRAM, INITDONE is set and line 78 rises. -/
def execDramInitDone (s : State) : Res :=
  if s.memx.init ≠ 2 then .next s
  else
    let s := { s with memx := { s.memx with init := 0 } }
    .next ((s.frontDone.wr R.MEM_STAT_INITDONE 1).raise 78)

/-! ### Flash commands (R288 to R294) -/

/-- The partitions of Table 11.7: first LBA and blocks. -/
def partitions : List (Nat × Nat) :=
  [(0, 8192), (0x2000, 8192), (0x4000, 512), (0x4200, 12288), (0x7200, 12288), (0xA200, 1024), (0xA600, 1024), (0xAA00, 768),
   (0xAD00, 256), (0xAE00, 217600), (0x40000, 256), (0x40100, 1048576)]

/-- Every block of a command lies in one partition, and COUNT lies in 1 to 16,384 (R290). -/
def blocksOk (lba count : Nat) : Bool :=
  decide (1 ≤ count) && decide (count ≤ 16384) &&
    partitions.any fun p => decide (p.1 ≤ lba) && decide (lba + count ≤ p.1 + p.2)

/-- NVS_RESULT set and line 124 raised (R290). -/
def State.nvsEnd (s : State) (op status : Nat) : State :=
  (((s.wr R.NVS_RESULT_STATUS status).wr R.NVS_RESULT_OP op).wr R.NVS_STAT_BUSY 0).raise 124

/-- A block command performed: the state and the STATUS it will end with (R290, R292). Blocks before the first that cannot be
written are written; a block that fails to read stays so until it is written again, and one that fails to write keeps its contents
and fails the supervisor's and KEY's own records too until a WRITE succeeds on it (DESIGN CHOICE, log entry 60). -/
def State.nvsPerform (s : State) (c : NvsCmd) : State × Nat :=
  let n := 4096 * c.count
  let src := c.lba * 4096
  match c.op with
  | 1 =>
    let bad := (List.range c.count).filterMap fun i =>
      if c.failed.contains (c.lba + i) || s.nvs.unreadable.contains (c.lba + i) then some (c.lba + i) else none
    let s := { s with nvs := { s.nvs with unreadable := s.nvs.unreadable ++ bad.filter fun l => !s.nvs.unreadable.contains l } }
    let s := { s with mem := spaste 0 s.flashView s.mem src c.addr n
                      memx := { s.memx with ecc := rewriteCw s.memx.ecc c.addr n } }
    if bad.isEmpty then (s, 0) else (s.readFailures bad, 2)
  | 2 =>
    let r := s.readChecked 0xB c.addr n
    if r.2 then (r.1.poisonReport 0xB, 7)
    else
      match (List.range c.count).find? fun i => c.failed.contains (c.lba + i) with
      | none => ((r.1.setFlash src n (spaste 0 r.1.mem r.1.flash c.addr src n)).overwrite c.lba c.count, 0)
      | some i =>
        let t := r.1.setFlash src (4096 * i) (spaste 0 r.1.mem r.1.flash c.addr src (4096 * i))
        (((t.overwrite c.lba i).wearOut (c.lba + i)).writeFailure, 3)
  | _ => ((s.setFlash src n (sclear s.flash src (src + n))).overwrite c.lba c.count, 0)

/-- A command cannot act yet: a retain save or tally records go first, its buffer reaches MEM_FRONT, or it would write flash during
a power-fail warning (R281, R291, R429). -/
def State.nvsWaits (s : State) (c : NvsCmd) : Bool :=
  s.on R.NVS_STAT_SAVE || s.on R.NVS_STAT_SEAL || s.tallyWaits || (c.op != 3 && decide (s.rd R.MEM_FRONT_ADDR < c.addr + 4096 * c.count)) ||
    (c.op != 1 && s.on R.NVS_STAT_PFWORDER)

/-- A write of NVS_CMD (R290, R294). A refused command ends at once; STATUS 5 leaves the running one, and BUSY, alone. With NVS off
there is no command. -/
def State.nvsStart (s : State) (op : Nat) (failed : List Nat) : State :=
  let lba := s.rd R.NVS_LBA_LBA
  let count := s.rd R.NVS_COUNT_COUNT
  let a := s.rd R.NVS_ADDR_ADDR
  if !s.domOn 6 || op = 0 then s
  else if s.on R.NVS_STAT_BUSY then ((s.wr R.NVS_RESULT_STATUS 5).wr R.NVS_RESULT_OP op).raise 124
  else if !s.on R.NVS_STAT_READY then s.nvsEnd op 4
  else if !blocksOk lba count then (s.report R.NVS_LASTFAULT_FAULT 0x1105).nvsEnd op 1
  else if op ≠ 3 && (a % 64 != 0 || !supBuffer a (4096 * count)) then (s.report R.NVS_LASTFAULT_FAULT 0x1104).nvsEnd op 6
  else
    let c : NvsCmd := ⟨op, lba, count, a, failed, none⟩
    let s := s.wr R.NVS_STAT_BUSY 1
    if s.nvsWaits c then { s with nvs := { s.nvs with cmd := some c } }
    else
      let r := s.nvsPerform c
      { r.1 with nvs := { r.1.nvs with cmd := some { c with status := some r.2 } } }

/-- NVS_READ (R290). -/
def execNvsRead (failed : List (BitVec 21)) (s : State) : Res := .next (s.nvsStart 1 (failed.map (·.toNat)))

/-- NVS_WRITE (R290). -/
def execNvsWrite (failed : List (BitVec 21)) (s : State) : Res := .next (s.nvsStart 2 (failed.map (·.toNat)))

/-- NVS_TRIM (R289, R290). -/
def execNvsTrim (s : State) : Res := .next (s.nvsStart 3 [])

/-- NVS_COMMAND_END (R290): NVS_RESULT is set and line 124 rises; a command that has waited acts first, once it can. -/
def execNvsCommandEnd (s : State) : Res :=
  match s.nvs.cmd with
  | none => .next s
  | some c =>
    let done := fun (s : State) (st : Nat) => { s.nvsEnd c.op st with nvs := { s.nvs with cmd := none } }
    match c.status with
    | some st => .next (done s st)
    | none =>
      if s.nvsWaits c then .next s
      else .next (done (s.nvsPerform c).1 (s.nvsPerform c).2)

/-- NVS becomes ready, and its clients are served: a save that waited begins, and the records that waited are written (R294). -/
def State.nvsStartUp (s : State) : State :=
  let s := ((s.wr R.NVS_STAT_READY 1).setBit R.PWR_DOMSTAT_READY 6).raise 11
  let s := match s.tsk.save with
    | some (slot, _) => s.voidSnap slot
    | none => s
  s.nvsDrain

/-- NVS_HEALTH_LOW: the shares of NVS_HEALTH as NVS finds them; HEALTHLOW follows SPARE below 10 %, and line 127 each change
(R293). -/
def execNvsHealthLow (spare wear : Byte) (s : State) : Res :=
  if !s.domOn 6 then .next s
  else
    let s := (s.wr R.NVS_HEALTH_SPARE spare.toNat).wr R.NVS_HEALTH_WEAR wear.toNat
    let low := decide (spare.toNat < 10)
    if s.on R.NVS_STAT_HEALTHLOW = low then .next s
    else
      let s := (s.wrB R.NVS_STAT_HEALTHLOW low).raise 127
      .next (if low then s.report R.NVS_LASTFAULT_FAULT 0x1103 else s)

/-! ### The end of a retain save -/

/-- NVS reads the bytes from `lo` up to `hi` of the retain store, inside one block, for the slot of the save, which takes a block whole
once all of it has been read (R173, R174, R289); poison in them is reported, and remembered for the block's BCRC (R279). -/
def State.copyPart (s : State) (slot lo hi : Nat) : State :=
  let r := s.readChecked 0xB (0x3000000 + lo) (hi - lo)
  let t := if r.2 then r.1.report R.MEM_LASTFAULT_FAULT 0x0906 else r.1
  let blk := spaste 0 t.mem t.tsk.saveBlock (0x3000000 + lo) (lo % 4096) (hi - lo)
  let t := { t with tsk := { t.tsk with
    saveBlock := if hi % 4096 = 0 then [] else blk
    savePoison := if r.2 then lo / 4096 :: t.tsk.savePoison else t.tsk.savePoison } }
  let a := snapBase slot + 4096 + lo / 4096 * 4096
  if hi % 4096 = 0 then t.setFlash a 4096 (spaste 0 blk t.flash 0 a 4096) else t

/-- The save in progress copies on up to byte `upto` of the retain store, block by block in address order, once NVS is ready
(R294). -/
def State.copyTo (s : State) (upto : Nat) : State :=
  match (if s.nvsReady then s.tsk.save else none) with
  | none => s
  | some (slot, _) =>
    let done := s.tsk.saved
    let stop := min 0x200000 upto
    let t := (List.range 512).foldl (fun t k =>
      let lo := max done (4096 * k)
      let hi := min stop (4096 * (k + 1))
      if lo < hi then t.copyPart slot lo hi else t) s
    { t with tsk := { t.tsk with saved := max done stop } }

/-- The BCRC of a block as it was copied: the complement where NVS met poison in it (R279). -/
def State.blockCrc (s : State) (slot k : Nat) : Nat :=
  let c := crc32 (readBytes s.flash (snapBase slot + 4096 * (k + 1)) 4096)
  if s.tsk.savePoison.contains k then 0xFFFFFFFF - c else c

/-- SEQ of a new save: one above the newest SEQ of either complete slot, or 1 (R173). -/
def State.nextSnapSeq (s : State) : Nat :=
  match s.newestComplete with
  | some i => (s.snapSeq i + 1) % 2 ^ 32
  | none => 1

/-- The save in `slot` written: the blocks still to copy, header and COMPLETE (R172, R173); with a failed block COMPLETE is left unwritten
(R292). -/
def State.writeSnap (s : State) (slot cause : Nat) (failed : Bool) : State :=
  let seq := s.nextSnapSeq
  let s := s.copyTo 0x200000
  let b := snapBase slot
  let im := match s.img with
    | some im => (im.rlayout, im.imageId)
    | none => (0, 0)
  let hdr := toLE 4 0x54504E53 ++ toLE 4 seq ++ toLE 8 im.1 ++ toLE 8 im.2 ++ toLE 8 s.tsk.saveTime ++ toLE 1 cause ++ zeros 3 ++
    toLE 4 s.tsk.saveCyc ++ zeros 24 ++ (List.range 512).flatMap fun k => toLE 4 (s.blockCrc slot k)
  let fl := writeBytes (sclear s.flash b (b + 4096)) b (hdr ++ toLE 4 (crc32 hdr))
  if failed then (s.setFlash b 4096 fl).writeFailure
  else (s.setFlash b 4096 (writeLE fl (b + 0xFFC) 4 0x504D4F43)).wr R.TSK_SNAPSEQ_SEQ seq

/-- The save in progress ends: SAVING clears and line 125 rises (R173, R291) (DESIGN CHOICE, log entry 14). It does not end before NVS is
ready (R294). -/
def State.endSave (s : State) (failed : Bool) : State :=
  match (if s.nvsReady then s.tsk.save else none) with
  | none => s
  | some (slot, cause) =>
    let s := s.writeSnap slot cause failed
    let s := { s with tsk := { s.tsk with save := none }, nvs := { s.nvs with cut := if failed then some slot else none } }
    (((s.wr R.TSK_RSTAT_SAVING 0).wr R.NVS_STAT_SAVE 0).raise 125).nvsDrain

end Sys2Proof.Machine
end

