-- ==== Sys2Proof/Machine/Task.lean ====
section
/-! DEFINITION. TSK: the latch, releases, deadlines and commits (R82 to R92, R105, R107), mode requests and the checks at an
entry to RUN (R94, R97, R98, R177, R210, R436). -/

namespace Sys2Proof.Machine

/-! ### The latch (R84, R85, R89, R90) -/

/-- An entry of the process image. -/
structure Entry where
  value : Nat
  qual : Nat
  tenant : Nat
  flags : Nat
  age : Nat
  deriving DecidableEq, Repr

/-- The entry at `a` in the cells of a memory. -/
def entryAt (m : Sparse (BitVec 8)) (a : Nat) : Entry :=
  ⟨readLE m a 8, readLE m (a + 8) 2, readLE m (a + 10) 1, readLE m (a + 11) 1, readLE m (a + 12) 4⟩

/-- The cells of an entry at `a`. -/
def Entry.cells (e : Entry) (a : Nat) : Sparse (BitVec 8) :=
  writeBytes [] a (toLE 8 e.value ++ toLE 2 e.qual ++ toLE 1 e.tenant ++ toLE 1 e.flags ++ toLE 4 e.age)

/-- What a source delivers at a latch: a value, its Q_RANGE and Q_FAULT, and whether it is an update. -/
structure Delivery where
  value : Nat
  qual : Nat
  fresh : Bool
  /-- The age of an update in µs, and whether Q_INIT stands in spite of it. -/
  age : Nat := 0
  keepInit : Bool := false
  deriving DecidableEq, Repr

/-- A source that delivers nothing new keeps the entry's value and the given faults. -/
def Entry.stale (e : Entry) (qual : Nat) : Delivery := { value := e.value, qual := qual, fresh := false }

/-- An on-module input (R85, R219, R220, R235, R236, R239): the latest good frame's sample, 25 µs old for each frame since that was
not good (R218); with the ring broken or the slice absent the entry gains Q_FAULT. -/
def State.inputDelivery (s : State) (p : PointDecl) (e : Entry) : Delivery :=
  let sl := p.bind / 256 % 16
  let ch := p.bind % 256
  let age := 25 * s.ring.bad
  if s.on R.SLR_RING_BROKEN || !s.present sl then e.stale ((e.qual &&& 12) ||| 8)
  else
    let noSupply := s.on (R.SLR_CFG_DIFSQ sl) && s.on (R.SLR_SSTAT_FS_MISSING sl)
    if p.bind / 4096 = 0 then
      { value := b2n (bitOf (s.rd (R.SLR_DIIN_STATE sl)) ch), qual := 8 * b2n noSupply, fresh := true, age := age }
    else
      match sget 0 s.ring.aiCode (2 * sl + ch) with
      | 0 => e.stale (8 * b2n noSupply)
      | c + 1 =>
        let bad := noSupply || s.aiOpen sl ch c || bitOf (s.rd (R.SLR_SSTAT_ANFLT sl)) ch
        { value := s.aiValue sl ch c, qual := 4 * b2n (s.aiRange sl ch c) + 8 * b2n bad, fresh := true, age := age }

/-- A point fed through its live copy: remote stations, metering, point destinations of loops, program values under a force. A
metering point keeps its VALUE and ages while its slice is not present or the ring is broken (R264). After a force the live value
counts as an update (DESIGN CHOICE, log entry 66). -/
def State.liveDelivery (s : State) (p : PointDecl) (e : Entry) : Delivery :=
  let q := sget 0 s.tsk.liveQ p.point
  let lq := if p.src = 4 then s.metQual p.bind else q % 256
  let restore := bitOf e.qual 4 && (s.forceOf p.point).isNone && q != 0 && sget 0 s.tsk.initOwed p.point != 1
  if p.src = 4 && !s.on (R.MET_FSTAT_PRESENT (qtyFeeder p.bind)) then e.stale lq
  else if sget 0 s.tsk.fresh p.point = 1 || restore then
    { value := sget 0 s.tsk.live p.point, qual := lq, fresh := true
      keepInit := p.src == 4 && !s.on (if qtyFeeder p.bind = 0 then R.MET_STAT_PUBE else R.MET_STAT_PUBF) }
  else e.stale (if p.src = 4 then lq else (e.qual &&& 12))

/-- What the source of an input point delivers. -/
def State.delivery (s : State) (p : PointDecl) (e : Entry) : Delivery :=
  match p.src with
  | 1 => s.inputDelivery p e
  | 2 | 3 | 4 | 6 => s.liveDelivery p e
  | 5 =>
    if sget 0 s.tsk.fresh p.point = 1 then { value := e.value, qual := e.qual &&& 12, fresh := true }
    else if bitOf e.qual 4 && (s.forceOf p.point).isNone && sget 0 s.tsk.liveQ p.point != 0 && sget 0 s.tsk.initOwed p.point != 1 then
      { value := sget 0 s.tsk.live p.point, qual := e.qual &&& 12, fresh := true }
    else e.stale (e.qual &&& 12)
  | _ => e.stale (e.qual &&& 12)

/-- The stale limit applied: Q_STALE where AGE has passed it (Table 4.5). -/
def staleBit (limit age : Nat) : Nat := if limit ≠ 0 && decide (limit < age) then 2 else 0

/-- An entry after a delivery: an update clears Q_INIT and sets AGE to 0; else AGE advances (R90). -/
def Entry.take (e : Entry) (d : Delivery) (limit us : Nat) : Entry :=
  let age := if d.fresh then d.age else satAdd 0xFFFFFFFF e.age us
  let init := if d.fresh && !d.keepInit then 0 else e.qual % 2
  { e with value := d.value, qual := init + d.qual + staleBit limit age, age := age }

/-- On-module output faults at a latch: DO states 2 to 6, which status byte 1 of the latest good frame tells, AO faults, a broken
ring or an absent slice, poison met in the entry (R219, R220, R236, Table 11.3). -/
def State.outputFault (s : State) (p : PointDecl) : Bool :=
  let sl := p.bind / 256 % 16
  let ch := p.bind % 256
  s.on R.SLR_RING_BROKEN || !s.present sl || s.ptPoison p.point ||
    (if p.bind / 4096 = 1 then bitOf (sget 0 s.ring.status sl) (8 + ch) else bitOf (s.rd (R.SLR_SSTAT_ANFLT sl)) (2 + ch))

/-- The channel that a mirror point shows: slice and channel of the destination of its loop (R189). -/
def State.mirrorOf (s : State) (p : PointDecl) : Option (Nat × Nat) :=
  (s.claimed.find? fun n => decide (s.ldecl n 1 / 2 ^ 28 < 2) && s.ldecl n 4 % 65536 == p.point).map fun n =>
    let i := s.ldecl n 1 % 65536
    if s.ldecl n 1 / 2 ^ 28 = 0 then (i / 2, 8 + i % 2) else (i / 8, i % 8)

/-- An output entry at a latch. -/
def State.latchOutput (s : State) (p : PointDecl) (e : Entry) (us : Nat) : Entry :=
  let wrote := sget 0 s.tsk.fresh p.point == 1
  let forced := 16 * b2n (s.forceOf p.point).isSome
  match (if p.src = 6 then s.mirrorOf p else none) with
  | some (sl, k) =>
    { e with value := sget (e.value + 1) s.ring.shown (16 * sl + k) - 1, qual := forced + 8 * b2n (s.on R.SLR_RING_BROKEN || !s.present sl), age := 0 }
  | none =>
    let age := if wrote then 0 else satAdd 0xFFFFFFFF e.age us
    let fault := if p.src = 1 then 8 * b2n (s.outputFault p || sget 0 s.tsk.qualOwn p.point == 1) else (e.qual &&& 8)
    { e with qual := (e.qual &&& 0x25) + fault + forced + staleBit p.stale age, age := age }

/-- An entry as its force leaves it: one that no source has written since the restart reads 0 with Q_INIT again (R90) (DEDUCED, log
entry 59). -/
def State.unforced (s : State) (n : Nat) (e : Entry) : Entry :=
  if bitOf e.qual 4 && (s.forceOf n).isNone && sget 0 s.tsk.initOwed n == 1 then { e with value := 0, qual := e.qual ||| 1 } else e

/-- An input entry at a latch, with its force (R105). -/
def State.latchInput (s : State) (p : PointDecl) (e : Entry) (us : Nat) : Entry :=
  let e := s.unforced p.point e
  let t := e.take (s.delivery p e) p.stale us
  match s.forceOf p.point with
  | some v => { t with value := v, qual := 16, age := 0 }
  | none => t

/-- A latch writes the whole entry of a point: an input that a source feeds (R279). -/
def State.wholeEntry (s : State) (n : Nat) : Bool :=
  match s.decl n with
  | some p => !p.out && p.src != 0 && p.src != 5
  | none => false

/-- What a latch makes of one entry: a point the image does not declare only ages, or holds its force. -/
def State.latchValue (s : State) (n : Nat) (e : Entry) (us : Nat) : Entry :=
  match s.decl n with
  | some p => if p.out then s.latchOutput p e us else s.latchInput p e us
  | none =>
    let age := if sget 0 s.tsk.fresh n = 1 then 0 else satAdd 0xFFFFFFFF e.age us
    let e := s.unforced n e
    match s.forceOf n with
    | some v => { e with value := v, qual := 16, age := 0 }
    | none => { e with qual := e.qual &&& 0xF, age := age }

/-- One entry at a latch. Where QUAL alone of its codeword is written and the codeword holds poison, QUAL stays (R274). -/
def State.latchEntry (s : State) (n : Nat) (e : Entry) (us : Nat) : Entry :=
  let t := s.latchValue n e us
  if !s.wholeEntry n && (s.cwErr (pointAddr n + 8)).poison then { t with qual := e.qual } else t

/-- A latch writes VALUE of an entry that it does not write whole: under a force or as one ends, and of a mirror point (R90, R105,
R189). -/
def State.latchesValue (s : State) (n : Nat) (e : Entry) : Bool :=
  match s.decl n with
  | some p =>
    if p.out then p.src == 6 && (s.mirrorOf p).isSome else (s.forceOf n).isSome || bitOf e.qual 4
  | none => (s.forceOf n).isSome || bitOf e.qual 4

/-- A latch writes the whole codeword at `cw` of the process image: AGE always, all of an entry that a source feeds, and VALUE where it
is written (R274, R279). -/
def State.latchesCw (s : State) (cw : Nat) : Bool :=
  let n := (cw - 0x4000000) / 16
  s.wholeEntry n || cw % 16 == 12 || (cw % 16 != 8 && s.latchesValue n (entryAt s.mem (pointAddr n)))

/-- The cells of the process image after a latch, entry by entry from `n`; `cells` are those from entry `n` on. -/
def State.latchCells (s : State) (us : Nat) : Nat → Nat → Sparse (BitVec 8) → Sparse (BitVec 8)
  | 0, _, _ => []
  | k + 1, n, cells =>
    let a := pointAddr n
    let mine := cells.takeWhile fun c => decide (c.1 < a + 16)
    let rest := cells.dropWhile fun c => decide (c.1 < a + 16)
    (s.latchEntry n (entryAt mine a) us).cells a ++ s.latchCells us k (n + 1) rest

/-- The points under a force whose Q_INIT stands beneath it after a latch: no source writes them in it, and they carried Q_INIT as
the force came (R90, R105). -/
def State.initBeneath (s : State) : Sparse Nat :=
  s.forces.foldl (fun m c =>
    let e := entryAt s.mem (pointAddr c.2)
    let wrote := match s.decl c.2 with
      | some d => d.out || ((s.delivery d e).fresh && !(s.delivery d e).keepInit)
      | none => sget 0 s.tsk.fresh c.2 == 1
    let owed := if bitOf e.qual 4 then sget 0 s.tsk.initOwed c.2 == 1 else e.qual % 2 == 1
    if owed && !wrote then sput 0 m c.2 1 else m) []

/-- LIVE and LIVEQ of an input force: what the source delivered at this latch; a program value under a force is kept for the
time after it (R105). -/
def State.latchForce (s : State) (n p us : Nat) : State :=
  match s.decl p with
  | none => s
  | some d =>
    if d.out then s
    else
      let e := entryAt s.mem (pointAddr p)
      let t := e.take (s.delivery d e) d.stale us
      let was := bitOf e.qual 4
      let fresh := (s.delivery d e).fresh
      let s := if was && !fresh then s else
        (s.wr (R.TSK_FORCE_LIVE_LIVE n) t.value).wr (R.TSK_FORCE_LIVEQ_LIVEQ n) t.qual
      if d.src = 5 && (fresh || !was) then
        { s with tsk := { s.tsk with live := sput 0 s.tsk.live p t.value, liveQ := sput 0 s.tsk.liveQ p 256 } }
      else s

/-- The engines' events latched: FBE_EVLIVE goes into FBE_EVSNAP, with what has risen in the clock of the latch (R130). -/
def State.latchEvents (s : State) : State :=
  (List.range 8).foldl (fun t k =>
    let e := k / 2
    let j := k % 2
    (t.wr (R.FBE_EVSNAP_SNAP e j) (t.rd (R.FBE_EVSNAP_SNAP e j) ||| t.rd (R.FBE_EVLIVE_LIVE e j))).wr
      (R.FBE_EVLIVE_LIVE e j) 0) s

/-- The codewords of the process image that a latch writes in part, QUAL of the entries that it does not write whole, are read first
(R274). -/
def State.latchReads (s : State) : State :=
  s.partReads 0xC ((s.dirtyCws 0x4000000 0x10000).filter fun cw =>
    cw % 16 == 8 && !s.wholeEntry ((cw - 0x4000000) / 16))

/-- Step 1 of Table 4.2: inputs latched, input forces applied, ages advanced, TSK_CYCCNT incremented. Whole codewords are written without
a read, so poison in them goes: in whole entries of inputs and in AGE of every entry (R274, R279). -/
def State.latch (s : State) : State :=
  let s := s.latchReads
  let us := (s.clk - s.tsk.latchClk) / 400
  let cells := s.latchCells us 4096 0 (swindow s.mem 0x4000000 0x4010000)
  let t : State := s.forces.foldl (fun t c =>
    if s.forceEntry c.2 = some c.1 then t.latchForce c.1 c.2 us else t) s
  let ecc := ((s.dirtyCws 0x4000000 0x10000).filter s.latchesCw).foldl (fun m a => rewriteCw m a 4) t.memx.ecc
  let t : State := { t with mem := splice 0 s.mem 0x4000000 0x4010000 cells, memx := { t.memx with ecc := ecc } }
  let t := t.inc R.TSK_CYCCNT_COUNT
  let t : State := { t with tsk := { t.tsk with
    latchClk := s.tsk.latchClk + 400 * us, fresh := [], heard := [], frames := 0, initOwed := s.initBeneath
    latchTime := t.tstampNow, latchCyc := t.rd R.TSK_CYCCNT_COUNT } }
  t

/-! ### Releases (R82) -/

/-- A task released: its stamps are taken, its run is pending on its engine (R154, R162), and the bank of its note, where it is free,
is loaded (R111, R112). -/
def State.release (s : State) (t : Nat) : State :=
  let e := s.taskEng t
  let s := s.inc (R.TSK_TSTAT_RELCNT_RELCNT t)
  let s := s.setTask t { s.task t with
    running := true, started := false, loaded := false, armed := true, carried := false
    tstamp := s.tstampNow, pstamp := s.pstampNow, cycnow := s.rd R.TSK_CYCCNT_COUNT
    tick0 := sget 0 s.engTicks e, lines := 0, depth := 0 }
  if s.bankFree e t then (s.loadBank e t).1 else s

/-- The rule of R82 for one enabled task; after a controller stop nothing more is released. -/
def State.countTask (s : State) (t : Nat) : State :=
  let c := s.task t
  if s.mode = 0 then s
  else if c.countdown = 0 then
    let s := if c.running then (s.incSat (R.TSK_TSTAT_CNT_SKIP t)).setTask t { c with armed := true } else s.release t
    s.setTask t { s.task t with countdown := s.rd (R.TSK_TASK_CTL_PERIOD t) - 1 }
  else s.setTask t { c with countdown := c.countdown - 1 }

/-- Step 2 of Table 4.2: the enabled tasks in task-number order; then the engines dispatch (R64). -/
def State.releases (s : State) : State :=
  let s : State := ((List.range 32).filter s.taskEn).foldl State.countTask s
  (List.range 4).foldl (fun s e => if s.mode = 0 then s else s.dispatch e) s

/-- Countdowns set at an entry to RUN from STOP (R82). -/
def State.setCountdowns (s : State) : State :=
  ((List.range 32).filter s.taskEn).foldl (fun s t =>
    s.setTask t { s.task t with countdown := s.rd (R.TSK_TASK_OFS_OFS t) }) s

/-! ### Commits (R84, R86, R107, R216, R319) -/

/-- A committed value of an on-module output queued for its slice, the instant that of the commit in its frame (R86, R216)
(DEDUCED, log entry 22). -/
def State.queueCommit (s : State) (sl k v : Nat) : State :=
  let f := s.ring.frame + 1
  let i := min 1249 ((s.clk - s.ring.frameClk) / 8)
  let same := fun (c : Commit) => c.frame == f && c.slice == sl
  match s.ring.commits.find? same with
  | some c =>
    let c' := { c with instant := i, vals := (c.vals.filter fun x => x.1 != k) ++ [(k, v)] }
    { s with ring := { s.ring with commits := s.ring.commits.map fun d => if same d then c' else d } }
  | none => { s with ring := { s.ring with commits := s.ring.commits ++ [⟨f, sl, i, [(k, v)]⟩] } }

/-- The bits that QUALSET left for an output point travel with its commit (R162); the gateway writes them (DESIGN CHOICE, log entry
60). -/
def State.commitQual (s : State) (n : Nat) : State :=
  match sget 0 s.tsk.qualWait n with
  | 0 => s
  | v =>
    let t := s.masterWrite 0xC (pointAddr n + 8) (toLE 2 (rangeFault (s.ptQual n) v))
    { t with tsk := { t.tsk with qualWait := sdel t.tsk.qualWait n, qualOwn := sput 0 t.tsk.qualOwn n (b2n (bitOf v 3)) } }

/-- What a remote station's output drives as the supervisor has it: none where the station has its safe values, as ordered in STOP and
in HOLD with HOLDSAFE = 1 and until the first commit of RUN; else the value last sent (R93, Table 4.8, R107) (DEDUCED, log entry
59). -/
def State.stationOut (s : State) (p : Nat) : Option Nat :=
  if s.safeMode then none
  else
    match sget 0 s.tsk.stationSent p with
    | 0 => none
    | v + 1 => some v

/-- The presence of a remote station at a commit (R107): it has been heard since the latch. `frames` says on which networks (by SRC) the
supervisor has taken frames whose senders the model does not hold: a station there that no mapped value has shown is present or not, a
free value (DESIGN CHOICE, log entry 68). -/
def State.stationThere (s : State) (p : PointDecl) (heard : List Nat) (frames : Nat) : State × Bool :=
  if heard.contains p.bind then (s, true)
  else if bitOf frames p.src then (s.useFree, s.freeVal % 2 == 1)
  else (s, false)

/-- One output point committed, with a value that has waited or with its VALUE, read through its codewords (R273): on the module to the
gateway, with poison met as the channel's safe value (Table 11.3); to a remote station by the supervisor, if the station is present,
the forced value where the point is forced, else Q_UNDELIVERED is set (R107). A VALUE with poison is not sent (DESIGN CHOICE, log entry 67).
The station is the one that BIND names (DESIGN CHOICE, log entry 68). LIVE of a force on it takes the value (TSK_FORCE). -/
def State.commitPoint (s : State) (p : PointDecl) (waited : Option Nat) (heard : List Nat) (frames : Nat) : State :=
  let n := p.point
  let s := s.commitQual n
  let s := match p.src with
    | 1 => (s.readChecked 0xC (pointAddr n) 8).1
    | 2 | 3 => s.supRead (pointAddr n) 8
    | _ => s
  let v := waited.getD (s.ptValue n)
  let s := match s.forceEntry n with
    | some k => s.wr (R.TSK_FORCE_LIVE_LIVE k) v
    | none => s
  match p.src with
  | 1 =>
    let sl := p.bind / 256 % 16
    let k := p.bind % 256 + if p.bind / 4096 = 3 then 8 else 0
    s.queueCommit sl k (if s.ptPoison n then s.chanSafe sl k else v)
  | 2 | 3 =>
    let r := s.stationThere p heard frames
    let s := r.1
    let there := r.2 && ((s.forceOf n).isSome || waited.isSome || !s.ptPoison n)
    let sent := if there then sput 0 s.tsk.stationSent n ((s.forceOf n).getD v + 1) else s.tsk.stationSent
    let s := { s with tsk := { s.tsk with stationSent := sent } }
    let q := withBit (s.ptQual n) 5 (!there)
    if q = s.ptQual n then s else s.masterWrite 0 (pointAddr n + 8) (toLE 2 q)
  | _ => s

/-- The output points that a task commits. -/
def State.taskOutputs (s : State) (t : Nat) : List PointDecl :=
  match s.img with
  | some im => im.points.filter fun p => p.out && p.wkind == 1 && p.who == t
  | none => []

/-- The outputs of a task committed. -/
def State.commitTask (s : State) (t : Nat) (heard : List Nat) : State :=
  (s.taskOutputs t).foldl (fun s p => s.commitPoint p none heard 0) s

/-- Output points written by the host committed at a boundary of RUN, each with the value that has waited (R319); a remote station
is present if it has been heard in the cycle that the boundary ends (R107) (DEDUCED, log entry 53). -/
def State.commitHost (s : State) (heard : List Nat) (frames : Nat) : State :=
  let ps := s.tsk.hostCommits.filterMap fun w => (s.decl w.1).map fun p => (p, w.2)
  let s : State := { s with tsk := { s.tsk with hostCommits := [] } }
  ps.foldl (fun s p => s.commitPoint p.1 (some p.2) heard frames) s

/-! ### The canary (R92, R95, R96, R101) -/

/-- A run is judged as a lenient task: its task is lenient, or it was carried and CARRYLEN is set. -/
def State.judgedLenient (s : State) (t : Nat) : Bool :=
  s.on (R.TSK_TASK_CTL_LENIENT t) || ((s.task t).carried && s.on R.TSK_CFG_CARRYLEN)

/-- A lenient overrun (R96): warned, counted, and a controller stop at the LENESC-th in a row. -/
def State.lenientOverrun (s : State) (t : Nat) : State :=
  let k := (s.task t).streak + 1
  let s := (s.note 0x0402).raise 26
  let s := (s.wr R.TSK_STAT_LENW 1).incSat (R.TSK_TSTAT_CNT_OVR t)
  let s := s.setTask t { s.task t with streak := k, armed := false }
  if s.rd R.TSK_CFG_LENESC ≠ 0 && decide (s.rd R.TSK_CFG_LENESC ≤ k) then
    s.controllerStop 7 0x0404 t (2 + s.taskEng t)
  else s

/-- The deadline of a task's run falls now: it is armed, it is due in this cycle, and the cycle runs tasks (R83, R92, R100). -/
def State.deadlineDue (s : State) (t : Nat) : Bool :=
  (s.mode == 1 || (s.mode == 2 && s.on R.TSK_STAT_STEP)) && s.taskEn t && (s.task t).armed && (s.task t).countdown == 0

/-- The canary does not judge an unfinished run: after BRK in a step it is suspended (R100), and the engine that BRK has halted in
RUN is in HOLD already, in which no deadline is judged (Table 4.7, R101) (DEDUCED, log entry 16). -/
def State.canaryAside (s : State) (t : Nat) : Bool := s.tsk.canaryOff || s.rd (R.FBE_STAT_STATE (s.taskEng t)) == 0

/-- TASK_DEADLINE (R83, R84 step 4, R92, R96). A finished run commits; an unfinished one is judged by the canary. -/
def execTaskDeadline (t : Fin 32) (heard : List Word) (s : State) : Res :=
  if !s.deadlineDue t then .next s
  else if !(s.task t).running then
    let s := s.setTask t { s.task t with armed := false, streak := 0 }
    .next (s.commitTask t (heard.map (·.toNat) ++ s.tsk.heard))
  else if s.canaryAside t then .next s
  else if s.judgedLenient t then .next (s.lenientOverrun t)
  else .next (s.controllerStop 2 0x0401 t (2 + s.taskEng t))

/-! ### Mode requests (Table 4.7) -/

/-- A request is refused with fault 0x0403 and changes nothing (R97). -/
def State.refuseMode (s : State) : State := s.note 0x0403

/-- A load is in progress, from its first chunk to the reply to its last (R167). -/
def State.loadBusy (s : State) : Bool := s.loading != .idle

/-- An ordered request accepted: recorded, and it waits for its boundary. -/
def State.order (s : State) (r : Request) (new source : Nat) : State :=
  (s.tallyEvent 0x007 (s.modePayload new source)).request r

/-- The task table breaks Table 4.1 or R81, or names an engine whose domain is off (R98). -/
def State.taskTableOk (s : State) : Bool :=
  let top := ceilDiv (2 ^ 32) s.cycles - 1
  ((List.range 32).filter s.taskEn).all fun t =>
    let p := s.rd (R.TSK_TASK_CTL_PERIOD t)
    let o := s.rd (R.TSK_TASK_OFS_OFS t)
    let c := s.rd (R.TSK_TASK_COMMIT_COMMIT t)
    let shape := match s.taskNote t with
      | 0 => p == 1 && o == 0
      | 1 => decide (2 ≤ p) && decide (p ≤ 100) && decide (o < p)
      | 2 => decide (10 ≤ p) && decide (p ≤ 10000) && decide (o < p)
      | _ => false
    shape && decide (1 ≤ c) && decide (c ≤ top) && s.domOn (2 + s.taskEng t / 2)

/-- MEM, FBE01, PHS and NVS are on, with one of SLA to SLD and MET (R436). -/
def State.controlDomains (s : State) : Bool :=
  s.domOn 5 && s.domOn 2 && s.domOn 10 && s.domOn 6 && [11, 12, 13, 14, 15].any s.domOn

/-- What forbids every entry to RUN: the RC oscillator, the safe-state input, pit mode, no image (R31, R103, R171, R436, Table
20.2). -/
def State.runUnfit (s : State) : Option Nat :=
  if s.on R.SYS_STAT_CLKSRC then some 0x0102
  else if s.on R.TSK_CFG_SAFEINEN && s.on R.SYS_STAT_SAFEIN then some 0x0405
  else if s.on R.PWR_STAT_PIT then some 0x0205
  else if s.img.isNone then some 0x0417
  else none

/-- A RUN request refused with a fault of TSK, or of PWR, which holds its own (R438). -/
def State.refuseRun (s : State) (fault : Nat) : State :=
  if fault = 0x0205 then s.report R.PWR_LASTFAULT_FAULT 0x0205 else s.note fault

/-- The checks that refuse a RUN request where it stands, before any wait: the fault, or none (R31, R94, R97, R103, R171). The loss
of the TCXO comes first: it refuses whether or not the stop fault has been cleared (R31). Where several others refuse, the mode and a
latched stop fault (0x0403) come before the safe-state input (0x0405) (DESIGN CHOICE, log entry 72). -/
def State.runBlocked (s : State) : Option Nat :=
  if s.on R.SYS_STAT_CLKSRC then some 0x0102
  else if s.mode ≠ 0 || s.loadBusy || s.tsk.entry != .none || s.inGap || s.on R.TSK_STAT_FLT then some 0x0403 else s.runUnfit

/-- The checks of the entry in their order: control domains (R436), PHS (R50), task table (R98), loops (R210), admission (R75).
A refused admission reports its fault and is recorded; a passed one is kept (R78). It reads the task records of the image, not the
registers of the task table (DESIGN CHOICE, log entry 65). -/
def State.enterChecks (s : State) (cold : Bool) : State :=
  match s.img with
  | none => s
  | some im =>
    if !s.controlDomains then s.refuseRun 0x0205
    else if !s.phsOk then s.report R.PHS_LASTFAULT_FAULT 0x0301
    else if !s.taskTableOk then s.note 0x0409
    else if !im.loops.isEmpty && !s.domOn 4 then s.report R.LPE_LASTFAULT_FAULT 0x0603
    else
      match admitImage s im.view im with
      | .inl e => { (s.note e.fault).tallyEvent 0x002 e.report with admission := e.report }
      | .inr led => { s with ledger := led }.beginRestart cold

/-- UPD_STAT.MOVING (R406): the shaft's speed is past UPD_MOVTHR, or the DI named by MOVIN reads on. -/
def State.moving (s : State) : Bool :=
  let m := s.rd R.UPD_CFG_MOVIN
  (s.on R.PHS_CFG_SHEN && decide (s.rd R.UPD_MOVTHR_CPS < (toSigned 32 (s.rd R.PHS_SHSPEED_CPS)).natAbs)) ||
    (s.on R.UPD_CFG_MOVINEN && decide (m < 48) && bitOf (s.rd (R.SLR_DIIN_STATE (m / 12))) (m % 12))

/-- UPD_STAT.CELL_LOW (R406). -/
def State.cellLow (s : State) : Bool := decide (s.rd R.UPD_CELLV_MV < 2500)

/-- A fallback that is due starts at the next boundary, or is held off while MOVING or CELL_LOW is set (R414, R416). -/
def State.fallTrigger (s : State) : State :=
  if s.rd R.UPD_STAT_STATE = 5 && s.on R.UPD_STAT_FALLPEND then
    if s.moving || s.cellLow then { s with upd := { s.upd with heldOff := true } }
    else { s with upd := { s.upd with fallDue := some 2, heldOff := false } }
  else s

/-- NVS is on and not yet ready, so its clients wait (R294). -/
def State.nvsComing (s : State) : Bool := s.domOn 6 && !s.nvsReady

/-- A RUN request that need not wait, or waits no longer: a save ends first, and NVS becomes ready for the snapshots (R175, R294), then
comes a fallback that is due (R416). -/
def State.runOn (s : State) (cold : Bool) : State :=
  let s := { s with tsk := { s.tsk with entry := .none } }
  let f := s.fallTrigger
  if s.tsk.save.isSome || s.nvsComing then { s with tsk := { s.tsk with entry := .waitSave cold } }
  else if f.upd.fallDue.isSome then { f with tsk := { f.tsk with entry := .waitGap cold } }
  else
    match f.runBlocked with
    | some e => f.refuseRun e
    | none => f.enterChecks cold

/-- The same, with the reply to the host whose request has waited (R78). -/
def State.runProceed (s : State) (cold : Bool) : State := s.settleRun fun s => s.runOn cold

/-- RUN-warm or RUN-cold (Table 4.7): refused, or waiting for a save or a fallback gap to end, or checked (R175, R177, R416). -/
def State.runRequest (s : State) (cold : Bool) (source : Nat) : State :=
  match s.runBlocked with
  | some f => s.refuseRun f
  | none => (s.tallyEvent 0x007 (s.modePayload 1 source)).runProceed cold

/-- A STOP request during a gap: the gap ends in STOP (R461). -/
def State.stopGap (s : State) (source : Nat) : State :=
  let s := s.tallyEvent 0x007 (s.modePayload 0 source)
  let s := if s.runWaits then s.dropEntry else s
  match s.upd.gap with
  | some g => { s with upd := { s.upd with gap := some { g with toStop := true } } }
  | none => s

/-- A mode request by its code in TSK_CTRL.CMD, from a source (Table 4.7). While a load is in progress, and in a gap but for
STOP, every request is refused (R167, R461); while the PLLs run from the RC oscillator every request for RUN is (R31). -/
def State.modeRequest (s : State) (cmd source : Nat) : State :=
  if cmd = 0 then s
  else if s.on R.SYS_STAT_CLKSRC && (cmd == 2 || cmd == 3 || cmd == 5) then s.note 0x0102
  else if s.loadBusy then s.refuseMode
  else if s.inGap then if cmd = 1 then s.stopGap source else s.refuseMode
  else
    match cmd with
    | 1 => if s.mode = 0 then s.refuseMode else s.order (.stop 1) 0 source
    | 2 => s.runRequest false source
    | 3 => s.runRequest true source
    | 4 => if s.mode = 1 then s.order .hold 2 source else s.refuseMode
    | 5 => if s.mode = 2 then s.order .runFromHold 1 source else s.refuseMode
    | 6 => if s.mode = 2 then s.order .step 2 source else s.refuseMode
    | _ => s.refuseMode

/-- CMD_STOP. -/
def execCmdStop (s : State) : Res := .next (s.modeRequest 1 0)

/-- CMD_RUN_WARM. -/
def execCmdRunWarm (s : State) : Res := .next (s.modeRequest 2 0)

/-- CMD_RUN_COLD. -/
def execCmdRunCold (s : State) : Res := .next (s.modeRequest 3 0)

/-- CMD_HOLD. -/
def execCmdHold (s : State) : Res := .next (s.modeRequest 4 0)

/-- CMD_RUN_FROM_HOLD. -/
def execCmdRunFromHold (s : State) : Res := .next (s.modeRequest 5 0)

/-- CMD_STEP. -/
def execCmdStep (s : State) : Res := .next (s.modeRequest 6 0)

/-- The latched stop fault is cleared; the mode does not change (R94). -/
def State.clearStop (s : State) : State := (s.wr R.TSK_FAULT_FAULT 0).wr R.TSK_STAT_FLT 0

/-- CLEAR_FAULT: a write of TSK_CTRL.CLRFLT (R94). -/
def execClearFault (s : State) : Res := .next s.clearStop

/-- A write of TSK_CTRL: CLRFLT is taken before CMD. -/
def State.writeTskCtrl (s : State) (v : Nat) : State :=
  (if bitOf v 4 then s.clearStop else s).modeRequest (v % 16) 0

/-- RESTART_COMPLETE (R138, R177, R282): the front stands above DRAM again, the engines are idle, and RUN begins at the next
boundary. A restart does not end before the power-on initialisers have (R67). The zeroing of DRAM goes on where the entry to RUN has
been given up. -/
def execRestartComplete (s : State) : Res :=
  if s.memx.init ≠ 0 then .next s
  else if s.tsk.entry ≠ .restarting then .next (if s.on R.MEM_STAT_ZEROING then s.frontDone else s)
  else
    let s := if s.on R.MEM_STAT_ZEROING then s.frontDone else s
    let s := (((s.idleEng 0).idleEng 1).idleEng 2).idleEng 3
    .next { s with tsk := { s.tsk with entry := .ready } }

end Sys2Proof.Machine
end

