-- ==== Sys2Proof/Machine/Fieldbus.lean ====
section
/-! DEFINITION. FBS: the four CAN FD channels, their transmit buffers, error states, receive rings and stamps (R323 to R339). -/

namespace Sys2Proof.Machine

/-- A channel reports a fault. -/
def State.fbsFault (s : State) (n code : Nat) : State := s.report (R.FBS_LASTFAULT_FAULT n) code

/-- STATE of a channel set; each change raises line 100 + n (R331). -/
def State.fbsState (s : State) (n v : Nat) : State :=
  if s.rd (R.FBS_STAT_STATE n) = v then s else (s.wr (R.FBS_STAT_STATE n) v).raise (100 + n)

/-- STATE of a transmit buffer. -/
def State.bufState (s : State) (n b : Nat) : Nat := s.rd (R.FBS_TXB_STAT_STATE n b)

/-- A buffer ends as SENT, CANCELLED or ABORTED, and line 100 + n rises (R329, R330). -/
def State.bufEnd (s : State) (n b v : Nat) : State :=
  ((s.wr (R.FBS_TXB_STAT_STATE n b) v).wr (R.FBS_TXB_STAT_CANPEND n b) 0).raise (100 + n)

/-! ### Enable and disable (R325) -/

/-- The fields of FBS_CFG but EN written. -/
def State.writeFbsCfg (s : State) (n v : Nat) : State :=
  let s := (s.wr (R.FBS_CFG_FD n) (v / 2)).wr (R.FBS_CFG_MODE n) (v / 4)
  let s := (s.wr (R.FBS_CFG_AUTOREC n) (v / 8)).wr (R.FBS_CFG_LISTEN n) (v / 16)
  let s := (s.wr (R.FBS_CFG_SELFRX n) (v / 32)).wr (R.FBS_CFG_ONESHOT n) (v / 64)
  s.wr (R.FBS_CFG_TERM n) (v / 128)

/-- Every field of FBS_CFG, FBS_NBT, FBS_DBT and FBS_TDC latched (R325). -/
def State.fbsLatch (s : State) (n : Nat) : State :=
  s.setChan n { s.chan n with
    fd := s.on (R.FBS_CFG_FD n), order := s.on (R.FBS_CFG_MODE n), autorec := s.on (R.FBS_CFG_AUTOREC n)
    listen := s.on (R.FBS_CFG_LISTEN n), selfrx := s.on (R.FBS_CFG_SELFRX n), oneshot := s.on (R.FBS_CFG_ONESHOT n)
    term := s.on (R.FBS_CFG_TERM n)
    nbt := s.rd (R.FBS_NBT_NBRP n) + s.rd (R.FBS_NBT_NTSEG1 n) * 2 ^ 8 + s.rd (R.FBS_NBT_NTSEG2 n) * 2 ^ 16 +
      s.rd (R.FBS_NBT_NSJW n) * 2 ^ 24
    dbt := s.rd (R.FBS_DBT_DBRP n) + s.rd (R.FBS_DBT_DTSEG1 n) * 2 ^ 8 + s.rd (R.FBS_DBT_DTSEG2 n) * 2 ^ 16 +
      s.rd (R.FBS_DBT_DSJW n) * 2 ^ 24
    tdc := s.rd (R.FBS_TDC_TDCEN n) + s.rd (R.FBS_TDC_TDCO n) * 2 ^ 8 }

/-- The clocks of a nominal bit (R324). -/
def FbsChan.nominalBit (c : FbsChan) : Nat := (slice 7 0 c.nbt + 1) * (3 + slice 15 8 c.nbt + slice 22 16 c.nbt)

/-- The clocks of a data-phase bit (R324). -/
def FbsChan.dataBit (c : FbsChan) : Nat := (slice 4 0 c.dbt + 1) * (3 + slice 12 8 c.dbt + slice 19 16 c.dbt)

/-- The latched bit timing passes the checks of R325; rates are compared as clocks of 80 MHz per bit. -/
def FbsChan.timingOk (c : FbsChan) : Bool :=
  let d := c.nominalBit
  let dd := c.dataBit
  decide (80 ≤ d) && decide (d ≤ 4000) && decide (slice 30 24 c.nbt ≤ slice 22 16 c.nbt) &&
    (!c.fd ||
      (decide (dd ≤ d) && decide (16 ≤ dd) && decide (slice 27 24 c.dbt ≤ slice 19 16 c.dbt) &&
        (decide (80 ≤ dd) || bitOf c.tdc 0)))

/-- A write of FBS_CFG with EN = 1: a channel that is enabled already only takes the fields into its registers; another latches
them, and is enabled with them or refused with fault 0x0B06 (R325) (DEDUCED, log entry 42). -/
def State.fbsEnable (s : State) (n v : Nat) : State :=
  if !s.domOn 8 then s
  else
    let s := s.writeFbsCfg n v
    if s.on (R.FBS_CFG_EN n) then s
    else
      let s := s.fbsLatch n
      if !(s.chan n).timingOk then (s.fbsFault n 0x0B06).raise (100 + n)
      else
        let s := s.wr (R.FBS_CFG_EN n) 1
        let s := (s.wr (R.FBS_ERR_TEC n) 0).wr (R.FBS_ERR_REC n) 0
        (s.setChan n { s.chan n with tx := none, broken := false, seq := 0 }).fbsState n 3

/-- FBS_ENABLE. -/
def execFbsEnable (ch : Fin 4) (value : Word) (s : State) : Res := .next (s.fbsEnable ch.val value.toNat)

/-- A write of FBS_CFG with EN = 0: the channel stops at once, and every pending buffer becomes CANCELLED (R325). -/
def State.fbsDisable (s : State) (n v : Nat) : State :=
  if !s.domOn 8 then s
  else
    let s := ((s.writeFbsCfg n v).wr (R.FBS_CFG_EN n) 0).wr (R.FBS_STAT_RECOV n) 0
    let s := s.setChan n { s.chan n with tx := none }
    let s : State := ([0, 1, 2].filter fun b => s.bufState n b == 1).foldl (fun s b => s.bufEnd n b 3) s
    s.fbsState n 3

/-- FBS_DISABLE. -/
def execFbsDisable (ch : Fin 4) (value : Word) (s : State) : Res := .next (s.fbsDisable ch.val value.toNat)

/-- FBS_INTEGRATED (R325). -/
def execFbsIntegrated (ch : Fin 4) (s : State) : Res :=
  if s.on (R.FBS_CFG_EN ch.val) && s.rd (R.FBS_STAT_STATE ch.val) == 3 then .next (s.fbsState ch.val 0) else .next s

/-! ### Transmit buffers (R327 to R330) -/

/-- The transmit copy that a buffer's registers make. -/
def State.txCopy (s : State) (n b : Nat) : TxCopy where
  id := s.rd (R.FBS_TXB_ID_ID n b)
  ide := s.on (R.FBS_TXB_ID_IDE n b)
  rtr := s.on (R.FBS_TXB_ID_RTR n b)
  dlc := s.rd (R.FBS_TXB_CTL_DLC n b)
  fdf := s.on (R.FBS_TXB_CTL_FDF n b)
  brs := s.on (R.FBS_TXB_CTL_BRS n b)
  data := ((List.range 16).map fun k => toLE 4 (s.rd (R.FBS_TXB_DATA_DATA n b k))).flatten

/-- A request of one buffer (R327). -/
def State.txRequest1 (s : State) (n b : Nat) : State :=
  if s.bufState n b = 1 then s
  else
    let c := s.txCopy n b
    if c.fdf && !(s.chan n).fd then s.fbsFault n 0x0B05
    else
      let s := s.setChan n { s.chan n with copies := sput {} (s.chan n).copies b c }
      (s.wr (R.FBS_TXB_STAT_STATE n b) 1).wr (R.FBS_TXB_STAT_CANPEND n b) 0

/-- The buffers that a mask names. -/
def maskBits (m : Nat) : List Nat := [0, 1, 2].filter fun b => bitOf m b

/-- A write of FBS_TXREQ (R327). -/
def State.txRequest (s : State) (n m : Nat) : State :=
  if !s.domOn 8 then s else (maskBits m).foldl (fun s b => s.txRequest1 n b) s

/-- TX_REQUEST. -/
def execTxRequest (ch : Fin 4) (mask : BitVec 3) (s : State) : Res := .next (s.txRequest ch.val mask.toNat)

/-- The buffer whose frame is on the bus. -/
def State.sending (s : State) (n b : Nat) : Bool :=
  match (s.chan n).tx with
  | some (k, _) => k == b
  | none => false

/-- A cancel of one buffer (R330). -/
def State.txCancel1 (s : State) (n b : Nat) : State :=
  if s.bufState n b ≠ 1 then s
  else if s.sending n b then
    ((s.wr (R.FBS_TXB_STAT_TOOLATE n b) 1).wr (R.FBS_TXB_STAT_CANPEND n b) 1).raise (100 + n)
  else s.bufEnd n b 3

/-- A write of FBS_TXCAN (R330). -/
def State.txCancel (s : State) (n m : Nat) : State :=
  if !s.domOn 8 then s else (maskBits m).foldl (fun s b => s.txCancel1 n b) s

/-- TX_CANCEL. -/
def execTxCancel (ch : Fin 4) (mask : BitVec 3) (s : State) : Res := .next (s.txCancel ch.val mask.toNat)

/-- The key of a frame: the lower wins arbitration (R328). -/
def TxCopy.key (c : TxCopy) : Nat :=
  let rtr := b2n (c.rtr && !c.fdf)
  if c.ide then slice 28 18 c.id * 2 ^ 21 + 2 ^ 20 + 2 ^ 19 + slice 17 0 c.id * 2 + rtr
  else slice 10 0 c.id * 2 ^ 21 + rtr * 2 ^ 20

/-- The pending buffers of a channel, in number order. -/
def State.pendingBufs (s : State) (n : Nat) : List Nat := [0, 1, 2].filter fun b => s.bufState n b == 1

/-- The buffer that a channel selects (R328): by number in ORDER mode; by key in PRIO mode, ties to the lower number. -/
def State.selectBuf (s : State) (n : Nat) : Option Nat :=
  let key := fun b => (sget {} (s.chan n).copies b : TxCopy).key
  match s.pendingBufs n with
  | [] => none
  | b :: bs =>
    if (s.chan n).order then some b
    else some (bs.foldl (fun best k => if key k < key best then k else best) b)

/-- The channel takes part in traffic: enabled, and error-active or error-passive. -/
def State.onBus (s : State) (n : Nat) : Bool :=
  s.domOn 8 && s.on (R.FBS_CFG_EN n) && decide (s.rd (R.FBS_STAT_STATE n) < 2)

/-- FBS_TX_START (R328): the selected buffer's SOF is driven, and the stamp counter taken (R336). -/
def execFbsTxStart (ch : Fin 4) (s : State) : Res :=
  let n := ch.val
  let c := s.chan n
  if !s.onBus n || c.listen || c.tx.isSome then .next s
  else
    match s.selectBuf n with
    | none => .next s
    | some b => .next (s.setChan n { c with tx := some (b, s.rd (R.FBS_TSCNT_COUNT 0)), broken := false })

/-! ### Receive ring (R333 to R335) -/

/-- The data bytes of a DLC (R323, R327). -/
def dlcLen (fdf : Bool) (dlc : Nat) : Nat :=
  if dlc ≤ 8 then dlc else if !fdf then 8 else [12, 16, 20, 24, 32, 48, 64].getD (dlc - 9) 64

/-- The entries of a ring: SIZE held in 8 to 12. -/
def State.ringSize (s : State) (n : Nat) : Nat := 2 ^ max 8 (min 12 (s.rd (R.FBS_RXSIZE_SIZE n)))

/-- The number of the next entry: those written, and those on their way (R281, R334). -/
def State.nextEntry (s : State) (n : Nat) : Nat := (s.rd (R.FBS_RXWR_COUNT n) + (s.chan n).onWay.length) % 2 ^ 32

/-- The ring is full (R334). -/
def State.ringFull (s : State) (n : Nat) : Bool :=
  decide (s.ringSize n ≤ (s.nextEntry n + 2 ^ 32 - s.rd (R.FBS_RXRD_COUNT n)) % 2 ^ 32)

/-- A period of being full is over once the ring is not (R334). -/
def State.ringRoom (s : State) (n : Nat) : State :=
  if (s.chan n).full && s.domOn 5 && !s.ringFull n then s.setChan n { s.chan n with full := false } else s

/-- A frame dropped and counted (R334). -/
def State.fbsDrop (s : State) (n : Nat) : State :=
  (s.inc (R.FBS_RXDROP_COUNT n)).setChan n { s.chan n with drop := true }

/-- A frame dropped on a full ring: line 100 + n at the first, fault 0x0B03 at most once a second (R334). -/
def State.dropFull (s : State) (n : Nat) : State :=
  let s := s.fbsDrop n
  let c := s.chan n
  let s := if c.full then s else s.raise (100 + n)
  let due := c.reported = 0 || decide (c.reported + 400000000 ≤ s.clk + 1)
  let s := if due then s.fbsFault n 0x0B03 else s
  s.setChan n { c with full := true, reported := if due then s.clk + 1 else c.reported }

/-- The 80 bytes of a receive entry (Table 13.3); a base frame has an identifier of 11 bits. -/
def rxEntry (ts seq : Nat) (f : CanFrame) (self drop : Bool) : List (BitVec 8) :=
  let n := if f.rtr && !f.fdf then 0 else dlcLen f.fdf f.dlc.toNat
  let id := if f.ide then f.id.toNat else f.id.toNat % 2048
  toLE 4 ts ++ toLE 4 (id + b2n f.ide * 2 ^ 29 + b2n (f.rtr && !f.fdf) * 2 ^ 30) ++
    toLE 1 (f.dlc.toNat + b2n f.fdf * 16 + b2n (f.fdf && f.brs) * 32 + b2n (f.fdf && f.esi) * 64) ++ toLE 1 n ++ toLE 2 seq ++
    toLE 1 (b2n self + 2 * b2n drop) ++ zeros 3 ++ ((f.data.take n ++ zeros 64).take 64)

/-- An accepted frame: counted in SEQ, and written to the ring or dropped (R333 to R335). With MEM off it is dropped as on a full
ring (R437). RXWR counts an entry once it has been written, which waits above MEM_FRONT (R281). -/
def State.fbsAccept (s : State) (n ts : Nat) (f : CanFrame) (self : Bool) : State :=
  let s := s.setChan n { s.chan n with seq := ((s.chan n).seq + 1) % 65536 }
  let k := s.nextEntry n
  let a := s.rd (R.FBS_RXBASE_ADDR n) / 16 * 16 + 80 * (k % s.ringSize n)
  if s.on (R.FBS_STAT_RINGERR n) then s.fbsDrop n
  else if s.ringFull n || !s.domOn 5 then s.dropFull n
  else if decide (a < 0x100000000) || decide (0x180000000 < a + 80) then
    (((s.fbsDrop n).wr (R.FBS_STAT_RINGERR n) 1).fbsFault n 0x0B04).raise (100 + n)
  else
    let c := s.chan n
    let s := s.dmaWrite 8 a (rxEntry ts c.seq f self c.drop)
    let wait := s.aboveFront a 80
    let s := s.setChan n { c with drop := false, full := false, onWay := if wait then c.onWay ++ [a] else c.onWay }
    if wait then s else s.entryWritten n

/-! ### Errors (R331, R332) -/

/-- STATE after a change of the counters (R331): bus-off past 255, error-passive past 127. Recovery starts at once where
AUTOREC is latched (R332). -/
def State.errorState (s : State) (n : Nat) : State :=
  let tec := s.rd (R.FBS_ERR_TEC n)
  let was := s.rd (R.FBS_STAT_STATE n)
  if 255 < tec then
    let s := ((s.fbsFault n 0x0B01).wrB (R.FBS_STAT_RECOV n) (s.chan n).autorec).fbsState n 2
    s.setChan n { s.chan n with tx := none }
  else if 127 < tec || 127 < s.rd (R.FBS_ERR_REC n) then
    (if was = 0 then s.fbsFault n 0x0B02 else s).fbsState n 1
  else s.fbsState n 0

/-- The frame on the bus ends without completing: its buffer stays pending, or is cancelled or aborted (R329, R330). -/
def State.txBroken (s : State) (n : Nat) : State :=
  match (s.chan n).tx with
  | none => s
  | some (b, _) =>
    let s := s.setChan n { s.chan n with tx := none }
    if s.on (R.FBS_TXB_STAT_CANPEND n b) then s.bufEnd n b 3
    else if (s.chan n).oneshot then s.bufEnd n b 4 else s

/-- FBS_ARBITRATION_LOST (R329). -/
def execFbsArbitrationLost (ch : Fin 4) (s : State) : Res := .next (s.txBroken ch.val)

/-- The channel counts an error as a transmitter: in a frame of its own, and further in the error frame that has broken it or in an
overload frame that follows it (R331). -/
def State.asSender (s : State) (n step : Nat) : Bool := (s.chan n).tx.isSome || (step == 3 && (s.chan n).broken)

/-- An error detected (R331): LEC, the counter of the channel's role in the frame, the error state, and the fate of a frame of
its own. A further step of a transmitter that is none has no effect on a counter. -/
def State.busError (s : State) (n lec step : Nat) : State :=
  if !s.onBus n then s
  else
    let s := s.wr (R.FBS_STAT_LEC n) lec
    let own := s.asSender n step
    let s := if step = 0 || (step = 3 && !own) then s
      else if own then s.wr (R.FBS_ERR_TEC n) (min 511 (s.rd (R.FBS_ERR_TEC n) + 8))
      else s.wr (R.FBS_ERR_REC n) (min 511 (s.rd (R.FBS_ERR_REC n) + if step = 1 then 1 else 8))
    let s := s.setChan n { s.chan n with broken := own }
    (s.txBroken n).errorState n

/-- FBS_BUS_ERROR. -/
def execFbsBusError (ch : Fin 4) (lec : Fin 7) (step : Fin 4) (s : State) : Res :=
  .next (s.busError ch.val lec.val step.val)

/-- The frame that a transmit copy sends. -/
def TxCopy.frame (c : TxCopy) (esi : Bool) : CanFrame :=
  ⟨BitVec.ofNat 29 c.id, c.ide, c.rtr, c.fdf, c.brs, esi, BitVec.ofNat 4 c.dlc, c.data⟩

/-- FBS_FRAME_COMPLETE (R329): the buffer is SENT with its stamp, TEC falls by 1, and with SELFRX the channel receives its own
frame (R333). -/
def execFbsFrameComplete (ch : Fin 4) (s : State) : Res :=
  let n := ch.val
  match (s.chan n).tx with
  | none => .next s
  | some (b, ts) =>
    let c : TxCopy := sget {} (s.chan n).copies b
    let passive := s.rd (R.FBS_STAT_STATE n) == 1
    let s := s.setChan n { s.chan n with tx := none, broken := true }
    let s := (s.wr (R.FBS_TXB_TS_TS n b) ts).inc (R.FBS_TXSENT_COUNT n)
    let s := s.bufEnd n b 2
    let s := (s.wr (R.FBS_ERR_TEC n) (s.rd (R.FBS_ERR_TEC n) - 1)).errorState n
    .next (if (s.chan n).selfrx then s.fbsAccept n ts (c.frame passive) true else s)

/-- REC after a frame received well: one less; past 127 it returns to a value of 119 to 127, which ISO 11898-1 leaves open
(DESIGN CHOICE, log entry 1). -/
def State.recGood (s : State) (n : Nat) : State :=
  let r := s.rd (R.FBS_ERR_REC n)
  if 127 < r then (s.wr (R.FBS_ERR_REC n) (119 + s.freeVal % 9)).useFree else s.wr (R.FBS_ERR_REC n) (r - 1)

/-- The values that the supervisor's mapping takes from a frame enter the live copies of the remote input points that they
name (R85, R335) (DEDUCED, log entry 48). -/
def State.mapPoints (s : State) (m : List (BitVec 12 × DWord)) : State :=
  m.foldl (fun s c =>
    match s.decl c.1.toNat with
    | some p =>
      if (p.src = 2 || p.src = 3) && !p.out then
        let s := s.putLive p.point c.2.toNat
        { s with tsk := { s.tsk with heard := s.tsk.heard ++ [p.bind] } }
      else s
    | none => s) s

/-- FBS_RECEIVE (R333 to R336): an FD frame while the latched FD is 0 is a form error. -/
def execFbsReceive (ch : Fin 4) (frame : CanFrame) (age : Word) (mapped : List (BitVec 12 × DWord))
    (s : State) : Res :=
  let n := ch.val
  if !s.onBus n then .next s
  else if frame.fdf && !(s.chan n).fd then .next (s.busError n 2 1)
  else
    let s := s.setChan n { s.chan n with broken := false }
    let ts := (s.rd (R.FBS_TSCNT_COUNT 0) + 2 ^ 32 - age.toNat) % 2 ^ 32
    let next := s.nextEntry n
    let s := ((s.recGood n).errorState n).fbsAccept n ts frame false
    .next (if s.nextEntry n = next then s else (s.heardOn 2).mapPoints mapped)

/-- A write of FBS_CTRL with RECOVER (R332): starts recovery in bus-off. -/
def State.fbsRecover (s : State) (n : Nat) : State :=
  if s.domOn 8 && s.rd (R.FBS_STAT_STATE n) == 2 then s.wr (R.FBS_STAT_RECOV n) 1 else s

/-- FBS_RECOVER. -/
def execFbsRecover (ch : Fin 4) (s : State) : Res := .next (s.fbsRecover ch.val)

/-- FBS_RECOVERY_COMPLETE (R332). -/
def execFbsRecoveryComplete (ch : Fin 4) (s : State) : Res :=
  let n := ch.val
  if s.rd (R.FBS_STAT_STATE n) == 2 && s.on (R.FBS_STAT_RECOV n) then
    let s := (s.wr (R.FBS_ERR_TEC n) 0).wr (R.FBS_ERR_REC n) 0
    .next ((s.wr (R.FBS_STAT_RECOV n) 0).fbsState n 0)
  else .next s

/-- A write of FBS_RXBASE (R335). -/
def State.rxbaseWrite (s : State) (n v : Nat) : State :=
  if !s.domOn 8 then s
  else
    let s := (s.wr (R.FBS_RXBASE_ADDR n) v).wr (R.FBS_STAT_RINGERR n) 0
    let s := s.setChan n { s.chan n with onWay := [] }
    ((s.wr (R.FBS_RXWR_COUNT n) 0).wr (R.FBS_RXRD_COUNT n) 0).ringRoom n

/-- FBS_RXBASE_WRITE. -/
def execFbsRxbaseWrite (ch : Fin 4) (value : DWord) (s : State) : Res := .next (s.rxbaseWrite ch.val value.toNat)

/-! ### Stamps (R336, R337) -/

/-- A snapshot of the counter and of network time (R337). -/
def State.fbsSnap (s : State) : State :=
  if !s.domOn 8 then s
  else
    let s := s.wr (R.FBS_TSSNAP_A_SNAPCNT 0) (s.rd (R.FBS_TSCNT_COUNT 0))
    let s := s.wr (R.FBS_TSSNAP_A_SNAPNS 0) s.tim.ns
    (s.wr (R.FBS_TSSNAP_B_SNAPSEC 0) (s.rd R.TIM_SEC_SEC)).inc (R.FBS_TSSNAP_B_NUM 0)

/-- FBS_SNAP_REQUEST. -/
def execFbsSnapRequest (s : State) : Res := .next s.fbsSnap

/-- The FBS domain starts or goes off: registers at reset, the channels disabled, the counter at 0 (R336, R339). -/
def State.fbsOff (s : State) : State := { s.resetRegs 0x100D0000 0x100E0000 with fbs := [] }

end Sys2Proof.Machine
end

