-- ==== Sys2Proof/Machine/Power.lean ====
section
/-! DEFINITION. PWR: power domains, sleep and wake, pit mode, the power-fail sequence and resets by the logic supply
(R421 to R439, R464). The boot that follows a reset stands in Boot.lean. -/

namespace Sys2Proof.Machine

/-! ### Domains (R424 to R426) -/

/-- The domains that a domain needs (Table 18.1). -/
def domNeeds (d : Nat) : List Nat :=
  if d = 4 then [5, 10] else if [2, 3, 7, 8, 9].contains d then [5] else if 11 ≤ d then [10] else []

/-- What a slice keeps of itself without power: its firmware banks. -/
def SliceState.unpowered (v : SliceState) : SliceState :=
  { version := v.version, bank := v.bank, known := v.known, staged := v.staged }

/-- What a metering feeder keeps without power: the newest writes of its accumulators (R265). -/
def FeederState.unpowered (f : FeederState) : FeederState := { saved := f.saved, savedOld := f.savedOld }

/-- The blocks of a domain at their reset values, its memories empty (R426); the counters of NET are zeroed only by a reset by the
logic supply (R313). -/
def State.domClear (s : State) (d : Nat) : State :=
  match d with
  | 2 => s.resetRegs 0x10040000 0x10060000
  | 3 => s.resetRegs 0x10060000 0x10080000
  | 4 => { s.resetRegs 0x10080000 0x10090000 with lpe := {} }
  | 5 => s.memOff
  | 6 => { s.resetRegs 0x10130000 0x10140000 with
      nvs := { activeSlot := s.nvs.activeSlot, marked := s.nvs.marked, cut := s.nvs.cut, unreadable := s.nvs.unreadable
               foreign := s.nvs.foreign, worn := s.nvs.worn, due := s.nvs.due } }
  | 7 => { (s.resetRegs 0x100C0000 0x100C1000).resetRegs 0x100C1300 0x100D0000 with net := {}, host := {} }
  | 8 => s.fbsOff
  | 9 => s.keyDomainOff
  | 10 =>
    { ((s.resetRegs 0x10020000 0x10030000).resetRegs 0x10090000 0x100A0000).showMetPresent with
      phs := { netLost := !s.on R.TIM_STAT_SYNC, xtalLost := s.on R.SYS_STAT_CLKSRC }
      ring := { slices := s.ring.slices }
      rtc := { s.rtc with window := s.rtc.window.filter RateWindow.net } }
  | 15 =>
    let s := s.resetRegs 0x100A0000 0x100B0000
    let s := (s.setSlice 4 (s.sliceOf 4).unpowered).setSlice 5 (s.sliceOf 5).unpowered
    { s with met := { feeders := smap {} FeederState.unpowered s.met.feeders } }
  | 11 => (s.cutPulses 0).setSlice 0 (s.sliceOf 0).unpowered
  | 12 => (s.cutPulses 1).setSlice 1 (s.sliceOf 1).unpowered
  | 13 => (s.cutPulses 2).setSlice 2 (s.sliceOf 2).unpowered
  | 14 => (s.cutPulses 3).setSlice 3 (s.sliceOf 3).unpowered
  | _ => s

/-- A domain goes off; line 11 rises as it reaches that state (R425). MAINS is lost without slice E (R38). -/
def State.switchOff (s : State) (d : Nat) : State :=
  if !s.domOn d then s
  else
    let s := if d = 15 then s.loseMains else s
    (((s.domClear d).clrBit R.PWR_DOMSTAT_ON d).clrBit R.PWR_DOMSTAT_READY d).raise 11

/-- A domain is switched on: powered, its registers at reset values, ready later (R425, R426). MEM starts its initialisers. -/
def State.switchOn (s : State) (d : Nat) : State :=
  if s.domOn d then s
  else
    let s := (s.domClear d).setBit R.PWR_DOMSTAT_ON d
    if d = 5 then (List.range 4).foldl State.ringRoom s.memStart else s

/-- The domains that a mask names. -/
def domains (mask : Nat) : List Nat := (List.range 16).filter fun d => bitOf mask d

/-- The domains of a mask go off. -/
def State.switchOffAll (s : State) (mask : Nat) : State := (domains mask).foldl State.switchOff s

/-- The domains of a mask go on. -/
def State.switchOnAll (s : State) (mask : Nat) : State := (domains mask).foldl State.switchOn s

/-- A write of PWR_DOMEN breaks none of R425: no change of bits 0 and 1, not in pit mode, switch-off only where Table 18.1
permits it, and every enabled domain with its needs. -/
def State.domenOk (s : State) (v : Nat) : Bool :=
  let old := s.rd R.PWR_DOMEN_EN
  v % 4 == 3 && !s.on R.PWR_STAT_PIT &&
    (s.mode == 0 || (domains old).all fun d => bitOf v d || [7, 8, 9].contains d) &&
    (domains v).all fun d => (domNeeds d).all fun k => bitOf v k

/-- A write of PWR_DOMEN (R425). -/
def State.writeDomen (s : State) (v : Nat) : State :=
  let v := v % 65536
  if !s.domenOk v then (s.report R.PWR_LASTFAULT_FAULT 0x0204).raise 11
  else ((s.wr R.PWR_DOMEN_EN v).switchOffAll (65535 - v)).switchOnAll v

/-- DOMAIN_SWITCH (R425). -/
def execDomainSwitch (value : Word) (s : State) : Res := .next (s.writeDomen value.toNat)

/-! ### Sleep and pit mode (R435, R437) -/

/-- The domains that are on when the module is awake: AON, SUP and NVS in pit mode, else PWR_DOMEN. -/
def State.awakeMask (s : State) : Nat := if s.on R.PWR_STAT_PIT then 0x43 else s.rd R.PWR_DOMEN_EN

/-- A wake source, a bit of PWR_WAKEEN, ends sleep where it is enabled (R437). -/
def State.wakeUp (s : State) (i : Nat) : State :=
  if s.on R.PWR_STAT_SLEEP && bitOf (s.rd R.PWR_WAKEEN_EN) i then
    (((s.setBit R.PWR_WAKESRC_SRC i).wr R.PWR_STAT_SLEEP 0).raise 12).switchOnAll s.awakeMask
  else s

/-- A write of 1 to PWR_CTRL.SLEEP (R437, Table 20.3). -/
def State.sleepRequest (s : State) : State :=
  let u := s.rd R.UPD_STAT_STATE
  if s.mode ≠ 0 || u = 3 || s.inGap || s.on R.UPD_STAT_FALLPEND then s.report R.PWR_LASTFAULT_FAULT 0x0204
  else
    let m := s.rd R.PWR_SLEEPMASK_MASK
    let m := (domains m).foldl (fun a d => if d = 0 || d = 1 || d = 6 then a else a + 2 ^ d) 0
    let s := s.dropEntry
    (s.wr R.PWR_STAT_SLEEP 1).switchOffAll m

/-- PWR_SLEEP. -/
def execPwrSleep (s : State) : Res := .next s.sleepRequest

/-- Pit mode: AON, SUP and NVS on and every other domain off (R435) (DEDUCED, log entry 38). -/
def State.enterPit (s : State) : State :=
  let s := s.dropEntry
  let s := (s.wr R.PWR_STAT_PIT 1).switchOffAll (65535 - 0x43)
  (s.switchOnAll 0x43).wr R.PWR_DOMEN_EN 0x43

/-- An order for pit mode, taken in STOP only and not during a gap. -/
def State.pitRequest (s : State) : State :=
  if s.mode = 0 && !s.inGap && !s.on R.PWR_STAT_PIT then s.enterPit else s

/-- PWR_PIT. -/
def execPwrPit (s : State) : Res := .next s.pitRequest

/-- NVS_READY_TIMEOUT (R294): the supervisor stays in pit mode. -/
def execNvsReadyTimeout (s : State) : Res :=
  if !s.domOn 6 || s.on R.NVS_STAT_READY then .next s
  else
    let s := (s.report R.NVS_LASTFAULT_FAULT 0x1106).raise 127
    .next ({ s with nvs := { s.nvs with notReady := true } }).pitRequest

/-- ADIT_CONNECTION (R437). -/
def execAditConnection (s : State) : Res := .next (s.wakeUp 2)

/-! ### Supplies (R422, R423) -/

/-- A one-bit status field set to a value; line `n` rises on a change. -/
def State.flag (s : State) (f : Fld) (b : Bool) (n : Nat) : State :=
  if s.on f = b then s else (s.wrB f b).raise n

/-- CELL_MEASURE (R422): the measurement, CELLLOW and CELLABS, line 13 on a change, fault 0x0207 on a set. -/
def execCellMeasure (mV : BitVec 16) (s : State) : Res :=
  let v := mV.toNat
  let low := decide (v < 2500)
  let absent := decide (v < 1000)
  let set := (low && !s.on R.PWR_STAT_CELLLOW) || (absent && !s.on R.PWR_STAT_CELLABS)
  let s := (s.wr R.PWR_CELLV_MV v).wr R.UPD_CELLV_MV v
  let s := (s.flag R.PWR_STAT_CELLLOW low 13).flag R.PWR_STAT_CELLABS absent 13
  .next (if set then s.report R.PWR_LASTFAULT_FAULT 0x0207 else s)

/-- HOLDUP_TEST (R423): HUREADY is 0 during the test; a result below 900 mJ sets HULOW. -/
def execHoldupTest (mJ : BitVec 16) (s : State) : Res :=
  let low := decide (mJ.toNat < 900)
  let s := (s.wr R.PWR_HUJ_MJ mJ.toNat).flag R.PWR_STAT_HUREADY false 14
  .next (if low then ((s.wr R.PWR_STAT_HULOW 1).report R.PWR_LASTFAULT_FAULT 0x0206).raise 14
    else s.flag R.PWR_STAT_HULOW false 14)

/-- HOLDUP_CHARGED (R423). -/
def execHoldupCharged (s : State) : Res := .next (s.flag R.PWR_STAT_HUREADY true 14)

/-! ### The power-fail sequence (R427 to R433) -/

/-- STATE of UPD set, and the update record written, unless a warning suspends it (R429); each change raises line 120 (Table 17.4,
R420). -/
def State.updState (s : State) (v : Nat) : State :=
  if s.rd R.UPD_STAT_STATE = v then s
  else
    let s := (s.wr R.UPD_STAT_STATE v).raise 120
    if s.on R.NVS_STAT_PFWORDER then s else s.claimBlocks 0xAD04 2

/-- UPD reports a refusal (line 121) with its fault. -/
def State.updRefuse (s : State) (fault : Nat) : State := (s.report R.UPD_LASTFAULT_FAULT fault).raise 121

/-! ### The end of a gap (R408, R410, R419, R464) -/

/-- The payload of record 0x00A (R419). -/
def State.gapPayload (s : State) (g : Gap) : List (BitVec 8) :=
  toLE 1 (b2n g.fallback) ++ toLE 1 g.cause ++ toLE 4 g.oldVer ++ toLE 4 g.newVer ++ toLE 4 (s.rd R.UPD_GAPLAST_US) ++
    toLE 1 (b2n (s.on R.UPD_STAT_UNSYNCACT) + 2 * b2n (s.on R.UPD_CFG_GAPSAFE) + 4 * b2n (s.on R.UPD_CFG_SETMODE)) ++ zeros 1

/-- The gap is over: line 122 and GAPLAST. -/
def State.leaveGap (s : State) (g : Gap) : State :=
  ({ s with upd := { s.upd with gap := none, ended := none, heldOff := false } }.raise 122).wr R.UPD_GAPLAST_US
    ((s.clk - g.start) / 400)

/-- The gap is over (step 9 of Table 17.3): TRIAL begins, or IDLE after a fallback or a failed migration; line 122, GAPLAST and
record 0x00A. An aborted gap leaves STATE as the abort has set it, and no record (R464) (DESIGN CHOICE, log entry 45). -/
def State.gapFinish (s : State) (g : Gap) : State :=
  if g.aborted then s.leaveGap g
  else
    let trial := !g.fallback && g.cause == 0
    let s := (s.leaveGap g).updState (if trial then 5 else 0)
    let s := s.wr R.UPD_STAT_FALLPEND 0
    let s := s.wr R.UPD_CONFLEFT_SEC (if trial then s.trialWindow else 0)
    s.tallyEvent 0x00A (s.gapPayload g)

/-- The gap ends in STOP; a RUN request that waited for it is taken (R416). -/
def State.gapStop (s : State) (g : Gap) : State :=
  let s := s.gapFinish g
  match s.tsk.entry with
  | .waitGap cold => s.runProceed cold
  | _ => s

/-- The controller's part of a gap whose firmware and slices are done (R408 to R410): a gap from RUN goes on with RUN-warm, once a save
has ended (R462) and NVS is ready (R294); a failed check, a STOP request or a stop fault ends it in STOP. An aborted gap ends after
the warning's save and the warning itself (R464, Table 20.5). -/
def State.gapGo (s : State) : State :=
  match s.upd.gap with
  | none => s
  | some g =>
    let run := g.fromRun && !g.toStop && !s.on R.TSK_STAT_FLT
    if !g.closed || s.upd.ended.isSome || (g.aborted && (s.pwr.pfhold || s.tsk.save.isSome)) ||
        (run && (s.tsk.save.isSome || s.nvsComing)) then s
    else if !run then s.gapStop g
    else
      match s.runUnfit with
      | some f => (s.refuseRun f).gapStop g
      | none =>
        let s := s.enterChecks false
        if s.tsk.entry = .restarting then { s with upd := { s.upd with ended := some g } } else s.gapStop g

/-- A gap before whose step 3 a warning comes is aborted (R464): STATE returns to STAGED, a fallback's to TRIAL, the switch frame is
cancelled, and the gap goes on with the old firmware to the end that R408 gives its starting mode. -/
def State.abortGap (s : State) : State :=
  match s.upd.gap with
  | some g =>
    if g.marked || g.aborted then s
    else
      let s := { s with upd := { s.upd with gap := some { g with aborted := true, closed := true } } }
      (s.updState (if g.fallback then 5 else 2)).updRefuse 0x1005
  | none => s

/-- A power-down stop ends an aborted gap in STOP (R464). -/
def State.endAborted (s : State) : State :=
  match s.upd.gap with
  | some g => if g.aborted then s.dropEntry.gapFinish g else s
  | none => s

/-- The slices are told of a power failure: a metering slice that is reached writes its accumulators to its own memory (R265). -/
def State.warnMeters (s : State) : State :=
  [0, 1].foldl (fun s f => if s.present (4 + f) && !s.on R.SLR_RING_BROKEN then s.saveAcc f else s) s

/-- NVS takes the order of R429, and the update record in flash stays as it is. -/
def State.holdFlash (s : State) : State :=
  if s.domOn 6 && !s.on R.NVS_STAT_PFWORDER then
    { s with upd := { s.upd with record := s.updRecord, recordMark := s.bootMark } }.wr R.NVS_STAT_PFWORDER 1
  else s

/-- NVS leaves the order of R429, and what waited is written. -/
def State.freeFlash (s : State) : State :=
  if s.on R.NVS_STAT_PFWORDER then ((s.wr R.NVS_STAT_PFWORDER 0).claimBlocks 0xAD04 2).nvsDrain else s

/-- What a warning starts (R265, R428, R429): NVS's order and the PFHOLD timer, the save of the accumulators in the metering slices, the
retain save and the tally seal. In pit mode and in sleep, with MEM off, nothing is saved or sealed (DEDUCED, log entry 38). -/
def State.startWarning (s : State) : State :=
  let s := { s.holdFlash with pwr := { s.pwr with pfhold := true, tripClk := s.clk, tripTime := s.tstampNow } }
  if s.on R.PWR_STAT_PIT || s.on R.PWR_STAT_SLEEP then s
  else
    let s := s.warnMeters.startSave 1
    let s := if s.on R.TLY_STAT_FULL then s else s.sealEpoch true
    s.abortGap

/-- PFW_TRIP (R427, R428): a new trip after a clear starts the sequence afresh, in a power-down stop too. On a reset path the sequence
runs already. -/
def execPfwTrip (s : State) : Res :=
  if s.on R.PWR_STAT_PFW then .next s
  else
    let s := ((s.wr R.PWR_STAT_PFW 1).raise 8).report R.PWR_LASTFAULT_FAULT 0x0201
    let s := s.flag R.PWR_STAT_HUREADY false 14
    .next (if s.pwr.pfhold || s.pwr.path ≠ 0 then s else s.startWarning)

/-- A ride-through (R432). -/
def State.rideThrough (s : State) : State :=
  let d := min 65535 ((s.clk - s.pwr.tripClk) / 40000)
  let s := { s with pwr := { s.pwr with pfhold := false } }
  let s := (s.incSat R.PWR_RIDE_COUNT).wr R.PWR_RIDE_LAST d
  let s := ((s.report R.PWR_LASTFAULT_FAULT 0x0203).raise 10).freeFlash
  let snap := match s.tsk.save with
    | some _ => s.nextSnapSeq
    | none => s.rd R.TSK_SNAPSEQ_SEQ
  s.tallyEvent 0x006 (toLE 8 s.pwr.tripTime ++ toLE 4 d ++ toLE 4 snap)

/-- PFW clears (R427, R431 to R433). -/
def State.pfwClear (s : State) : State :=
  if !s.on R.PWR_STAT_PFW then s
  else
    let s := (s.wr R.PWR_STAT_PFW 0).raise 8
    if s.on R.PWR_STAT_PDSTOP then
      { s with pwr := { s.pwr with returned := true, pfhold := false } }.freeFlash
    else if s.pwr.path ≠ 0 then s else s.rideThrough

/-- A power-down stop begins (R430). -/
def State.powerDown (s : State) : State :=
  let s := (s.controllerStop 6 0x0202 0x3F 0xF).report R.PWR_LASTFAULT_FAULT 0x0202
  let s := (s.endAborted.wr R.PWR_STAT_PDSTOP 1).raise 9
  let s := s.switchOffAll 0x821C
  { s with pwr := { s.pwr with pfhold := false, shed := true, returned := false } }

/-- PFHOLD_EXPIRY (R430, R433). -/
def execPfholdExpiry (s : State) : Res :=
  if s.pwr.pfhold && !s.on R.PWR_STAT_PDSTOP then .next s.powerDown else .next s

/-- HOLDUP_RAIL_LOW (R430). -/
def execHoldupRailLow (s : State) : Res :=
  if s.on R.PWR_STAT_PFW && !s.on R.PWR_STAT_PDSTOP then .next s.powerDown else .next s

/-- POWER_DOWN_SHED (R430). -/
def execPowerDownShed (s : State) : Res :=
  if s.pwr.shed then
    .next { s.switchOffAll 0x0180 with pwr := { (s.switchOffAll 0x0180).pwr with shed := false } }
  else .next s

/-- The reset path of R433 begins. -/
def State.resetPath (s : State) (cause : Nat) : State :=
  if s.pwr.path ≠ 0 then s
  else
    let s := { s with pwr := { s.pwr with path := cause } }
    if s.pwr.pfhold || s.on R.PWR_STAT_PDSTOP then s else s.startWarning

/-- RESET_INPUT (R433). -/
def execResetInput (s : State) : Res := .next (s.resetPath 2)

/-- PWR_RESET (R433). -/
def execPwrReset (s : State) : Res := .next (s.resetPath 3)

/-! ### Resets by the logic supply (R431, R463) -/

/-- A reset by the logic supply: every register at its reset value but those of AON, every volatile store empty. What flash, OTP,
the calendar and the slices' own memories hold stays. The calendar's present second is noted in the update record. -/
def State.logicReset (s : State) (cause : Nat) (now : Int) : State :=
  let aon := s.regWindow 0x1001003C 0x1001003D ++ s.regWindow 0x100F0000 0x10100000
  let stuck := smap ({} : CwErr) (fun e => { stuck := e.stuck }) s.memx.ecc
  let kept := { s with regs := s.updRecord }.rd R.UPD_STAT_STATE = 2
  let late := if s.on R.NVS_STAT_PFWORDER then (s.clk - s.pwr.tripClk) / 400000000 else 0
  { regs := aon, flash := s.flash, rtc := { s.rtc with window := none }, free := s.free, pending := s.pending
    memx := { ecc := stuck }
    nvs := { activeSlot := s.nvs.activeSlot, marked := s.nvs.marked, unreadable := s.nvs.unreadable, foreign := s.nvs.foreign, worn := s.nvs.worn
             cut := match s.tsk.save with
               | some (slot, _) => if s.snapComplete slot then s.nvs.cut else some slot
               | none => s.nvs.cut }
    key := { root := s.key.root, fuses := s.key.fuses, draws := s.key.draws }
    tly := { next := s.tly.next, old := s.tly.old, used := s.tly.used, erases := s.tly.erases, place := s.tly.place
             index := s.tly.index }
    ring := { slices := smap {} SliceState.unpowered s.ring.slices }
    met := { feeders := smap {} FeederState.unpowered s.met.feeders }
    upd := { s.upd with gap := none, fallDue := none, ended := none, images := if kept then s.upd.images else []
                        whole := if kept then s.upd.whole else [], twice := false, heldOff := false, slotBack := 0
                        record := s.updRecord, stopped := now - late }
    pwr := { held := true, cause := cause } }

/-- PWR_RSTCAUSE of a reset now: 1, or the cause of the reset path (R431, R433). -/
def State.resetCause (s : State) : Nat := if s.pwr.path = 0 then 1 else s.pwr.path

end Sys2Proof.Machine
end

