-- ==== Sys2Proof/Machine/Net.lean ====
section
/-! DEFINITION. NET: the riser switch, the frame MAC with its rings and stamps, pause, counters and wake patterns
(R297 to R315). -/

namespace Sys2Proof.Machine

/-! ### Frames -/

/-- Byte `i` of a frame. -/
def byteAt (f : List (BitVec 8)) (i : Nat) : Nat := (f.getD i 0).toNat

/-- The 16-bit field of a frame at byte `i`, in network order. -/
def fieldAt (f : List (BitVec 8)) (i : Nat) : Nat := byteAt f i * 256 + byteAt f (i + 1)

/-- The frame carries a VLAN tag. -/
def tagged (f : List (BitVec 8)) : Bool := fieldAt f 12 == 0x8100

/-- Where the Ethertype behind the tag stands. -/
def typeOfs (f : List (BitVec 8)) : Nat := if tagged f then 16 else 12

/-- The length that a frame may have, FCS included (R304, R307). -/
def maxFrame (f : List (BitVec 8)) : Nat := if tagged f then 9022 else 9018

/-- The destination and the source address, first octet in bits [7:0]. -/
def dstAddr (f : List (BitVec 8)) : Nat := leNat (f.take 6)

/-- The source address. -/
def srcAddr (f : List (BitVec 8)) : Nat := leNat ((f.drop 6).take 6)

/-- A group address: the first bit on the wire is 1. -/
def groupAddr (a : Nat) : Bool := a % 2 == 1

/-- A frame with its FCS (IEEE 802.3: the CRC-32, lowest byte first). -/
def withFcs (body : List (BitVec 8)) : List (BitVec 8) := body ++ toLE 4 (crc32 body)

/-- A frame ended with the complement of its FCS (R300, R310). -/
def withBadFcs (body : List (BitVec 8)) : List (BitVec 8) := body ++ toLE 4 (crc32 body ^^^ 0xFFFFFFFF)

/-- A frame without its last four bytes. -/
def bodyOf (f : List (BitVec 8)) : List (BitVec 8) := f.take (f.length - 4)

/-- The FCS of a frame is right. -/
def fcsGood (f : List (BitVec 8)) : Bool := decide (4 ≤ f.length) && withFcs (bodyOf f) == f

/-- A frame with no error of R307. -/
def frameGood (f : List (BitVec 8)) (align symbol : Bool) : Bool :=
  fcsGood f && decide (64 ≤ f.length) && decide (f.length ≤ maxFrame f) && !align && !symbol

/-- A pause frame (R308). -/
def isPause (f : List (BitVec 8)) : Bool :=
  dstAddr f == 0x010000C28001 && fieldAt f 12 == 0x8808 && fieldAt f 14 == 0x0001

/-- Where the UDP header stands in an IPv4 frame without fragment offset, if it has one. -/
def udp4 (f : List (BitVec 8)) : Option Nat :=
  let ip := typeOfs f + 2
  if fieldAt f (typeOfs f) = 0x0800 && byteAt f ip / 16 == 4 && byteAt f (ip + 9) == 17 && fieldAt f (ip + 6) % 8192 == 0
  then some (ip + 4 * (byteAt f ip % 16)) else none

/-- Where the UDP header stands in an IPv6 frame without extension headers, if it has one. -/
def udp6 (f : List (BitVec 8)) : Option Nat :=
  let ip := typeOfs f + 2
  if fieldAt f (typeOfs f) = 0x86DD && byteAt f ip / 16 == 6 && byteAt f (ip + 6) == 17 then some (ip + 40) else none

/-- A message of the kinds that the transparent clock acts on, at byte `m`: PTP version 2, Sync, Delay_Req, Pdelay_Req or
Pdelay_Resp (R301). -/
def ptpEventAt (f : List (BitVec 8)) (m : Nat) : Bool :=
  decide (byteAt f m % 16 ≤ 3) && byteAt f (m + 1) % 16 == 2 && decide (m + 34 ≤ f.length)

/-- The PTP event message that a frame carries in a form of R301: where it stands, and where the UDP checksum is. -/
def ptpEvent (f : List (BitVec 8)) : Option (Nat × Option Nat) :=
  if fieldAt f (typeOfs f) = 0x88F7 then
    if ptpEventAt f (typeOfs f + 2) then some (typeOfs f + 2, none) else none
  else
    match udp4 f with
    | some u => if fieldAt f (u + 2) = 319 && ptpEventAt f (u + 8) then some (u + 8, some (u + 6)) else none
    | none => none

/-- A PTP message, event or general (R305). -/
def isPtp (f : List (BitVec 8)) : Bool :=
  let port := fun (u : Option Nat) => match u with
    | some u => fieldAt f (u + 2) == 319 || fieldAt f (u + 2) == 320
    | none => false
  fieldAt f (typeOfs f) == 0x88F7 || port (udp4 f) || port (udp6 f)

/-- Bytes of a frame replaced from byte `i`. -/
def patch (f : List (BitVec 8)) (i : Nat) (bs : List (BitVec 8)) : List (BitVec 8) :=
  f.take i ++ bs ++ f.drop (i + bs.length)

/-- The residence time, in units of 2^-16 ns, added to correctionField, the UDP checksum set to 0, the FCS recomputed (R301). -/
def ptpCorrect (f : List (BitVec 8)) (m : Nat) (sum : Option Nat) (residence : Nat) : List (BitVec 8) :=
  let cf := beNat ((f.drop (m + 8)).take 8)
  let b := patch (bodyOf f) (m + 8) (toBE 8 (cf + residence))
  withFcs (match sum with
    | some u => patch b u (zeros 2)
    | none => b)

/-! ### Counters and faults (R313, R314, R321) -/

/-- Counter `n` of a set counts `k`; bit 31 rising sets its half-range bit and raises line 87. -/
def State.netCount (s : State) (set n : Nat) (k : Nat := 1) : State :=
  let f := R.NET_CNT_COUNT set n
  let old := s.rd f
  let s := s.inc f k
  let m := 40 * set + n
  if old < 2 ^ 31 && decide (2 ^ 31 ≤ s.rd f) then
    (if m < 64 then s.setBit R.NET_CNTHALF_LO_HALF m else s.setBit R.NET_CNTHALF_HI_HALF (m - 64)).raise 87
  else s

/-- The band of a length: 0 to 6 (Table 12.3). -/
def sizeBand (n : Nat) : Option Nat :=
  if n < 64 then none
  else if n = 64 then some 0
  else if n ≤ 127 then some 1
  else if n ≤ 255 then some 2
  else if n ≤ 511 then some 3
  else if n ≤ 1023 then some 4
  else if n ≤ 1518 then some 5
  else if n ≤ 9022 then some 6
  else none

/-- The unicast, multicast or broadcast counter of an address, counted from the first of the three. -/
def castOf (a : Nat) : Nat := if a = 0xFFFFFFFFFFFF then 2 else if groupAddr a then 1 else 0

/-- A good frame counted in a set: received at index 0, transmitted at index 20. -/
def State.countFrame (s : State) (set base : Nat) (f : List (BitVec 8)) : State :=
  let s := ((s.netCount set base f.length).netCount set (base + 1)).netCount set (base + 2 + castOf (dstAddr f))
  match sizeBand f.length with
  | some b => s.netCount set (base + 6 + b)
  | none => s

/-- A received frame counted in a set: each of its errors, or as good (R300, R307). -/
def State.countRx (s : State) (set : Nat) (f : List (BitVec 8)) (align symbol : Bool) : State :=
  if frameGood f align symbol then s.countFrame set 0 f
  else
    let s := if fcsGood f then s else s.netCount set 13
    let s := if f.length < 64 then s.netCount set 14 else s
    let s := if align then s.netCount set 15 else s
    let s := if maxFrame f < f.length then s.netCount set 16 else s
    if symbol then s.netCount set 17 else s

/-- A fault reported at most once per second (R306, R310, R312). -/
def State.netFault (s : State) (code : Nat) : State :=
  let t := sget 0 s.net.reported code
  if t = 0 || decide (t + 400000000 ≤ s.clk + 1) then
    { s.report R.NET_LASTFAULT_FAULT code with net := { s.net with reported := sput 0 s.net.reported code (s.clk + 1) } }
  else s

/-! ### Ports and egress (R297, R299) -/

/-- LINK of port A or B. -/
def State.linkFld (p : Nat) : Fld := if p = 0 then R.NET_STAT_LINKA else R.NET_STAT_LINKB

/-- HOLD of port A or B. -/
def State.holdFld (p : Nat) : Fld := if p = 0 then R.NET_STAT_HOLDA else R.NET_STAT_HOLDB

/-- The speed of port A or B. -/
def State.portSpeed (s : State) (p : Nat) : Nat := s.rd (if p = 0 then R.NET_STAT_SPEEDA else R.NET_STAT_SPEEDB)

/-- Port A or B carries frames. -/
def State.portUp (s : State) (p : Nat) : Bool :=
  s.domOn 7 && s.on (R.NET_PORTCFG_EN p) && s.on (State.linkFld p)

/-- A frame leaves port A or B; queue 4 is that of pause frames (R309). -/
def State.transmit (s : State) (e : Egress) : State :=
  let s := s.countFrame e.port 20 e.bytes
  let s := if e.queue = 4 then s.netCount e.port 25 else s
  { s with net := { s.net with sent := s.net.sent ++ [e] } }

/-- A frame in the egress buffer of a port: it leaves, or waits for the end of a hold-off, or finds no room (R299, R308). -/
def State.egress (s : State) (e : Egress) (full : Bool) : State :=
  if !s.portUp e.port then s
  else
    let used := ((s.net.held.filter fun h => h.port == e.port).map fun h => h.bytes.length).sum
    if full || decide (65536 < used + e.bytes.length) then s.netCount e.port 34
    else if s.on (State.holdFld e.port) then { s with net := { s.net with held := s.net.held ++ [e] } }
    else s.transmit e

/-- A hold-off ends: what waited leaves by priority (R299, R308). -/
def State.holdEnd (s : State) (p : Nat) : State :=
  if !s.on (State.holdFld p) then s
  else
    let s := s.wr (State.holdFld p) 0
    let mine := s.net.held.filter fun e => e.port == p
    let s := { s with net := { s.net with held := s.net.held.filter fun e => e.port != p } }
    ([4, 3, 2, 1, 0].flatMap fun q => mine.filter fun e => e.queue == q).foldl State.transmit s

/-- The switch's commands begin: no frame has left yet. -/
def State.netBegin (s : State) : State := { s with net := { s.net with sent := [] } }

/-! ### Learning (R298) -/

/-- A source address arrives at a port with a good FCS. -/
def State.learn (s : State) (a p : Nat) : State :=
  if s.net.table.any fun e => e.addr == a then
    { s with net := { s.net with table := s.net.table.map fun e => if e.addr = a then ⟨a, p, s.clk⟩ else e } }
  else if s.net.table.length < 1024 then
    { s with net := { s.net with table := s.net.table ++ [⟨a, p, s.clk⟩] } }
  else if s.on R.NET_STAT_TBLFULL then s
  else ((s.wr R.NET_STAT_TBLFULL 1).report R.NET_LASTFAULT_FAULT 0x0A04).raise 94

/-- The ports that a frame for address `a` from port `p` goes to. -/
def State.targets (s : State) (a p : Nat) : List Nat :=
  let l := if groupAddr a then none else s.net.table.find? fun e => e.addr == a
  match l with
  | some e => if e.port = p then [] else [e.port]
  | none => [0, 1, 2].filter (· != p)

/-- An entry has not been refreshed for NET_SWAGE seconds; 0 acts as 1. -/
def State.aged (s : State) (e : LearnedAddr) : Bool := decide (e.seen + max 1 (s.rd R.NET_SWAGE_SEC) * 400000000 ≤ s.clk)

/-- ADDRESS_AGE_OUT (R298). -/
def execAddressAgeOut (addr : BitVec 48) (s : State) : Res :=
  if s.domOn 7 && s.net.table.any fun e => e.addr == addr.toNat && s.aged e then
    let s := { s with net := { s.net with table := s.net.table.filter fun e => e.addr != addr.toNat } }
    .next (s.wr R.NET_STAT_TBLFULL 0)
  else .next s

/-! ### Stamps (R311) -/

/-- Network time `age` ns ago, with `lat` in 1/256 ns added: seconds and nanoseconds. A time before 0 has no stamp that the spec
states. -/
def State.netStamp (s : State) (age : Nat) (lat : Int) : State × Nat × Nat :=
  let now := s.rd R.TIM_SEC_SEC * 1000000000 + s.tim.ns
  let t := (((now : Int) - age) * 256 + lat) / 256
  if t < 0 then (s.useFree, s.freeVal / 1000000000 % 2 ^ 48, s.freeVal % 1000000000)
  else (s, t.toNat / 1000000000 % 2 ^ 48, t.toNat % 1000000000)

/-- The transmit latency at a link speed, in 1/256 ns. -/
def State.latTx (s : State) (speed : Nat) : Nat :=
  match speed with
  | 0 => s.rd R.NET_TSLAT_TX0_NS * 256 + s.rd R.NET_TSLAT_TX0_FRAC
  | 1 => s.rd R.NET_TSLAT_TX1_NS * 256 + s.rd R.NET_TSLAT_TX1_FRAC
  | _ => s.rd R.NET_TSLAT_TX2_NS * 256 + s.rd R.NET_TSLAT_TX2_FRAC

/-- The receive latency at a link speed, in 1/256 ns. -/
def State.latRx (s : State) (speed : Nat) : Nat :=
  match speed with
  | 0 => s.rd R.NET_TSLAT_RX0_NS * 256 + s.rd R.NET_TSLAT_RX0_FRAC
  | 1 => s.rd R.NET_TSLAT_RX1_NS * 256 + s.rd R.NET_TSLAT_RX1_FRAC
  | _ => s.rd R.NET_TSLAT_RX2_NS * 256 + s.rd R.NET_TSLAT_RX2_FRAC

/-! ### Pause (R308, R309) -/

/-- A pause frame acts on the egress of its port. -/
def State.pauseAct (s : State) (p q : Nat) : State :=
  let s := s.netCount p 5
  if !s.on (R.NET_PORTCFG_RXPAUSE p) then s
  else if q = 0 then s.holdEnd p
  else if s.on (State.holdFld p) then s
  else (s.wr (State.holdFld p) 1).netCount p 35

/-- A pause frame of 64 bytes with its FCS, from this module (R309). -/
def pauseFrame (quanta : Nat) : List (BitVec 8) :=
  withFcs (toLE 6 0x010000C28001 ++ toLE 6 Config.macAddr ++ toBE 2 0x8808 ++ toBE 2 0x0001 ++ toBE 2 quanta ++ zeros 42)

/-- PAUSE_FRAME_RECEIVED: a good pause frame of 64 bytes arrives; its source address, which no operand gives, is a free value (R298,
R308) (DESIGN CHOICE, log entry 1). -/
def execPauseFrameReceived (port : Fin 2) (quanta : BitVec 16) (s : State) : Res :=
  let s := s.netBegin
  if !s.portUp port.val then .next s
  else
    let s := s.useFree.learn (s.freeVal % 2 ^ 48) port.val
    .next ((s.countFrame port.val 0 (pauseFrame quanta.toNat)).pauseAct port.val quanta.toNat)

/-- PAUSE_HOLDOFF_END. -/
def execPauseHoldoffEnd (port : Fin 2) (s : State) : Res := .next (s.netBegin.holdEnd port.val)

/-- A pause frame leaves each port with TXPAUSE = 1 at its next frame boundary, ahead of every queue and of what a hold-off keeps. -/
def State.sendPause (s : State) (quanta : Nat) : State :=
  ([0, 1].filter fun p => s.on (R.NET_PORTCFG_TXPAUSE p) && s.portUp p).foldl
    (fun s p => s.transmit ⟨p, 4, pauseFrame quanta⟩) s

/-- The bytes in the receive FIFO. -/
def State.fifoLevel (s : State) : Nat := (s.net.fifo.map fun g => g.bytes.length).sum

/-- The FIFO stands above a level in KiB. -/
def State.fifoAbove (s : State) (kib : Nat) : Bool := decide (1024 * kib < s.fifoLevel)

/-- PAUSE_XOFF: the receive FIFO rises past XOFF. -/
def execPauseXoff (s : State) : Res :=
  let s := s.netBegin
  if !s.fifoAbove (s.rd R.NET_PAUSECFG_XOFF) || s.on R.NET_STAT_XOFF ||
      !([0, 1].any fun p => s.on (R.NET_PORTCFG_TXPAUSE p) && s.portUp p) then .next s
  else .next ((s.wr R.NET_STAT_XOFF 1).sendPause (s.rd R.NET_PAUSECFG_QUANTA))

/-- PAUSE_REPEAT: the FIFO has stayed above XON. -/
def execPauseRepeat (s : State) : Res :=
  let s := s.netBegin
  if !s.on R.NET_STAT_XOFF || !s.fifoAbove (s.rd R.NET_PAUSECFG_XON) then .next s
  else .next (s.sendPause (s.rd R.NET_PAUSECFG_QUANTA))

/-- PAUSE_XON: the FIFO falls to XON. -/
def execPauseXon (s : State) : Res :=
  let s := s.netBegin
  if !s.on R.NET_STAT_XOFF || s.fifoAbove (s.rd R.NET_PAUSECFG_XON) then .next s
  else .next ((s.sendPause 0).wr R.NET_STAT_XOFF 0)

/-! ### Links (R297) -/

/-- The link of a port comes up at a speed, or is lost: fault 0x0A06, and what its egress buffer holds is lost with it. -/
def State.setLink (s : State) (p : Nat) (up : Bool) (speed : Nat) : State :=
  if up then
    if !s.on (R.NET_PORTCFG_EN p) || !bitOf (s.rd (R.NET_PORTCFG_ADV p)) speed ||
        (s.on (State.linkFld p) && s.portSpeed p == speed) then s
    else
      ((s.wr (State.linkFld p) 1).wr (if p = 0 then R.NET_STAT_SPEEDA else R.NET_STAT_SPEEDB) speed).raise (89 + p)
  else if !s.on (State.linkFld p) then s
  else
    let s := { s with net := { s.net with held := s.net.held.filter fun e => e.port != p } }
    (((s.wr (State.linkFld p) 0).wr (State.holdFld p) 0).report R.NET_LASTFAULT_FAULT 0x0A06).raise (89 + p)

/-- LINK_CHANGE. -/
def execLinkChange (port : Fin 2) (up : Bool) (speed : Fin 3) (s : State) : Res :=
  let s := s.netBegin
  if !s.domOn 7 then .next s else .next (s.setLink port.val up speed.val)

/-! ### Forwarding (R298 to R301) -/

/-- The VLAN filter lets a frame through to port I (R299). -/
def State.vlanOk (s : State) (f : List (BitVec 8)) : Bool :=
  !tagged f || (List.range 16).any fun n =>
    s.on (R.NET_VLANF_EN n) && s.rd (R.NET_VLANF_VID n) == fieldAt f 14 % 4096

/-- The queue of a frame from port A or B (R299). -/
def State.queueOf (s : State) (f : List (BitVec 8)) : Nat :=
  if (ptpEvent f).isSome then 3
  else if tagged f then fieldAt f 14 / 16384
  else s.rd R.NET_SWCFG_DEFQ

/-- A frame comes to port I: the VLAN filter, then the receive FIFO of 32 KiB (R299, R305). -/
def State.toMac (s : State) (f : RxFrame) : State :=
  if !s.vlanOk f.bytes then s.netCount 2 19
  else
    if 32768 < s.fifoLevel + f.bytes.length then
      if frameGood f.bytes f.align f.symbol then s.netCount 2 18 else s
    else { s with net := { s.net with fifo := s.net.fifo ++ [f] } }

/-- A frame on its way from port A or B out of the other: the transparent clock corrects an event message (R301) (DEDUCED, log
entry 40). A bad frame, which cut-through has begun to send, ends with the complement of its FCS (R300). -/
def State.cross (s : State) (f : List (BitVec 8)) (good : Bool) (dst residence : Nat) (full : Bool) : State :=
  let ended := fun (g : List (BitVec 8)) => if good then g else withBadFcs (bodyOf g)
  match (if s.on R.NET_SWCFG_TC then ptpEvent f else none) with
  | some (m, sum) =>
    let up := s.portUp dst
    let n := s.rd (R.NET_CNT_COUNT dst 34)
    let s := s.egress ⟨dst, 3, ended (ptpCorrect f m sum residence)⟩ full
    if up && s.rd (R.NET_CNT_COUNT dst 34) == n then s.netCount dst 36 else s
  | none => s.egress ⟨dst, s.queueOf f, ended f⟩ full

/-- A frame that arrived at port A or B goes to its ports; a bad frame only where cut-through has begun to send it, ended with
the complement of its FCS (R300). -/
def State.forward (s : State) (p : Nat) (f : RxFrame) (residence full : Nat) : State :=
  let good := frameGood f.bytes f.align f.symbol
  let cut := s.on R.NET_SWCFG_CUT && decide (64 ≤ f.bytes.length)
  (s.targets (dstAddr f.bytes) p).foldl (fun s t =>
    if t = 2 then
      if good then s.toMac f
      else if cut then s.toMac { f with bytes := withBadFcs (bodyOf f.bytes) } else s
    else if good || (cut && s.portSpeed p == s.portSpeed t) then s.cross f.bytes good t residence (bitOf full t)
    else s) s

/-- SWITCH_FORWARD. -/
def execSwitchForward (port : Fin 2) (frame : List Byte) (align symbol : Bool) (age : Word) (residence : BitVec 48)
    (full : BitVec 2) (s : State) : Res :=
  let s := s.netBegin
  let p := port.val
  if !s.portUp p then .next s
  else
    let s := s.countRx p frame align symbol
    let good := frameGood frame align symbol
    let s := if fcsGood frame then s.learn (srcAddr frame) p else s
    if good && isPause frame then .next (s.pauseAct p (fieldAt frame 16))
    else
      let r := s.netStamp age.toNat (-(s.latRx (s.portSpeed p) : Int))
      .next (r.1.forward p ⟨frame, p, align, symbol, r.2.1, r.2.2⟩ residence.toNat full.toNat)

/-! ### Descriptor rings (R303) -/

/-- A descriptor (Table 12.1), and where it stands. -/
structure NetDesc where
  addr : Nat
  buf : Nat
  len : Nat
  ctl : Nat
  deriving DecidableEq, Repr

/-- A ring takes frames: enabled, and not stopped. Rings 0 to 3 transmit, 4 and 5 receive (DEDUCED, log entry 41). -/
def State.ringLive (s : State) (r : Nat) : Bool := s.on (R.NET_RING_CTL_EN r) && !s.on (R.NET_RING_STAT_ERR r)

/-- The number of descriptors of a ring. -/
def State.descCount (s : State) (r : Nat) : Nat := max 8 (min 4096 (s.rd (R.NET_RING_SIZE_SIZE r)))

/-- The address of descriptor `i` of a ring. -/
def State.descAddr (s : State) (r i : Nat) : Nat := s.rd (R.NET_RING_BASE_BASE r) / 32 * 32 + 32 * (i % s.descCount r)

/-- A range lies in the DRAM supervisor region. -/
def inSup (a n : Nat) : Bool := decide (0x100000000 ≤ a) && decide (a + n ≤ 0x180000000)

/-- The ring lies in the DRAM supervisor region. -/
def State.ringOk (s : State) (r : Nat) : Bool := inSup (s.descAddr r 0) (32 * s.descCount r)

/-- A ring stops: ERR, fault 0x0A05, line 91. -/
def State.ringStop (s : State) (r : Nat) : State :=
  ((s.wr (R.NET_RING_STAT_ERR r) 1).report R.NET_LASTFAULT_FAULT 0x0A05).raise 91

/-- An access of the MAC is below the front (R281). -/
def State.below (s : State) (a n : Nat) : Bool := decide (a + n ≤ s.rd R.MEM_FRONT_ADDR)

/-- Descriptor `i` of a ring read; none where poison is met (R279). -/
def State.readDesc (s : State) (r i : Nat) : State × Option NetDesc :=
  let a := s.descAddr r i
  match s.dmaRead 7 a 32 with
  | (s, some bs) => (s, some ⟨a, leNat (bs.take 5), leNat ((bs.drop 8).take 2) % 16384, leNat ((bs.drop 10).take 2)⟩)
  | (s, none) => (s, none)

/-- A descriptor written back, all its 32 bytes (R303). -/
def State.writeDesc (s : State) (d : NetDesc) (len ctl stat sec ns frlen : Nat) : State :=
  s.masterWrite 7 d.addr (toLE 8 d.buf ++ toLE 2 len ++ toLE 2 ctl ++ toLE 4 stat ++ toLE 6 sec ++ toLE 4 ns ++ toLE 2 frlen ++
    zeros 4)

/-- RING_ENABLE (R303). -/
def State.enableRing (s : State) (r : Nat) : State :=
  ((s.wr (R.NET_RING_CTL_EN r) 1).wr (R.NET_RING_HEAD_HEAD r) 0).wr (R.NET_RING_STAT_ERR r) 0

/-- RING_ENABLE: a write of EN = 1. -/
def execRingEnable (ring : Fin 6) (s : State) : Res :=
  if !s.domOn 7 then .next s else .next (s.enableRing ring.val)

/-! ### Wake patterns (R315) -/

/-- The bytes of a frame that MASK selects, in ascending order. -/
def wakeBytes (mask : Nat) (f : List (BitVec 8)) : List (BitVec 8) :=
  ((List.range 128).filter fun i => bitOf mask i).map fun i => f.getD i 0

/-- Pattern `n` matches a frame. -/
def State.wakeMatch (s : State) (n : Nat) (f : List (BitVec 8)) : Bool :=
  let mask := s.rd (R.NET_WAKE_LO_MASKLO n) + s.rd (R.NET_WAKE_HI_MASKHI n) * 2 ^ 64
  s.on (R.NET_WAKE_CRC_EN n) && mask != 0 && decide (mask < 2 ^ f.length) &&
    crc16 (wakeBytes mask f) == s.rd (R.NET_WAKE_CRC_CRC n)

/-- The patterns that match a frame. -/
def State.wakeHits (s : State) (f : List (BitVec 8)) : List Nat := (List.range 8).filter fun n => s.wakeMatch n f

/-- What the matches of a frame do: WAKESTAT, the counter, line 88 and the wake source. -/
def State.wakeAct (s : State) (hits : List Nat) : State :=
  let s : State := hits.foldl (fun s n => (s.setBit R.NET_WAKESTAT_MATCH n).netCount 2 39) s
  if hits.isEmpty then s else (s.raise 88).wakeUp 0

/-! ### Reception (R305 to R307) -/

/-- How a walk over receive descriptors ends. -/
inductive RxEnd where
  /-- The last byte has its place. -/
  | whole
  /-- A descriptor is not owned, or its ring is off or stopped. -/
  | unowned
  /-- A buffer or the ring lies outside the DRAM supervisor region. -/
  | outside
  /-- Poison in a descriptor. -/
  | poison
  /-- An access lies above the front. -/
  | front
  deriving DecidableEq, Repr

/-- The descriptors that take `left` bytes, from descriptor `i` of a ring on, with the bytes that each takes. -/
def rxWalk (r : Nat) : Nat → Nat → Nat → State → State × List (NetDesc × Nat) × RxEnd
  | 0, _, _, s => (s, [], .unowned)
  | k + 1, i, left, s =>
    if !s.below (s.descAddr r i) 32 then (s, [], .front)
    else
      match s.readDesc r i with
      | (s, none) => (s, [], .poison)
      | (s, some d) =>
        if !bitOf d.ctl 15 then (s, [], .unowned)
        else if !inSup d.buf d.len then (s, [], .outside)
        else if !s.below d.buf d.len then (s, [], .front)
        else if left ≤ d.len then (s, [(d, left)], .whole)
        else
          let w := rxWalk r k (i + 1) (left - d.len) s
          (w.1, (d, d.len) :: w.2.1, w.2.2)

/-- The error and message bits of a frame's LAST descriptor (Table 12.1). -/
def rxStat (f : RxFrame) (hits : List Nat) : Nat :=
  b2n (!fcsGood f.bytes) + 2 * b2n (decide (f.bytes.length < 64)) + 4 * b2n f.align +
    8 * b2n (decide (maxFrame f.bytes < f.bytes.length)) + 16 * b2n f.symbol + 32 * b2n (tagged f.bytes) +
    64 * b2n (isPtp f.bytes) + (match hits with
      | n :: _ => 128 + 256 * n
      | [] => 0)

/-- The bytes of a frame placed in their buffers and the descriptors written back, in order. -/
def rxPlace (f : RxFrame) (stat total : Nat) (last trunc : Bool) : Bool → List (BitVec 8) → List (NetDesc × Nat) → State → State
  | _, _, [], s => s
  | first, bytes, (d, n) :: ds, s =>
    let s := s.masterWrite 7 d.buf (bytes.take n)
    let l := ds.isEmpty && last
    let s := s.writeDesc d n (16384 * b2n first + 8192 * b2n l + 2048 * b2n (l && trunc) + 512 * f.port)
      (if l then stat else 0) (if first then f.sec else 0) (if first then f.ns else 0) (if l then total else 0)
    rxPlace f stat total last trunc false (bytes.drop n) ds s

/-- A frame truncated or dropped for want of a descriptor (R306). -/
def State.noBuf (s : State) : State := ((s.netCount 2 37).raise 91).netFault 0x0A01

/-- A frame for receive ring 4 or 5: its bytes placed, as far as descriptors go (R305, R306). A frame that is not to be kept is
dropped once it has been seen whole, and a truncated one is delivered all the same (R306, R307). -/
def State.receive (s : State) (r : Nat) (f : RxFrame) (hits : List Nat) (keep : Bool) : State :=
  let data := f.bytes.take 9022
  if !s.ringOk r then s.ringStop r
  else
    let head := s.rd (R.NET_RING_HEAD_HEAD r)
    match rxWalk r (s.descCount r) head data.length s with
    | (s, ds, e) =>
      let total := (ds.map (·.2)).sum
      let go := fun (s : State) => s.wr (R.NET_RING_HEAD_HEAD r) ((head + ds.length) % s.descCount r)
      match e with
      | .front | .poison => s
      | .whole => if !keep then s else (go (rxPlace f (rxStat f hits) total true false true data ds s)).raise (76 + r)
      | .outside => (go (rxPlace f 0 total false false true data ds s)).ringStop r
      | .unowned =>
        if ds.isEmpty then s.noBuf
        else
          let sym := f.symbol && s.freeVal % 2 == 1
          let s := if f.symbol then s.useFree else s
          let g := { f with bytes := data.take total, align := false, symbol := sym }
          let stat := rxStat g hits
          let stat := stat - stat % 2
          ((go (rxPlace f stat total true true true data ds s)).raise (76 + r)).noBuf

/-- The MAC must wait for the front before it can take this frame (R281). -/
def State.rxWaits (s : State) (r : Nat) (f : RxFrame) : Bool :=
  s.domOn 5 && s.ringLive r && s.ringOk r &&
    (rxWalk r (s.descCount r) (s.rd (R.NET_RING_HEAD_HEAD r)) (f.bytes.take 9022).length s).2.2 == .front

/-- MAC_RECEIVE: the oldest frame of the receive FIFO comes to the MAC. With MEM off as it comes it is dropped once the wake patterns have
examined it, the one that ends sleep too (R437). -/
def execMacReceive (s : State) : Res :=
  let s := s.netBegin
  match s.net.fifo with
  | [] => .next s
  | f :: rest =>
    let r := if isPtp f.bytes then 5 else 4
    if s.rxWaits r f then .next s
    else
      let s := { s with net := { s.net with fifo := rest } }
      let hits := s.wakeHits f.bytes
      let asleep := !s.domOn 5
      let s := (s.countRx 2 f.bytes f.align f.symbol).wakeAct hits
      let keep := frameGood f.bytes f.align f.symbol || s.on R.NET_RXCFG_KEEPBAD
      if asleep || !s.ringLive r then .next (if keep then s.noBuf else s)
      else .next ((s.receive r f hits keep).heardOn 3)

/-! ### Transmission (R304, R310) -/

/-- The descriptors of the frame at descriptor `i` of a ring, FIRST to LAST, all owned; none where they are not. -/
def txWalk (r : Nat) : Nat → Nat → State → State × Option (List NetDesc)
  | 0, _, s => (s, none)
  | k + 1, i, s =>
    if !s.below (s.descAddr r i) 32 then (s, none)
    else
      match s.readDesc r i with
      | (s, none) => (s, none)
      | (s, some d) =>
        if !bitOf d.ctl 15 then (s, none)
        else if bitOf d.ctl 13 then (s, some [d])
        else
          match txWalk r k (i + 1) s with
          | (s, some ds) => (s, some (d :: ds))
          | (s, none) => (s, none)

/-- The bytes of a frame's buffers, and whether poison was met. -/
def txFetch : List NetDesc → State → State × List (BitVec 8) × Bool
  | [], s => (s, [], false)
  | d :: ds, s =>
    match s.dmaRead 7 d.buf d.len with
    | (s, some bs) =>
      let w := txFetch ds s
      (w.1, bs ++ w.2.1, w.2.2)
    | (s, none) => (s, [], true)

/-- The descriptors of a frame written back in order, with STAT and stamp of the LAST one; HEAD moves past them and line 82 + n
rises. -/
def State.txDone (s : State) (r : Nat) (ds : List NetDesc) (each last sec ns : Nat) : State :=
  let n := ds.length
  let s : State := (ds.zipIdx).foldl (fun s x =>
    let l := x.2 + 1 == n
    s.writeDesc x.1 x.1.len (x.1.ctl % 32768) (each ||| (if l then last else 0)) (if l then sec else 0)
      (if l then ns else 0) 0) s
  (s.wr (R.NET_RING_HEAD_HEAD r) ((s.rd (R.NET_RING_HEAD_HEAD r) + n) % s.descCount r)).raise (82 + r)

/-- A ring examined at HEAD: the frame there is taken, ends with ERR, stops its ring, or is not ready. `true` where the ring is
to be examined again. -/
def State.examine (s : State) (r : Nat) : State × Bool :=
  if !s.ringLive r then (s, false)
  else if !s.ringOk r then (s.ringStop r, false)
  else
    let head := s.rd (R.NET_RING_HEAD_HEAD r)
    match txWalk r (s.descCount r) head s with
    | (s, none) => (s, false)
    | (s, some ds) =>
      let d := ds.headD ⟨0, 0, 0, 0⟩
      if !bitOf d.ctl 14 then (s, false)
      else if ds.any fun d => !inSup d.buf d.len then (s.ringStop r, false)
      else if ds.any fun d => !s.below d.buf d.len then (s, false)
      else
        match txFetch ds s with
        | (s, bytes, bad) =>
          let len := (ds.map (·.len)).sum + 4
          if (!bad && decide (maxFrame bytes < len)) || decide (9022 < len) then (s.txDone r ds 9 0 0 0, true)
          else
            let f : TxFrame := ⟨r, head, ds.length, d.ctl / 512 % 4, bitOf d.ctl 12, d.ctl / 128 % 4, bytes, bad⟩
            ({ s with net := { s.net with tx := some f } }, false)

/-- The rings examined by strict priority until the MAC sends a frame or none is ready. -/
def examineAll : Nat → List Nat → State → State
  | 0, _, s => s
  | _, [], s => s
  | k + 1, r :: rs, s =>
    if s.net.tx.isSome then s
    else
      match s.examine r with
      | (s, true) => examineAll k (r :: rs) s
      | (s, false) => examineAll k rs s

/-- HEAD of each enabled transmit ring examined, TX3 first, at a frame boundary. -/
def State.examineRings (s : State) : State := if s.domOn 7 && s.domOn 5 then examineAll 16392 [3, 2, 1, 0] s else s

/-- TX_KICK: a write of KICK of a transmit ring. -/
def execTxKick (_ring : Fin 4) (s : State) : Res := .next s.netBegin.examineRings

/-- A frame of the MAC comes to the switch at port I, which stores it in full (R298 to R300): one with a bad FCS, or a runt, is
dropped there (DEDUCED, log entry 41). `full` holds the egress buffers without room. -/
def State.fromMac (s : State) (t : TxFrame) (good : Bool) (full : Nat) : State :=
  let f := withFcs t.bytes
  let s := if good then s.learn (srcAddr f) 2 else s
  if !good || decide (f.length < 64) then s
  else
    let q := if (ptpEvent f).isSome then 3 else t.prio
    let ports := if t.ports = 0 then (s.targets (dstAddr f) 2) else [0, 1].filter fun p => bitOf t.ports p
    ports.foldl (fun s p => s.egress ⟨p, q, f⟩ (bitOf full p)) s

/-- The head of the stamp queue shown in its registers (R312). -/
def State.showStamps (s : State) : State :=
  let h := s.net.stamps.headD ⟨0, 0, 0, 0, 0⟩
  let s := ((s.wr R.NET_TSQ_ID_INDEX h.index).wr R.NET_TSQ_ID_RING h.ring).wr R.NET_TSQ_ID_PORT h.port
  let s := (s.wrB R.NET_TSQ_ID_VALID !s.net.stamps.isEmpty).wr R.NET_TSQ_CNT_LEVEL s.net.stamps.length
  (s.wr R.NET_TSQ_SEC_SEC h.sec).wr R.NET_TSQ_NS_NS h.ns

/-- A stamp pushed into the queue, or lost where it is full: `true` where it was pushed (R312). -/
def State.pushStamp (s : State) (st : TxStamp) : State × Bool :=
  if s.net.stamps.length < 32 then
    let first := s.net.stamps.isEmpty
    let s := { s with net := { s.net with stamps := s.net.stamps ++ [st] } }.showStamps
    (if first then s.raise 86 else s, true)
  else (((s.netCount 2 38).netFault 0x0A03).raise 93, false)

/-- The head entry of the stamp queue removed (R312). -/
def State.popStamp (s : State) : State := { s with net := { s.net with stamps := s.net.stamps.tail } }.showStamps

/-- TIMESTAMP_POP. -/
def execTimestampPop (s : State) : Res := if !s.domOn 7 then .next s else .next s.popStamp

/-- An underrun (R310). -/
def State.underrun (s : State) : State :=
  let s := ((s.netCount 2 33).netFault 0x0A02).raise 92
  s.wr R.NET_TXTHR_BYTES (min 9216 (s.rd R.NET_TXTHR_BYTES + 256))

/-- The stamp of a completed TSREQ frame: seconds, nanoseconds, and whether there is one; else TSLOST (R304, R312). A frame that the
switch does not send out of its port passes no MDI (R311), so it has none (DEDUCED, log entry 41). -/
def State.txStamp (s : State) (t : TxFrame) (full age : Nat) : State × Nat × Nat × Bool :=
  if (t.ports = 1 || t.ports = 2) && s.portUp (t.ports - 1) && !bitOf full (t.ports - 1) && decide (60 ≤ t.bytes.length) then
    let p := t.ports - 1
    match s.netStamp age (s.latTx (s.portSpeed p) : Int) with
    | (s, sec, ns) =>
      match s.pushStamp ⟨t.ring, (t.first + t.count - 1) % s.descCount t.ring, p, sec, ns⟩ with
      | (s, true) => (s, sec, ns, true)
      | (s, false) => (s, 0, 0, false)
  else (s, 0, 0, false)

/-- The descriptors of the frame being sent, as they stand. -/
def State.txDescs (s : State) (t : TxFrame) : List NetDesc :=
  (List.range t.count).map fun k =>
    let a := s.descAddr t.ring (t.first + k)
    ⟨a, s.peek a 5, s.peek (a + 8) 2 % 16384, s.peek (a + 10) 2⟩

/-- The frame that the MAC sends completes (R304, R310, R312). A frame that a hold-off keeps from the port that must stamp it does
not complete yet. -/
def State.txComplete (s : State) (t : TxFrame) (underrun : Bool) (full age : Nat) : State :=
  let good := !underrun && !t.poison
  let f := if good then withFcs t.bytes else withBadFcs t.bytes
  let s := (s.countFrame 2 20 f).fromMac t good full
  let s := if underrun then s.underrun else s
  let w := if t.tsreq && good then s.txStamp t full age else (s, 0, 0, false)
  let lost := t.tsreq && good && !w.2.2.2
  let s := w.1
  let s := { s with net := { s.net with tx := none } }
  let s := s.txDone t.ring (s.txDescs t) 1 (2 * b2n underrun + 4 * b2n lost + 8 * b2n t.poison) w.2.1 w.2.2.1
  s.examineRings

/-- TX_FRAME_COMPLETE. A frame no longer than NET_TXTHR was fetched whole before it started, so no fetch of it falls behind (R310). -/
def execTxFrameComplete (how : TxEnd) (age : Word) (s : State) : Res :=
  let s := s.netBegin
  match s.net.tx with
  | none => .next s
  | some t =>
    let underrun := how.underrun && decide (s.rd R.NET_TXTHR_BYTES < t.bytes.length)
    if !s.domOn 7 || !s.domOn 5 then .next s
    else if t.tsreq && !underrun && !t.poison && (t.ports = 1 || t.ports = 2) && s.on (State.holdFld (t.ports - 1)) then .next s
    else .next (s.txComplete t underrun how.full.toNat age.toNat)

end Sys2Proof.Machine
end

