-- ==== Sys2Proof/Machine/Host.lean ====
section
/-! DEFINITION. The host channel and the adit port: sessions, scopes, replies and the messages of Table 12.4 (R104 to R106,
R167, R168, R316 to R321, R398, R435). The update messages of Table 17.2 stand in Update.lean. -/

namespace Sys2Proof.Machine

/-! ### Sessions (R316) -/

/-- The scope of a session: 1 the owner's, 1 + t tenant t's, 0 none; the adit port has owner scope (R320). -/
def State.scope (s : State) (sess : Nat) : Nat := if sess = 8 then 1 else sget 0 s.host.sessions sess

/-- The scope that a PSK identity names: "own", or "tNN" of an enabled tenant whose PSK the tree can derive; none where the
identity is refused (R316, R372). -/
def State.identityScope (s : State) (id : List (BitVec 8)) : Option Nat :=
  if id = asciiOf "own" then if s.slotHas 1 4 then some 1 else none
  else
    match id with
    | [t, a, b] =>
      let digit := fun (c : BitVec 8) => decide (48 ≤ c.toNat) && decide (c.toNat ≤ 57)
      let n := (a.toNat - 48) * 10 + (b.toNat - 48)
      if t = 116 && digit a && digit b && decide (1 ≤ n) && decide (n ≤ 64) && s.slotHas 5 4 &&
          bitOf (s.rd R.KEY_TENEN_EN) (n - 1) then some (1 + n)
      else none
    | _ => none

/-- The PSK of a scope (R316, Table 15.3): from the owner node, or from the node that the tenant's label gives below the building. -/
def State.pskOf (s : State) (scope : Nat) : Option (List (BitVec 8)) :=
  if scope = 1 then some (deriveKey (s.slotKey 1) (asciiOf "psk") 1 true 2)
  else
    match s.upd.settings.tenants.find? fun t => t.1.toNat + 1 == scope with
    | some t => some (deriveKey (deriveKey (s.slotKey 5) (t.2.take 32) 4 false 4) (asciiOf "psk") 1 true 5)
    | none => none

/-- KEY can derive a PSK for the supervisor: it is idle, K06 holds the session KEK, and one of K07 to K63 is free (Table 15.3). -/
def State.pskReady (s : State) : Bool :=
  !s.on R.KEY_RESULT_BUSY && s.slotHas 6 3 && (List.range 57).any fun i => s.slotHas (7 + i) 0

/-- HOST_CONNECT (R316): a session opens under the lowest free number; a ninth connection, an identity that is not accepted or
a handshake that does not prove the PSK of its identity opens none. The host channel needs NET, MEM and KEY (DEDUCED, log entry
39). The operations by which KEY gives the PSK end with line 112. -/
def execHostConnect (identity psk : List Byte) (s : State) : Res :=
  if !(s.domOn 7 && s.domOn 5 && s.domOn 9) || s.on R.PWR_STAT_SLEEP || !s.pskReady then .next s
  else
    match s.identityScope identity, (List.range 8).find? fun i => sget 0 s.host.sessions i == 0 with
    | some sc, some i =>
      let s := s.keyFinish 3 0
      if s.pskOf sc = some psk then .next { s with host := { s.host with sessions := sput 0 s.host.sessions i sc } } else .next s
    | _, _ => .next s

/-- A session closes; what would have answered it does not leave. -/
def State.closeSession (s : State) (sess : Nat) : State :=
  { s with host := { s.host with
      sessions := sput 0 s.host.sessions sess 0
      owed := s.host.owed.filter fun o => o.reply.sess != sess
      runAsk := s.host.runAsk.filter fun a => a.1 != sess } }

/-- HOST_SESSION_TIMEOUT (R316). -/
def execHostSessionTimeout (sess : Fin 8) (s : State) : Res := .next (s.closeSession sess.val)

/-! ### Requests -/

/-- The message types that the adit port accepts in pit mode (R435): status, time query, tally export, stage, settings get and
settings put. -/
def pitTypes : List Nat := [0x01, 0x02, 0x40, 0x70, 0x75, 0x76]

/-- The message types that need flash (R294). -/
def flashTypes : List Nat := [0x40, 0x60, 0x70, 0x75, 0x76]

/-- The message types that a tenant scope may send (Table 12.4). -/
def tenantTypes : List Nat := [0x01, 0x02, 0x10, 0x30]

/-- The message types that only the adit port accepts (R403). -/
def aditTypes : List Nat := [0x70, 0x75, 0x76]

/-- Sixteen requests of a session are outstanding: one that waits for its reply, and those behind it (R317). -/
def State.askFull (s : State) (sess : Nat) : Bool := decide (16 ≤ (s.owedTo sess).length)

/-- A request on its port: one that breaks the rules of a message, longer with its header than LEN can say or the seventeenth
outstanding, closes its session (R317) (DEDUCED, log entry 39); a closed session or a sleeping supervisor takes none; a request that
pit mode or the scope refuses is answered with its fault and changes nothing else (R294, R318, R403, R435); else `f` takes it. -/
def State.ask (s : State) (q : Ask) (f : State → State) (len : Nat := 0) : State :=
  if s.scope q.sess = 0 || s.on R.PWR_STAT_SLEEP then s
  else if s.askFull q.sess || decide (1048576 < 16 + len) then s.closeSession q.sess
  else if s.on R.PWR_STAT_PIT && !pitTypes.contains q.type then
    (s.report R.PWR_LASTFAULT_FAULT 0x0208).answer q 0x0208 []
  else if s.nvs.notReady && flashTypes.contains q.type then (s.report R.PWR_LASTFAULT_FAULT 0x0208).answer q 0x0208 []
  else if s.scope q.sess ≠ 1 && !tenantTypes.contains q.type then s.answer q 0x0A10 []
  else if q.sess ≠ 8 && aditTypes.contains q.type then s.answer q 0x0A10 []
  else f s

/-- What a register holds, all its fields together. -/
def State.regRaw (s : State) (a : Nat) : Nat :=
  match regAt a with
  | some r => r.fields.foldl (fun v f => v + s.rd (f.fld a) * 2 ^ f.lo) 0
  | none => 0

/-- The ledger report of R78: ledger, index, claim, capacity and margin of each entry. -/
def State.ledgerBytes (s : State) : List (BitVec 8) :=
  s.ledger.flatMap fun e => toLE 4 e.ledger ++ toLE 4 e.idx ++ toLE 8 e.claim ++ toLE 8 e.capacity ++ toLE 8 e.margin

/-- The body of a status reply: TSK_STAT, TSK_FAULT, TSK_IMAGE, TSK_RSTAT, PHS_CFG, PHS_STAT and TIM_STAT; in owner scope the
ledger report too (Table 12.4). -/
def State.statusBody (s : State) (owner : Bool) : List (BitVec 8) :=
  toLE 4 (s.regRaw 0x10030010) ++ toLE 4 (s.regRaw 0x10030018) ++ toLE 8 (s.regRaw 0x10030040) ++
    toLE 4 (s.regRaw 0x10030048) ++ toLE 4 (s.regRaw 0x10020000) ++ toLE 4 (s.regRaw 0x10020008) ++
    toLE 4 (s.regRaw 0x100E0038) ++ if owner then s.ledgerBytes else []

/-- STATUS. -/
def execStatus (sess : Fin 9) (reqid : Word) (s : State) : Res :=
  let q : Ask := ⟨sess.val, 0x01, reqid.toNat⟩
  .next (s.ask q fun s => s.answer q 0 (s.statusBody (s.scope q.sess == 1)))

/-- TIME_QUERY: network time, TIM_STAT and RTC_TIME. -/
def execTimeQuery (sess : Fin 9) (reqid : Word) (s : State) : Res :=
  let q : Ask := ⟨sess.val, 0x02, reqid.toNat⟩
  .next (s.ask q fun s =>
    s.answer q 0 (toLE 8 s.tstampNow ++ toLE 4 (s.regRaw 0x100E0038) ++ toLE 8 (s.rd R.RTC_TIME_TIME)))

/-! ### Points and forces -/

/-- A codeword of the image as the supervisor hands it to the host: one with poison comes as a free value (DESIGN CHOICE, log entry
67). -/
def State.handWord (s : State) (cw : Nat) : State × List (BitVec 8) :=
  if (s.cwErr cw).poison then (s.useFree, toLE 4 s.freeVal) else (s, readBytes s.mem cw 4)

/-- Q_FAULT set in the 16 bytes of an entry. -/
def faultEntry (bs : List (BitVec 8)) : List (BitVec 8) := bs.set 8 (bs.getD 8 0 ||| 8)

/-- An entry read by the supervisor for the host, every codeword checked (R273); where it meets poison the entry is handed on with Q_FAULT
(Table 11.3) (DESIGN CHOICE, log entry 67). -/
def State.handEntry (s : State) (p : Nat) : State × List (BitVec 8) :=
  let r := s.readChecked 0 (pointAddr p) 16
  let w := [0, 4, 8, 12].foldl (fun c k =>
    let h := c.1.handWord (pointAddr p + k)
    (h.1, c.2 ++ h.2)) (r.1, [])
  (w.1, if r.2 then faultEntry w.2 else w.2)

/-- The entries of a point read, copied one after another. -/
def State.handEntries (s : State) : List Nat → State × List (BitVec 8)
  | [] => (s, [])
  | p :: t =>
    let r := s.handEntry p
    let q := r.1.handEntries t
    (q.1, r.2 ++ q.2)

/-- A point carries a tenant's tag, and its codeword no poison. -/
def State.tagged (s : State) (t p : Nat) : Bool :=
  !(s.cwErr (pointAddr p + 8)).poison && readLE s.mem (pointAddr p + 10) 1 == t

/-- A point read (R318, R319): a tenant reads only points with its own tag, and a read that names another is refused whole. -/
def State.readPoints (s : State) (q : Ask) (ps : List Nat) : State :=
  let sc := s.scope q.sess
  let r := s.handEntries ps
  if sc ≠ 1 && !ps.all (r.1.tagged (sc - 1)) then r.1.answer q 0x0A10 []
  else r.1.answer q 0 (r.2 ++ toLE 4 (s.rd R.TSK_CYCCNT_COUNT))

/-- POINT_READ. -/
def execPointRead (sess : Fin 9) (reqid : Word) (points : List (BitVec 12)) (s : State) : Res :=
  let q : Ask := ⟨sess.val, 0x10, reqid.toNat⟩
  .next (s.ask q fun s => s.readPoints q (points.map (·.toNat)))

/-- A value written by the host (R319): into the entry at once, and for an output also handed to the next boundary of RUN. QUAL is a part
of its codeword, which the supervisor reads first: with poison there Q_INIT is not cleared (R274). -/
def State.hostWrite (s : State) (p v : Nat) : State :=
  let r := s.readChecked 0 (pointAddr p + 8) 4
  let s := if r.2 then (r.1.poisonReport 0).putPoint p v else r.1.putValue p v
  match s.decl p with
  | some d =>
    if d.out then
      { s with tsk := { s.tsk with hostCommits := (s.tsk.hostCommits.filter fun w => w.1 != p) ++ [(p, v)] } }
    else s
  | none => s

/-- The point is declared with WKIND 3: the host writes it. -/
def State.hostPoint (s : State) (p : Nat) : Bool :=
  match s.decl p with
  | some d => d.wkind == 3
  | none => false

/-- POINT_WRITE (R319): any point without WKIND 3 refuses the whole write with fault 0x0A11. -/
def execPointWrite (sess : Fin 9) (reqid : Word) (writes : List (BitVec 12 × DWord)) (s : State) : Res :=
  let q : Ask := ⟨sess.val, 0x11, reqid.toNat⟩
  .next (s.ask q fun s =>
    if writes.all fun w => s.hostPoint w.1.toNat then
      (writes.foldl (fun s w => s.hostWrite w.1.toNat w.2.toNat) s).answer q 0 []
    else s.answer q 0x0A11 [])

/-- FORCE_SET (R104 to R106): the point's force changed, or the lowest free entry taken; with none free, fault 0x0406 and
line 30. Record 0x008 is written. -/
def execForceSet (sess : Fin 9) (reqid : Word) (point : BitVec 12) (value : DWord) (s : State) : Res :=
  let q : Ask := ⟨sess.val, 0x20, reqid.toNat⟩
  let p := point.toNat
  .next (s.ask q fun s =>
    let free := (List.range 256).find? fun n => !s.on (R.TSK_FORCE_CTL_EN n)
    match (s.forceEntry p).or free with
    | none => ((s.note 0x0406).raise 30).answer q 0x0406 []
    | some n =>
      let s := s.writeForce n p value.toNat true
      (s.tallyEvent 0x008 (toLE 4 p ++ toLE 8 value.toNat)).answer q 0 [])

/-- FORCE_CLEAR (R105): every enabled entry of the point is cleared. Record 0x009 is written. -/
def execForceClear (sess : Fin 9) (reqid : Word) (point : BitVec 12) (s : State) : Res :=
  let q : Ask := ⟨sess.val, 0x21, reqid.toNat⟩
  let p := point.toNat
  .next (s.ask q fun s =>
    let mine := s.forces.filter fun c => c.2 == p
    match mine with
    | [] => s.answer q 0 []
    | c :: _ =>
      let v := s.rd (R.TSK_FORCE_VALUE_VALUE c.1)
      let s : State := mine.foldl (fun s c => s.writeForce c.1 p (s.rd (R.TSK_FORCE_VALUE_VALUE c.1)) false) s
      (s.tallyEvent 0x009 (toLE 4 p ++ toLE 8 v)).answer q 0 [])

/-! ### Flacons and the tally book -/

/-- The latest complete flacon of a tenant; empty where the buffer does not hold it (R380). The supervisor reads it through its
codewords (R273), and one with poison in it is not handed out (DESIGN CHOICE, log entry 67). -/
def State.flaconBytes (s : State) (t : Nat) : State × List (BitVec 8) :=
  let seq := s.rd (R.KEY_TSEQ_SEQ (t - 1))
  let a := s.flaconAddr t seq
  let h := s.readChecked 0 a 64
  if h.2 || h.1.peek (a + 0x3C) 4 ≠ 0x4B4F4C46 || h.1.peek (a + 8) 8 ≠ seq then (h.1, [])
  else
    let n := 80 + 16 * h.1.peek (a + 0x1C) 2
    let r := h.1.readChecked 0 (a + 64) (n - 64)
    (r.1, if r.2 then [] else r.1.bytes a n)

/-- FLACON_FETCH (R318, R380): a tenant fetches its own only. -/
def execFlaconFetch (sess : Fin 9) (reqid : Word) (tenant : Byte) (s : State) : Res :=
  let q : Ask := ⟨sess.val, 0x30, reqid.toNat⟩
  let t := tenant.toNat
  .next (s.ask q fun s =>
    if s.scope q.sess ≠ 1 && s.scope q.sess ≠ 1 + t then s.answer q 0x0A10 []
    else if t = 0 || 64 < t then s.answer q 0 []
    else (s.flaconBytes t).1.answer q 0 (s.flaconBytes t).2)

/-- The places of up to `n` records held, from SEQ `first` on. -/
def State.exportPlaces (s : State) : Nat → Nat → List Nat
  | 0, _ => []
  | n + 1, q =>
    match sget 0 s.tly.index q with
    | 0 => []
    | k + 1 => k :: s.exportPlaces n ((q + 1) % 2 ^ 32)

/-- The records in some places, as flash delivers them: a block that cannot be read is reported and comes as zeros (R292). -/
def State.exportRecords (s : State) (places : List Nat) : State × List (BitVec 8) :=
  let bad := s.nvs.unreadable.filter fun l => places.any fun p => logAddr p / 4096 == l
  (if s.domOn 6 then s.readFailures bad else s, places.flatMap fun p => readBytes s.legible (logAddr p) 256)

/-- The export that carried an erase answered: the erase is performed or refused (R398). -/
def State.performErase (s : State) (e : EraseAsk) : State :=
  match s.tallyErase e.last e.mac with
  | (s, true) => s.settle ⟨e.sess, 0x40, e.reqid⟩ 0 e.body
  | (s, false) => s.settle ⟨e.sess, 0x40, e.reqid⟩ 0x0F04 []

/-- The oldest erase that waits is performed once NVS can serve it (R291, R429). -/
def State.resumeErase (s : State) : State :=
  match s.host.erases with
  | [] => s
  | e :: es => if s.nvsFree then { s with host := { s.host with erases := es } }.performErase e else s

/-- TALLY_EXPORT (R318, R398): the records from SEQ `first`, at most what one message holds; then the erase, where the request
carries one, as soon as NVS can serve it (R291, R294, R429). In pit mode an erase is refused (R435). -/
def execTallyExport (sess : Fin 9) (reqid first : Word) (count : BitVec 16) (erase : Option (Word × List Byte))
    (s : State) : Res :=
  let q : Ask := ⟨sess.val, 0x40, reqid.toNat⟩
  .next (s.ask q fun s =>
    let places := s.exportPlaces (min 4095 count.toNat) first.toNat
    match erase with
    | none => (s.exportRecords places).1.answer q 0 (s.exportRecords places).2
    | some (last, mac) =>
      if s.on R.PWR_STAT_PIT then (s.report R.PWR_LASTFAULT_FAULT 0x0208).answer q 0x0208 []
      else
        let r := s.exportRecords places
        let e : EraseAsk := ⟨q.sess, q.reqid, last.toNat, mac, r.2⟩
        let t := r.1.owe q
        State.resumeErase { t with host := { t.host with erases := t.host.erases ++ [e] } })

/-! ### Modes and loads -/

/-- MODE_CHANGE (R97, R94, R181, R435). The start action is kept with the settings. -/
def execModeChange (sess : Fin 9) (reqid : Word) (order : ModeOrder) (s : State) : Res :=
  let q : Ask := ⟨sess.val, 0x50, reqid.toNat⟩
  .next (s.ask q fun s =>
    match order with
    | .command c => s.answerReport q fun s => s.modeRequest c.toNat 1
    | .clearFault => s.clearStop.answer q 0 []
    | .start a =>
      (s.putSettings { s.upd.settings with start := a } s.upd.owner).answer q 0 []
    | .pit =>
      if q.sess = 8 && s.mode = 0 && !s.inGap then (s.answer q 0 []).pitRequest
      else s.refuseMode.answer q 0x0403 [])

/-- A load request is refused with fault 0x0411 and changes nothing (R167, R461) (DEDUCED, log entry 39). -/
def State.refuseLoad (s : State) (q : Ask) : State := (s.note 0x0411).answer q 0x0411 []

/-- The checks of an entry to RUN have passed, and the restart of the image that they admitted runs or is over. -/
def State.entering (s : State) : Bool := s.tsk.entry == .restarting || s.tsk.entry == .ready

/-- A chunk of an image (R167): the first at offset 0, in STOP, with no other load in progress; each next one by the same session at
the offset reached. The last starts the checks, whose reply answers it. A first chunk elsewhere, and one at an offset not reached,
are refused with 0x0411 and change nothing; an entry to RUN whose restart runs or is over gives way to a load, as a mode request
is refused during one (DEDUCED, log entry 39). -/
def State.loadChunk (s : State) (q : Ask) (offset : Nat) (chunk : List (BitVec 8)) (last : Bool) : State :=
  let take := fun (bs : List (BitVec 8)) =>
    let s := { s with host := { s.host with loader := (q.sess, q.reqid) } }
    let s := if s.entering then s.dropEntry.refuseMode else s
    if last then ({ s with loading := .checking (bs ++ chunk) }).owe q
    else ({ s with loading := .receiving (bs ++ chunk) }).answer q 0 []
  if s.mode ≠ 0 || s.inGap then s.refuseLoad q
  else
    match s.loading with
    | .idle => if offset = 0 then take [] else s.refuseLoad q
    | .receiving bs => if offset = bs.length && s.host.loader.1 == q.sess then take bs else s.refuseLoad q
    | _ => s.refuseLoad q

/-- LOAD. -/
def execLoad (sess : Fin 9) (reqid offset : Word) (chunk : List Byte) (last : Bool) (s : State) : Res :=
  let q : Ask := ⟨sess.val, 0x60, reqid.toNat⟩
  .next (s.ask q (fun s => s.loadChunk q offset.toNat chunk last) chunk.length)

/-- The request that the reply to a load answers. -/
def State.loadAsk (s : State) : Ask := ⟨s.host.loader.1, 0x60, s.host.loader.2⟩

/-- An accepted image committed, and the load answered with SNAPOK (R169, R170). An image that its slot cannot take leaves the old one
active and is answered with 0x1101 (R292) (DESIGN CHOICE, log entry 60). -/
def State.finishLoad (s : State) (bs : List (BitVec 8)) (im : Image) (led : List LedgerEntry) : State :=
  let s := { s with loading := .idle }
  if s.slotTakes bs then
    let s := s.commitImage bs im led
    s.settle s.loadAsk 0 (toLE 1 (b2n s.snapOk))
  else (s.flashPut (progBase s.freeSlot) bs).settle s.loadAsk 0x1101 []

/-- A load may write flash now: no save runs, and NVS can serve the supervisor (R175, R291, R294, R429). -/
def State.mayCommit (s : State) : Bool := s.tsk.save.isNone && s.nvsFree

/-- LOAD_CHECKS_DONE (R168): the first failed check refuses the image with its fault, section and offset, and the admission
report where it is admission that refuses; else the image is committed, or waits (R175). -/
def execLoadChecksDone (s : State) : Res :=
  match s.loading with
  | .checking bs =>
    match loadChecks s bs with
    | .inl e =>
      let s := { s with loading := .idle }.note e.fault
      let s := if e.report.isEmpty then s else s.tallyEvent 0x002 e.report
      .next (s.settle s.loadAsk e.fault (toLE 1 e.sect ++ toLE 4 e.ofs ++ e.report))
    | .inr (im, led) =>
      .next (if s.mayCommit then s.finishLoad bs im led else { s with loading := .waitSave bs im led })
  | _ => .next s

/-- A load that waits is committed once it may write flash. -/
def State.resumeLoad (s : State) : State :=
  match s.loading with
  | .waitSave bs im led => if s.mayCommit then s.finishLoad bs im led else s
  | _ => s

end Sys2Proof.Machine
end

