-- ==== Sys2Proof/Machine/Time.lean ====
section
/-! DEFINITION. TIM and RTC: network time, its servo, the calendar, the transfers between them, the wake and the rate trim
(R340 to R363). -/

namespace Sys2Proof.Machine

/-! ### The calendar (R351, R352) -/

/-- The fields of RTC_TIME (Table 14.2). -/
structure Cal where
  sub : Nat
  sec : Nat
  min : Nat
  hour : Nat
  day : Nat
  month : Nat
  wd : Nat
  year : Nat
  deriving DecidableEq, Repr

/-- RTC_TIME taken apart. -/
def calOf (v : Nat) : Cal :=
  ⟨slice 14 0 v, slice 20 15 v, slice 26 21 v, slice 31 27 v, slice 36 32 v, slice 40 37 v, slice 43 41 v, slice 55 44 v⟩

/-- RTC_TIME put together. -/
def Cal.word (c : Cal) : Nat :=
  c.sub + c.sec * 2 ^ 15 + c.min * 2 ^ 21 + c.hour * 2 ^ 27 + c.day * 2 ^ 32 + c.month * 2 ^ 37 + c.wd * 2 ^ 41 +
    c.year * 2 ^ 44

/-- A leap year of the Gregorian calendar (R352). -/
def leapYear (y : Nat) : Bool := y % 400 == 0 || (y % 4 == 0 && y % 100 != 0)

/-- The last day of a month, and 31 for a month out of range (R352). -/
def lastDay (m y : Nat) : Nat :=
  if m = 2 then (if leapYear y then 29 else 28) else if [4, 6, 9, 11].contains m then 30 else 31

/-- A count that wraps past `a` and past its field's maximum `b`: the next value, and the carry (R352). -/
def roll (a b v : Nat) : Nat × Bool := if v = a || v = b then (0, true) else (v + 1, false)

/-- A year carry (R352). -/
def Cal.carryYear (c : Cal) : Cal := { c with year := (c.year + 1) % 4096 }

/-- A month carry (R352). -/
def Cal.carryMonth (c : Cal) : Cal :=
  if c.month = 0 then { c with month := 1 }
  else if c.month = 12 || c.month = 15 then ({ c with month := 1 }).carryYear
  else { c with month := c.month + 1 }

/-- A day carry, which advances WEEKDAY too (R352). -/
def Cal.carryDay (c : Cal) : Cal :=
  let c := { c with wd := if c.wd = 0 || c.wd = 7 then 1 else c.wd + 1 }
  if c.day = 0 then { c with day := 1 }
  else if c.day = 31 || c.day = lastDay c.month c.year then ({ c with day := 1 }).carryMonth
  else { c with day := c.day + 1 }

/-- A second carry: SUBSEC has wrapped to 0 (R351, R352). -/
def Cal.second (c : Cal) : Cal :=
  let c := { c with sub := 0 }
  match roll 59 63 c.sec with
  | (v, false) => { c with sec := v }
  | (v, true) =>
    let c := { c with sec := v }
    match roll 59 63 c.min with
    | (v, false) => { c with min := v }
    | (v, true) =>
      let c := { c with min := v }
      match roll 23 31 c.hour with
      | (v, false) => { c with hour := v }
      | (v, true) => ({ c with hour := v }).carryDay

/-- Every field lies in its calendar range, year 1970 to 4095 (R349). -/
def Cal.inRange (c : Cal) : Bool :=
  decide (1 ≤ c.month) && decide (c.month ≤ 12) && decide (1 ≤ c.day) && decide (c.day ≤ lastDay c.month c.year) &&
    decide (c.hour ≤ 23) && decide (c.min ≤ 59) && decide (c.sec ≤ 59) && decide (1970 ≤ c.year)

/-- Days before the year `y` from year 0, and before a month in it, in the Gregorian calendar. -/
def daysBefore (y m d : Nat) : Nat :=
  let leaps := if y = 0 then 0 else (y - 1) / 4 - (y - 1) / 100 + (y - 1) / 400 + 1
  365 * y + leaps + ((List.range (m - 1)).map fun k => lastDay (k + 1) y).sum + (d - 1)

/-- Days from 1970-01-01 to a date in range (R349). -/
def daysSince (y m d : Nat) : Nat := daysBefore y m d - daysBefore 1970 1 1

/-- The month and the day of day `n` of year `y`, from a month on. -/
def monthDay (y : Nat) : Nat → Nat → Nat → Nat × Nat
  | 0, m, n => (m, n + 1)
  | k + 1, m, n => if n < lastDay m y then (m, n + 1) else monthDay y k (m + 1) (n - lastDay m y)

/-- The UTC date and time of a count of seconds since 1970, with its ISO weekday and SUBSEC 0 (R354). -/
def calFrom (t : Nat) : Cal :=
  let days := t / 86400
  let n := days + daysBefore 1970 1 1
  let y0 := n / 366
  let near := (List.range 14).filter fun k => decide (daysBefore (y0 + k) 1 1 ≤ n)
  let y := y0 + (near.getLast?.getD 0)
  let md := monthDay y 12 1 (n - daysBefore y 1 1)
  ⟨0, t % 60, t / 60 % 60, t / 3600 % 24, md.2, md.1, (days + 3) % 7 + 1, y⟩

/-- The calendar. -/
def State.cal (s : State) : Cal := calOf (s.rd R.RTC_TIME_TIME)

/-- The calendar's seconds since 1970, as a signed number; its fields are taken as they stand. -/
def State.calSeconds (s : State) : Int :=
  let c := s.cal
  (daysBefore c.year c.month c.day : Int) * 86400 - (daysBefore 1970 1 1 : Int) * 86400 +
    ((c.hour * 3600 + c.min * 60 + c.sec : Nat) : Int)

/-- TAI - UTC (R354). -/
def State.utcOfs (s : State) : Int := toSigned 16 (s.rd R.RTC_UTCOFS_OFS)

/-! ### Network time -/

/-- STATE becomes LOCKED for the first time since the reset: the supervisor writes SYNCTIM (R354). -/
def State.firstLock (s : State) : State :=
  if s.tim.everLocked then s else { s with tim := { s.tim with everLocked := true }, rtc := { s.rtc with sync := true } }

/-- STATE and PORT of TIM set (R344): line 104 on a change of STATE, fault 0x0C01 on entering HOLDOVER, and NET lost to PHS
while SYNC is 0 (R43). -/
def State.timState (s : State) (st port : Nat) : State :=
  let was := s.rd R.TIM_STAT_STATE
  let s := s.wr R.TIM_STAT_PORT port
  if st = was then s
  else
    let s := ((s.wr R.TIM_STAT_STATE st).wrB R.TIM_STAT_SYNC (st == 2)).raise 104
    let s := if st = 3 then s.report R.TIM_LASTFAULT_FAULT 0x0C01 else s
    if st = 2 then s.firstLock else (s.loseRef 1 s.phs.trackInc).tallyTime false

/-- PHS follows NET at the rate of TIM_INCR where NET is active and not lost (R36, R37). -/
def State.netRate (s : State) : State :=
  if s.domOn 10 && s.rd R.PHS_CFG_REF = 1 && !s.on R.PHS_STAT_LOST then s.retrack (s.refInc 1) else s

/-- A write of TIM_INCR (R341). -/
def State.writeIncr (s : State) (v : Nat) : State :=
  let v := v % 2 ^ 40
  let c := max 0x07FDF3B646 (min 0x08020C49BA v)
  let s := (s.wr R.TIM_INCR_INCR c).netRate
  if c = v then s else (s.wr R.TIM_STAT_CLAMP 1).report R.TIM_LASTFAULT_FAULT 0x0C04

/-- TIM_INCR_WRITE. -/
def execTimIncrWrite (value : DWord) (s : State) : Res := .next (s.writeIncr value.toNat)

/-- How many times the UTC time of day has come to UPD_FALLSLOT by a second of network time, but for a constant (R414). -/
def State.slotDays (s : State) (sec : Nat) : Int :=
  ((sec : Int) - s.utcOfs - (min 86399 (s.rd R.UPD_FALLSLOT_SEC) : Nat)).fdiv 86400

/-- A step of TIM from a second to another passes UPD_FALLSLOT so many times forward, which counts as passing it, or back, which a
later passing makes good before it counts again (Table 20.4). -/
def State.stepSlot (s : State) (was : Nat) : State :=
  let d := s.slotDays (s.rd R.TIM_SEC_SEC) - s.slotDays was
  let owed : Int := s.upd.slotBack - d
  let t := { s with upd := { s.upd with slotBack := owed.toNat } }
  if owed < 0 then t.fallTrigger else t

/-- A 64-bit write of TIM_STEP (R342): the time moves by the signed nanoseconds, and to 0 where it would fall below; PHS takes a
step of its active NET reference as a change of phase (R47), the tally book records it (Table 16.3), and a window that measures the
calendar's crystal is given up (R359), and UPD_FALLSLOT may be passed (Table 20.4). -/
def State.writeStep (s : State) (v : Nat) : State :=
  let v := v % 2 ^ 64
  let was := s.rd R.TIM_SEC_SEC
  let t := ((s.rd R.TIM_SEC_SEC * 1000000000 + s.tim.ns : Nat) : Int) + toSigned 64 v
  let s := if t < 0 then { s.wr R.TIM_SEC_SEC 0 with tim := { s.tim with ns := 0, frac := 0 } }
    else { s.wr R.TIM_SEC_SEC (t.toNat / 1000000000) with tim := { s.tim with ns := t.toNat % 1000000000 } }
  let s := (s.wr R.TIM_LASTSTEP_STEP v).incSat R.TIM_STEPCNT_COUNT
  let s := (s.report R.TIM_LASTFAULT_FAULT 0x0C02).raise 105
  let s := (s.tallyEvent 0x00B (toLE 8 v)).tallyTime true
  let s := { s with rtc := { s.rtc with window := none } }.stepSlot was
  if s.domOn 10 && s.rd R.PHS_CFG_REF = 1 && !s.on R.PHS_STAT_LOST then s.relock 1 else s

/-- TIM_STEP_WRITE. -/
def execTimStepWrite (value : DWord) (s : State) : Res := .next (s.writeStep value.toNat)

/-- A 64-bit read of TIM_SEC: NS and FRAC are latched into TIM_NSF (R343). -/
def State.readSec (s : State) : State :=
  { (s.wr R.TIM_NSF_NS s.tim.ns).wr R.TIM_NSF_FRAC s.tim.frac with busData := s.rd R.TIM_SEC_SEC }

/-- TIM_SEC_READ. -/
def execTimSecRead (s : State) : Res := .next s.readSec

/-- A load from the calendar requested (R349): ignored in LOCKED and HOLDOVER, refused at once with OSF set or a field out of
range, else due at the next calendar second. -/
def State.loadRtc (s : State) : State :=
  if 2 ≤ s.rd R.TIM_STAT_STATE then s
  else if s.on R.RTC_STAT_OSF || !s.cal.inRange then
    ((s.wr R.TIM_STAT_RTCBAD 1).report R.TIM_LASTFAULT_FAULT 0x0C03).raise 106
  else { s with tim := { s.tim with loading := true } }

/-- LOADRTC. -/
def execLoadrtc (s : State) : Res := .next s.loadRtc

/-- A write of TIM_CTRL: LOADRTC, and STWR with STATE 2 or 3 and PORT (R344, R349) (DEDUCED, log entry 43). -/
def State.writeTimCtrl (s : State) (v : Nat) : State :=
  let s := if bitOf v 0 then s.loadRtc else s
  if bitOf v 1 then
    let st := slice 3 2 v
    s.timState (if 2 ≤ st then st else s.rd R.TIM_STAT_STATE) (v / 16 % 2)
  else s

/-- TIM_STATE_WRITE: TIM_CTRL with STWR = 1 and LOADRTC = 0. -/
def execTimStateWrite (value : Word) (s : State) : Res :=
  .next (s.writeTimCtrl (withBit (withBit value.toNat 0 false) 1 true))

/-- At a calendar second TIM takes the calendar (R349): STATE becomes CAL and line 106 rises. A calendar whose fields name no date
of the Gregorian calendar since the request gives no time that the spec states (DESIGN CHOICE, log entry 1). -/
def State.takeCalendar (s : State) : State :=
  if !s.tim.loading then s
  else
    let c := s.cal
    let dated := decide (1 ≤ c.month) && decide (c.month ≤ 12) && decide (1 ≤ c.day) && decide (c.day ≤ lastDay c.month c.year)
    let sec := if dated then ofSigned 48 (s.calSeconds + s.utcOfs) else s.freeVal
    let s := if dated then s else s.useFree
    let s := { s.wr R.TIM_SEC_SEC sec with tim := { s.tim with ns := 0, frac := 0, loading := false } }
    (s.timState 1 (s.rd R.TIM_STAT_PORT)).raise 106

/-! ### RTC -/

/-- OSF set; line 109 rises while the logic side is powered (R355, Table 14.5). -/
def State.setOsf (s : State) : State :=
  let s := s.wr R.RTC_STAT_OSF 1
  if s.pwr.held then s else s.raise 109

/-- A time put into the calendar: SUBSEC included, OSF cleared, no write pending (R351, R354). -/
def State.putCalendar (s : State) (v : Nat) : State :=
  { (((s.wr R.RTC_TIME_TIME v).wr R.RTC_STAT_OSF 0).wr R.RTC_STAT_WBUSY 0) with
    rtc := { s.rtc with write := none, edges := 0 } }

/-- A 64-bit write of RTC_TIME (R351): pending until the second calendar clock edge; a second write replaces the first. -/
def State.writeCalendar (s : State) (v : Nat) : State :=
  { s.wr R.RTC_STAT_WBUSY 1 with rtc := { s.rtc with write := some (v % 2 ^ 56), edges := 0 } }

/-- RTC_TIME_WRITE. -/
def execRtcTimeWrite (value : DWord) (s : State) : Res := .next (s.writeCalendar value.toNat)

/-- A write of RTC_CTRL (R354, R356). -/
def State.writeRtcCtrl (s : State) (v : Nat) : State :=
  let s := if bitOf v 0 then { s with rtc := { s.rtc with sync := true } } else s
  if bitOf v 1 then
    ((s.wr R.RTC_FIRSTSW_TIME 0).wr R.RTC_FIRSTSW_VALID 0).wr R.RTC_SWCOUNT_COUNT 0
  else s

/-- SYNCTIM. -/
def execSynctim (s : State) : Res := .next (s.writeRtcCtrl 1)

/-- CLRSW. -/
def execClrsw (s : State) : Res := .next (s.writeRtcCtrl 2)

/-- The transfer from TIM at its second boundary (R354). -/
def State.transfer (s : State) : State :=
  if !s.rtc.sync then s
  else
    let s := { s with rtc := { s.rtc with sync := false } }
    let t : Int := (s.rd R.TIM_SEC_SEC : Int) - s.utcOfs
    let c := calFrom t.toNat
    if t < 0 || 4095 < c.year then s.report R.RTC_LASTFAULT_FAULT 0x0D04 else s.putCalendar c.word

/-- Calendar seconds that pass one after another; the first takes a load of TIM that is due (R349, R352). -/
def State.calTicks : Nat → State → State
  | 0, s => s
  | n + 1, s => calTicks n ((s.wr R.RTC_TIME_TIME s.cal.second.word).takeCalendar)

/-- What a crystal period brings toward a trimmed count, of 10,000,000 (R358). -/
def State.trimRate (s : State) : Nat := (10000000 + toSigned 16 (s.rd R.RTC_TRIMNOW_C)).toNat

/-- The crystal periods that `n` trimmed counts take (R358). -/
def State.periodsOf (s : State) (n : Nat) : Nat := ceilDiv (n * 10000000 - s.rtc.trim) s.trimRate

/-- Crystal periods in `n` trimmed counts (R358): counts are added or withheld evenly, and what is owed is carried. -/
def State.rawPeriods (s : State) (n : Nat) : State :=
  let r := s.periodsOf n
  let left := s.rtc.trim + r * s.trimRate - n * 10000000
  { s.inc R.RTC_RAW_COUNT r with rtc := { s.rtc with trim := left } }

/-- The periodic wake (R357): line 108 where the logic side is powered, and a wake source for PWR. -/
def State.periodicWake (s : State) : State := (if s.pwr.held then s else s.raise 108).wakeUp 1

/-- SUBSEC counts on by `n` (R351, R357): seconds carry into the calendar, RTC_W256 counts each multiple of 128, and where it
passes a multiple of 2^K with EN set, the wake fires. -/
def State.subCounts (s : State) (n : Nat) : State :=
  let sub := s.cal.sub
  let w := s.rd R.RTC_W256_COUNT
  let w' := w + (sub + n) / 128 - sub / 128
  let k := 2 ^ min 24 (s.rd R.RTC_WAKE_K)
  let s := s.calTicks ((sub + n) / 32768)
  let s := s.wr R.RTC_TIME_TIME { s.cal with sub := (sub + n) % 32768 }.word
  let s := s.wr R.RTC_W256_COUNT w'
  if s.on R.RTC_WAKE_EN && w / k != w' / k then s.periodicWake else s

/-- One edge of the calendar clock (R351, R358): RTC_RAW counts the crystal period, and SUBSEC counts at the trimmed rate. At the
second edge after a write of the time the written value replaces the count, and no increment is applied. -/
def State.crystalEdge (s : State) : State :=
  let due := s.rtc.trim + s.trimRate
  let s := { s.inc R.RTC_RAW_COUNT 1 with rtc := { s.rtc with trim := due % 10000000 } }
  match s.rtc.write with
  | none => s.subCounts (due / 10000000)
  | some v =>
    if s.rtc.edges = 0 then { s with rtc := { s.rtc with edges := 1 } }.subCounts (due / 10000000) else s.putCalendar v

/-- The crystal over one engine clock (R351): 32,768 periods in 400,000,000 clocks, which is 32 parts of 390,625. It runs through
every power state (DESIGN CHOICE, log entry 61). -/
def State.tickRtc (s : State) : State :=
  let f := s.rtc.frac + 32
  if f < 390625 then { s with rtc := { s.rtc with frac := f } }
  else { s with rtc := { s.rtc with frac := f - 390625 } }.crystalEdge

/-- The written time that is pending is taken: the calendar clock edges come that are left (R351). -/
def State.applyWrite (s : State) : State :=
  let s := { s with rtc := { s.rtc with frac := 0 } }
  match s.rtc.write with
  | none => s
  | some _ => if s.rtc.edges = 0 then s.crystalEdge.crystalEdge else s.crystalEdge

/-- RTC_WRITE_APPLY (R351): the second calendar clock edge after the write. -/
def execRtcWriteApply (s : State) : Res := .next (if s.rtc.write.isSome then s.applyWrite else s)

/-- Time passes until SUBSEC has counted `n s` on: a written time that is due before then is taken first, and the count is that of
the new time; one that is not due yet has seen the calendar clock edges that pass (R351). -/
def State.calCounts (s : State) (n : State → Nat) : State :=
  let s := if s.rtc.write.isSome && decide (2 ≤ s.rtc.edges + s.periodsOf (n s)) then s.applyWrite else s
  let seen := if s.rtc.write.isSome then s.rtc.edges + s.periodsOf (n s) else 0
  ({ s with rtc := { s.rtc with frac := 0, edges := seen } }.rawPeriods (n s)).subCounts (n s)

/-- The counts of SUBSEC to its next wrap. -/
def State.toSecond (s : State) : Nat := 32768 - s.cal.sub

/-- The counts of SUBSEC until RTC_W256 comes to the next multiple of 2^K (R357). -/
def State.toWake (s : State) : Nat :=
  let k := 2 ^ min 24 (s.rd R.RTC_WAKE_K)
  128 * (k - s.rd R.RTC_W256_COUNT % k) - s.cal.sub % 128

/-- RTC_SECOND: SUBSEC counts to its wrap. -/
def execRtcSecond (s : State) : Res := .next (s.calCounts State.toSecond)

/-- RTC_LOAD_COMPLETE (R349): the next calendar second comes, and TIM takes it where a load is due. -/
def execRtcLoadComplete (s : State) : Res := .next (if s.tim.loading then s.calCounts State.toSecond else s)

/-- RTC_WAKE (R357): RTC_W256 comes to the next multiple of 2^K. -/
def execRtcWake (s : State) : Res := .next (if s.on R.RTC_WAKE_EN then s.calCounts State.toWake else s)

/-- RTC_OSC_STOP (R355). -/
def execRtcOscStop (s : State) : Res :=
  .next (if s.pwr.held then s.setOsf else s.setOsf.report R.RTC_LASTFAULT_FAULT 0x0D01)

/-- AON_SWITCHOVER (R356). -/
def execAonSwitchover (s : State) : Res :=
  let s := s.incSat R.RTC_SWCOUNT_COUNT
  if s.on R.RTC_FIRSTSW_VALID then .next s
  else .next ((s.wr R.RTC_FIRSTSW_TIME (s.rd R.RTC_TIME_TIME)).wr R.RTC_FIRSTSW_VALID 1)

/-- AON_RESET (R360, R439): every register of AON at its reset value, OSF and AONRST among them. -/
def execAonReset (s : State) : Res :=
  let s := (s.resetRegs 0x100F0000 0x10100000).resetRegs 0x1001003C 0x1001003D
  .next ({ s with rtc := {} }).setOsf

/-- A quotient rounded to the nearest integer, halves away from 0. -/
def nearest (a b : Nat) : Nat := (2 * a + b) / (2 * b)

/-- RTC_TRIM_UPDATE (R358). -/
def execRtcTrimUpdate (temp : BitVec 16) (s : State) : Res :=
  let d := (toSigned 16 temp.toNat - toSigned 16 (s.rd R.RTC_TRIM_T0)).natAbs
  let c : Int := (nearest (s.rd R.RTC_TRIM_CURV * d * d) 10000 : Int) - toSigned 16 (s.rd R.RTC_TRIMOFS_OFS) +
    toSigned 16 (s.rd R.RTC_TRIMOFS_RCORR)
  let c := min (max c (-2000)) 2000
  let s := (s.wr R.RTC_TRIMNOW_TEMP temp.toNat).wr R.RTC_TRIMNOW_C (ofSigned 16 c)
  .next (if c.natAbs = 2000 then s.report R.RTC_LASTFAULT_FAULT 0x0D03 else s)

/-! ### Second boundaries -/

/-- UPD_CONFLEFT reaches 0 (R414): fault 0x1009, line 123, FALLPEND. -/
def State.confExpired (s : State) : State :=
  if s.rd R.UPD_STAT_STATE ≠ 5 || s.on R.UPD_STAT_FALLPEND then s
  else
    (((s.wr R.UPD_CONFLEFT_SEC 0).report R.UPD_LASTFAULT_FAULT 0x1009).raise 123).wr R.UPD_STAT_FALLPEND 1

/-- CONFIRMATION_EXPIRED. -/
def execConfirmationExpired (s : State) : Res := .next s.confExpired

/-- One second less of TRIAL (R414, Table 20.4). -/
def State.confSecond (s : State) : State :=
  let n := s.rd R.UPD_CONFLEFT_SEC
  if s.rd R.UPD_STAT_STATE ≠ 5 || n = 0 then s
  else if n = 1 then s.confExpired else s.wr R.UPD_CONFLEFT_SEC (n - 1)

/-- A full UTC hour while SYNC is 1: the supervisor writes SYNCTIM (R354). -/
def State.hourly (s : State) : State :=
  if s.on R.TIM_STAT_SYNC && ((s.rd R.TIM_SEC_SEC : Int) - s.utcOfs) % 3600 = 0 then s.writeRtcCtrl 1 else s

/-- The standard of the rate measurement (R359): network time while SYNC is 1, else the main word while MAINS is its reference; with
it the count that a second brings, and the seconds of a window. -/
def State.rateStandard (s : State) : Option (Bool × Nat × Nat) :=
  if s.on R.TIM_STAT_SYNC then some (true, 1, 3600)
  else if s.domOn 10 && s.rd R.PHS_CFG_REF = 0 then some (false, if s.on R.PHS_CFG_MNOM then 60 else 50, 86400)
  else none

/-- RCORR from a window of `n` counts of a standard of `hz` counts a second (R359): what the crystal's measured rate needs beyond
what the trim in force gives without RCORR. The rule keeps the calendar to 0.5 ppm, five units, and within them the value is open
(DESIGN CHOICE, log entry 61). -/
def State.setRcorr (s : State) (raw n hz : Nat) : State :=
  let e : Int := ((raw * hz : Nat) : Int) * 10000000 / ((32768 * n : Nat) : Int) - 10000000
  let c : Int := toSigned 16 (s.rd R.RTC_TRIMOFS_RCORR) - toSigned 16 (s.rd R.RTC_TRIMNOW_C) - e + ((s.freeVal % 11 : Nat) : Int) - 5
  s.useFree.wr R.RTC_TRIMOFS_RCORR (ofSigned 16 (min (max c (-32768)) 32767))

/-- The supervisor's measurement of RCORR, looked at once a second (R359). -/
def State.measureRate (s : State) : State :=
  match s.rateStandard with
  | none => { s with rtc := { s.rtc with window := none } }
  | some (net, hz, len) =>
    let now := if net then s.rd R.TIM_SEC_SEC else s.rd R.PHS_PHASE_TURN
    let open' : State → State := fun s => { s with rtc := { s.rtc with window := some ⟨net, s.rd R.RTC_RAW_COUNT, now⟩ } }
    match s.rtc.window with
    | none => open' s
    | some w =>
      let n := if net then now - w.start else (now + 2 ^ 32 - w.start) % 2 ^ 32
      if w.net != net then open' s
      else if n < hz * len then s
      else open' (s.setRcorr ((s.rd R.RTC_RAW_COUNT + 2 ^ 48 - w.raw) % 2 ^ 48) n hz)

/-- What a second boundary of network time brings (R337, R350, R354, R359, R391, R414). -/
def State.timSecond (s : State) : State :=
  (((s.raise 107).fbsSnap.transfer).hourly.tallySecond).confSecond.measureRate

/-- A register of the settings that trims the calendar, written at every boot and with new settings (R359); RCORR, which is measured,
is kept. -/
def State.writeTrim (s : State) (a v : Nat) : State :=
  if a = 0x100F0038 then (s.wr R.RTC_TRIM_T0 (v % 65536)).wr R.RTC_TRIM_CURV (v / 65536 % 65536)
  else if a = 0x100F003C then s.wr R.RTC_TRIMOFS_OFS (v % 65536)
  else s

/-- T0, CURV and OFS from the module settings (R359). -/
def State.trimSettings (s : State) : State :=
  s.upd.settings.regs.foldl (fun s c => s.writeTrim c.1.toNat c.2.toNat) s

/-- TIM counts `n` clocks of 125 MHz, less than a second of them (R340). -/
def State.timCount (s : State) (n : Nat) : State :=
  let t := s.tim.ns * 2 ^ 32 + s.tim.frac + n * s.rd R.TIM_INCR_INCR
  let u := t / 2 ^ 32
  if u < 1000000000 then { s with tim := { s.tim with ns := u, frac := t % 2 ^ 32 } }
  else
    let s := { s with tim := { s.tim with ns := u - 1000000000, frac := t % 2 ^ 32 } }
    (s.inc R.TIM_SEC_SEC).timSecond

/-- TIM_SECOND_BOUNDARY: TIM counts at its rate to the next second (R340, R350). -/
def execTimSecondBoundary (s : State) : Res :=
  let left := 1000000000 * 2 ^ 32 - (s.tim.ns * 2 ^ 32 + s.tim.frac)
  .next (s.timCount (ceilDiv left (s.rd R.TIM_INCR_INCR)))

/-! ### The servo (R345, R346) -/

/-- HOLDOVER is entered from LOCKED: TIM_INCR takes the frequency term of the latest accepted Sync, once (R346). PHS follows that term
before it loses NET, so the rate that it holds is the new one (R44) (DESIGN CHOICE, log entry 70). -/
def State.enterHoldover (s : State) : State :=
  if s.rd R.TIM_STAT_STATE ≠ 2 then s
  else
    let s := s.writeIncr s.tim.freq
    { s.timState 3 (s.rd R.TIM_STAT_PORT) with tim := { s.tim with good := 0 } }

/-- The servo corrects an offset by TIM_INCR: the frequency term and the phase-correction term are the servo's own, and open. In
HOLDOVER it writes nothing until it locks again (DESIGN CHOICE, log entry 1). -/
def State.steer (s : State) : State :=
  if s.rd R.TIM_STAT_STATE = 3 then s
  else
    let f := s.freeVal % 2 ^ 40
    let t := s.useFree.freeVal % 2 ^ 40
    { s.useFree.useFree.writeIncr t with tim := { s.tim with freq := max 0x07FDF3B646 (min 0x08020C49BA f) } }

/-- PTP_SYNC (R345, R346); TLY_ALIGN follows RTC_UTCOFS (R391). While the clock runs on the RC oscillator, no Sync is accepted. -/
def execPtpSync (offset : DWord) (port : Bool) (utc : Option (BitVec 16)) (s : State) : Res :=
  if s.on R.SYS_STAT_CLKSRC || !s.domOn 7 then .next s
  else
    let s := match utc with
      | some u => (s.wr R.RTC_UTCOFS_OFS u.toNat).alignEpochs
      | none => s
    let e := toSigned 64 offset.toNat
    let s := s.wr R.TIM_STAT_PORT (b2n port)
    if 1000000 < e.natAbs then
      .next ({ s with tim := { s.tim with good := 0 } }.writeStep (ofSigned 64 (-e)))
    else
      let s := s.steer
      let n := if e.natAbs ≤ 1000 then s.tim.good + 1 else 0
      let s := { s with tim := { s.tim with good := min 16 n } }
      .next (if 16 ≤ n && s.rd R.TIM_STAT_STATE ≠ 2 then s.timState 2 (b2n port) else s)

/-- What makes the servo leave LOCKED does, but while the clock runs on the RC oscillator, when the servo does nothing (R346). -/
def State.servoHoldover (s : State) : State := if s.on R.SYS_STAT_CLKSRC then s else s.enterHoldover

/-- PTP_SYNC_TIMEOUT (R346). -/
def execPtpSyncTimeout (s : State) : Res :=
  .next { s.servoHoldover with tim := { s.servoHoldover.tim with good := 0 } }

/-- PTP_MASTER_CHANGE (R346). -/
def execPtpMasterChange (port : Bool) (s : State) : Res :=
  let s := s.servoHoldover
  .next { s.wr R.TIM_STAT_PORT (b2n port) with tim := { s.tim with good := 0 } }

end Sys2Proof.Machine
end

