-- ==== Sys2Proof/Machine/Update.lean ====
section
/-! DEFINITION. UPD: staging, schedules, the activation gap, settings, trial, confirmation and fallback (R401 to R420, R461,
R463). The instant at which a gap starts stands in Boundary.lean. -/

namespace Sys2Proof.Machine

/-! ### Images (R401, R402) -/

/-- The header of a firmware image (Table 17.1). -/
structure FwHeader where
  kind : Nat
  keyIdx : Nat
  hwMin : Nat
  version : Nat
  setfmt : Nat
  dualfmt : Nat
  migfrom : Nat
  profiles : Nat
  length : Nat
  deriving DecidableEq, Repr

/-- The header that an image begins with. -/
def fwHeader (im : List (BitVec 8)) : FwHeader :=
  let n := fun o k => leNat ((im.drop o).take k)
  ⟨n 4 1, n 5 1, n 6 1, n 8 4, n 0xC 2, n 0xE 2, n 0x10 2, n 0x14 4, n 0x18 4⟩

/-- The largest body of a kind. -/
def fwMax (kind : Nat) : Nat := if kind = 1 then 24 * 1048576 else 448 * 1024

/-- The structure and the digest of an image are right (check 1 of R404). -/
def fwShape (im : List (BitVec 8)) : Bool :=
  let h := fwHeader im
  let n := fun o k => leNat ((im.drop o).take k)
  n 0 4 == 0x4D575A4F && decide (1 ≤ h.kind) && decide (h.kind ≤ 3) && decide (h.keyIdx ≤ 3) && n 7 1 == 0 && n 0x12 2 == 0 &&
    n 0x1C 4 == 0 && decide (64 ≤ h.length) && decide (h.length ≤ fwMax h.kind) && im.length == 128 + h.length &&
    (h.kind == 1 || (h.setfmt == 0 && h.dualfmt == 0 && h.migfrom == 0 && h.profiles == 0)) &&
    (im.drop 0x20).take 32 == sha256 (im.drop 128)

/-- The key of the body's first 64 bytes is the one that KEYIDX names and is not revoked, and SIG verifies (check 2 of R404)
(DEDUCED, log entry 46). -/
def State.fwSigned (s : State) (im : List (BitVec 8)) : Bool :=
  let i := (fwHeader im).keyIdx
  let pub := (im.drop 128).take 64
  let sig := (im.drop 64).take 64
  beNat (sha256 pub) == Config.otpKeyHash i && !s.upd.revoked.contains i &&
    P256.verify (beNat (pub.take 32)) (beNat (pub.drop 32)) (beNat (sig.take 32)) (beNat (sig.drop 32)) (im.take 64)

/-- The first failure of a module image against the module, in the order of R404, or none. -/
def State.fwFault (s : State) (im : List (BitVec 8)) : Option Nat :=
  let h := fwHeader im
  let fmt := s.upd.settings.fmt.toNat
  let profile := fun p => decide (1 ≤ p) && bitOf h.profiles (p - 1)
  if !fwShape im then some 0x1001
  else if !s.fwSigned im then some 0x1002
  else if s.rd R.SYS_ID_ISSUE < h.hwMin || s.upd.twice || h.kind != 1 then some 0x1003
  else if !profile (s.rd R.SYS_PROFILE_ACTIVE) || !profile s.upd.settings.profile.toNat ||
      (s.rd R.UPD_CFG_SETMODE == 0 && decide (fmt < h.migfrom)) || (s.rd R.UPD_CFG_SETMODE == 1 && h.dualfmt != fmt) then
    some 0x1004
  else none

/-! ### Banks and refusal (R406) -/

/-- The bank registers as the banks stand, bank `active` running. -/
def State.showBanks (s : State) (active : Nat) : State :=
  let s := (s.wr R.UPD_BANK_ACTIVE active).wrB R.UPD_BANK_OTHERVALID (s.fwBank (1 - active)).valid
  (s.wr (R.UPD_VER_VERSION 0) s.upd.bankA.version).wr (R.UPD_VER_VERSION 1) s.upd.bankB.version

/-- The bank that is not running. -/
def State.otherBank (s : State) : Nat := 1 - s.rd R.UPD_BANK_ACTIVE

/-- BUSY but for staging itself: a gap, a load, a retain save or a retirement copy. -/
def State.updBusy (s : State) : Bool :=
  s.inGap || s.loadBusy || s.tsk.save.isSome || s.memx.retiring.isSome

/-- OWNER_LOCK, the one bit of UPD_STAT.REFUSE that is kept. -/
def State.ownerLock (s : State) : Bool := s.on R.UPD_STAT_OWNER_LOCK

/-- UPD_STAT.REFUSE as it is evaluated (R406). -/
def State.refuseBits (s : State) : Nat :=
  b2n s.moving + 2 * b2n s.cellLow + 4 * b2n s.ownerLock + 8 * b2n (s.rd R.UPD_STAT_STATE == 1 || s.updBusy)

/-- The slices of an image kind: 2 field, 3 metering. -/
def kindSlices (kind : Nat) : List Nat := if kind = 2 then [0, 1, 2, 3] else if kind = 3 then [4, 5] else []

/-- The image kind of a slice. -/
def sliceKind (sl : Nat) : Nat := if sl < 4 then 2 else 3

/-- UPD_SLSTAT of a slice. -/
def State.slStat (s : State) (sl : Nat) : Nat := s.rd R.UPD_SLSTAT_SLICE / 4 ^ sl % 4

/-- UPD_SLSTAT of a slice set. -/
def State.setSlStat (s : State) (sl v : Nat) : State :=
  s.wr R.UPD_SLSTAT_SLICE (s.rd R.UPD_SLSTAT_SLICE - s.slStat sl * 4 ^ sl + v * 4 ^ sl)

/-! ### Staging (R403 to R405) -/

/-- The bytes of a KIND that have come. -/
def State.stagedBytes (s : State) (kind : Nat) : List (BitVec 8) := sget [] s.upd.images kind

/-- The flash address of a firmware bank of the module (Table 11.7). -/
def fwBase (b : Nat) : Nat := b * 0x2000 * 4096

/-- The flash address of SLSTAGE, whose halves hold the field and the metering slice image (Table 11.7) (DESIGN CHOICE, log entry
33). -/
def stageBase : Nat := 0x4000 * 4096

/-- Where the bytes of a KIND lie in flash: the module's inactive bank, or SLSTAGE (R404, R405). -/
def State.stageAddr (s : State) (kind : Nat) : Nat := if kind = 1 then fwBase s.otherBank else stageBase + (kind - 2) % 2 * 0x100000

/-- The bytes of a KIND as flash holds them (R404, R405). -/
def State.stagedImage (s : State) (kind : Nat) : List (BitVec 8) :=
  readBytes s.legible (s.stageAddr kind) (s.stagedBytes kind).length

/-- A new set: the inactive banks of the module and of the slices are empty, in flash as soon as NVS can (R429). -/
def State.emptyInactive (s : State) : State :=
  let b := s.otherBank
  let s := (s.nvsPut (.trim (fwBase b) 0x2000000)).nvsPut (.trim stageBase 0x200000)
  let s := (s.claimBlocks (fwBase b / 4096) 0x2000).claimBlocks 0x4000 512
  let s := s.setBank b { valid := false }
  let s : State := (List.range 6).foldl (fun s n => s.setSlice n { s.sliceOf n with staged := none }) s
  let s := { s with upd := { s.upd with images := [], whole := [], verified := false, twice := false } }
  (s.wr R.UPD_SLSTAT_SLICE 0).showBanks (s.rd R.UPD_BANK_ACTIVE)

/-- A chunk laid over what has come of an image; bytes not sent are those of an empty bank. -/
def layChunk (old chunk : List (BitVec 8)) (ofs : Nat) : List (BitVec 8) :=
  old.take ofs ++ zeros (ofs - old.length) ++ chunk ++ old.drop (ofs + chunk.length)

/-- A chunk accepted. The chunk that begins a set empties the inactive banks: in IDLE any chunk, in STAGED one of a KIND that the
set already holds (DEDUCED, log entry 44). -/
def State.takeChunk (s : State) (kind ofs : Nat) (chunk : List (BitVec 8)) (last : Bool) : State :=
  let fresh := s.rd R.UPD_STAT_STATE = 0 || (s.rd R.UPD_STAT_STATE = 2 && s.upd.whole.contains kind)
  let s := if fresh then s.emptyInactive else s
  let again := s.upd.whole.contains kind
  let old := if again then [] else s.stagedBytes kind
  let s := s.nvsPut (.put (s.stageAddr kind + ofs) chunk)
  let s := { s with upd := { s.upd with
    images := sput [] s.upd.images kind (layChunk old chunk ofs)
    whole := (s.upd.whole.filter (· != kind)) ++ if last then [kind] else []
    twice := s.upd.twice || again } }
  s.updState 1

/-- A staging message refused (line 121). -/
def State.refuseStage (s : State) (q : Ask) (fault : Nat) : State := (s.updRefuse fault).answer q fault []

/-- A stage message: refused by state, by REFUSE, by its KIND or beyond the largest image; else taken (R403, R406). In pit mode only a
module image can be staged (R435). -/
def State.stageMsg (s : State) (q : Ask) (kind ofs : Nat) (chunk : List (BitVec 8)) (last : Bool) : State :=
  let st := s.rd R.UPD_STAT_STATE
  if s.on R.PWR_STAT_PIT && kind != 1 then (s.report R.PWR_LASTFAULT_FAULT 0x0208).answer q 0x0208 []
  else if 3 ≤ st || s.moving || s.cellLow || s.ownerLock || s.updBusy then s.refuseStage q 0x1005
  else if kind = 0 || 3 < kind then s.refuseStage q 0x1003
  else if 128 + fwMax kind < ofs + chunk.length then s.refuseStage q 0x1001
  else (s.takeChunk kind ofs chunk last).answer q 0 []

/-- STAGE. -/
def execStage (sess : Fin 9) (reqid : Word) (kind : Byte) (offset : Word) (chunk : List Byte) (last : Bool) (s : State) :
    Res :=
  let q : Ask := ⟨sess.val, 0x70, reqid.toNat⟩
  .next (s.ask q (fun s => s.stageMsg q kind.toNat offset.toNat chunk last) chunk.length)

/-- A set refused: STATE is IDLE, and the running banks are untouched. -/
def State.refuseSet (s : State) (fault : Nat) : State :=
  let s := { s with upd := { s.upd with images := [], whole := [], verified := false, twice := false } }
  (s.updState 0).updRefuse fault

/-- The module image of the set, verified in the inactive bank. -/
def State.bankImage (s : State) (im : List (BitVec 8)) : State :=
  let b := s.otherBank
  let h := fwHeader im
  let s := s.setBank b ⟨true, h.version, h.setfmt, h.dualfmt, h.migfrom, h.profiles⟩
  { s with upd := { s.upd with verified := true } }.showBanks (s.rd R.UPD_BANK_ACTIVE)

/-- The absent slices of the staged kinds are shown (R405). -/
def State.showAbsent (s : State) : State :=
  (s.upd.whole.flatMap kindSlices).foldl (fun s n => if s.present n then s else s.setSlStat n 3) s

/-- STAGE_VERIFY_DONE (R404): the set as flash holds it is refused, or STAGED once its module image has verified and no KIND is
partly staged. Nothing is verified before all of it is in flash, where a warning suspends staging (R429). -/
def execStageVerifyDone (s : State) : Res :=
  if s.rd R.UPD_STAT_STATE ≠ 1 || s.upd.whole.isEmpty || !s.nvsFree || !s.nvs.due.isEmpty then .next s
  else if s.upd.whole.contains 1 then
    let im := s.stagedImage 1
    match s.fwFault im with
    | some f => .next (s.refuseSet f)
    | none =>
      let s := (s.bankImage im).showAbsent
      if s.upd.images.all fun c => s.upd.whole.contains c.1 then .next (s.updState 2) else .next s
  else if s.upd.twice then .next (s.refuseSet 0x1003)
  else .next s.showAbsent

/-- The activation of this module is aborted (R405): STATE returns to STAGED. -/
def State.abortActivation (s : State) (fault : Nat) : State := (s.updState 2).updRefuse fault

/-- A slice image verifies under R402. -/
def State.sliceImageOk (s : State) (kind : Nat) : Bool :=
  let im := s.stagedImage kind
  fwShape im && s.fwSigned im && (fwHeader im).kind == kind

/-- SLICE_IMAGE_VERIFIED (R405). -/
def execSliceImageVerified (sl : AnySlice) (ok : Bool) (s : State) : Res :=
  let k := sliceKind sl.val
  let st := s.rd R.UPD_STAT_STATE
  if st = 0 || 3 < st || !s.upd.whole.contains k || !s.present sl.val then .next s
  else
    let good := ok && s.sliceImageOk k
    let v := s.sliceOf sl.val
    let s := s.setSlice sl.val { v with staged := if good then some (fwHeader (s.stagedImage k)).version else none }
    let s := s.setSlStat sl.val (if good then 1 else 2)
    .next (if !good && st = 3 then s.abortActivation 0x1006 else s)

/-- SLICE_VERIFY_DEADLINE (R405): at ACTTIME - 500 ms a slice of a staged kind that is not present, or has not reported OK, aborts the
activation. -/
def execSliceVerifyDeadline (s : State) : Res :=
  let s := if s.rd R.UPD_STAT_STATE = 3 then s.showAbsent else s
  if s.rd R.UPD_STAT_STATE = 3 && (s.upd.whole.flatMap kindSlices).any fun n => s.slStat n != 1 then
    .next (s.abortActivation 0x1006)
  else .next s

/-! ### Schedule, abort, confirm, lock -/

/-- A message refused with its fault. -/
def State.refuseMsg (s : State) (q : Ask) (fault : Nat) : State := (s.report R.UPD_LASTFAULT_FAULT fault).answer q fault []

/-- A schedule message (R406, R407). -/
def State.scheduleMsg (s : State) (q : Ask) (time group : Nat) : State :=
  let st := s.rd R.UPD_STAT_STATE
  if (st ≠ 2 && st ≠ 3) || s.refuseBits ≠ 0 then s.refuseMsg q 0x1005
  else if time < s.tstampNow + 2000000000 then s.refuseMsg q 0x100B
  else (((s.wr R.UPD_ACTTIME_TIME time).wr R.UPD_GROUP_GROUP group).updState 3).answer q 0 []

/-- SCHEDULE. -/
def execSchedule (sess : Fin 9) (reqid : Word) (time : DWord) (group : BitVec 16) (s : State) : Res :=
  let q : Ask := ⟨sess.val, 0x71, reqid.toNat⟩
  .next (s.ask q fun s => s.scheduleMsg q time.toNat group.toNat)

/-- The trial ends with the new firmware: with SETMODE = DUAL the settings are written in its format alone from now on (R413, R415). -/
def State.confirm (s : State) : State :=
  let s := { s with upd := { s.upd with fallDue := none, heldOff := false } }
  let s := ((s.updState 0).wr R.UPD_STAT_FALLPEND 0).wr R.UPD_CONFLEFT_SEC 0
  if s.on R.UPD_CFG_SETMODE then
    s.putSettings { s.upd.settings with fmt := BitVec.ofNat 16 (s.fwBank s.upd.marked).setfmt } s.upd.owner
  else s

/-- CONFIRM (R415). -/
def execConfirm (sess : Fin 9) (reqid : Word) (s : State) : Res :=
  let q : Ask := ⟨sess.val, 0x72, reqid.toNat⟩
  .next (s.ask q fun s =>
    if s.rd R.UPD_STAT_STATE ≠ 5 then s.refuseMsg q 0x1005 else s.confirm.answer q 0 [])

/-- An abort message for the module's group (Table 17.2). -/
def State.abortMsg (s : State) (q : Ask) (group : Nat) : State :=
  if group ≠ s.rd R.UPD_GROUP_GROUP then s.answer q 0 []
  else
    match s.rd R.UPD_STAT_STATE with
    | 3 => ((s.updState 2).raise 121).answer q 0 []
    | 1 | 2 =>
      let s := { s with upd := { s.upd with images := [], whole := [], verified := false, twice := false } }
      (s.updState 0).answer q 0 []
    | _ => s.answer q 0 []

/-- ABORT. -/
def execAbort (sess : Fin 9) (reqid : Word) (group : BitVec 16) (s : State) : Res :=
  let q : Ask := ⟨sess.val, 0x73, reqid.toNat⟩
  .next (s.ask q fun s => s.abortMsg q group.toNat)

/-- What a lock message's MAC is over (Table 17.2). -/
def State.lockText (s : State) (value : BitVec 8) : List (BitVec 8) :=
  asciiOf "lock" ++ macBytes ++ [value] ++ toLE 4 (s.rd R.UPD_LOCKCNT_COUNT)

/-- A lock message (R406): with a valid MAC under K02, OWNER_LOCK takes its value. -/
def State.lockMsg (s : State) (q : Ask) (value : BitVec 8) (mac : List (BitVec 8)) : State :=
  if 1 < value.toNat || !s.slotHas 2 2 || hmac256 (s.slotKey 2) (s.lockText value) ≠ mac then s.refuseMsg q 0x100A
  else ((s.wrB R.UPD_STAT_OWNER_LOCK (value == 1)).inc R.UPD_LOCKCNT_COUNT).answer q 0 []

/-- LOCK. -/
def execLock (sess : Fin 9) (reqid : Word) (value : Byte) (mac : List Byte) (s : State) : Res :=
  let q : Ask := ⟨sess.val, 0x74, reqid.toNat⟩
  .next (s.ask q fun s => s.lockMsg q value mac)

/-! ### Settings (R412, R413) -/

/-- SETTINGS_GET. -/
def execSettingsGet (sess : Fin 9) (reqid : Word) (s : State) : Res :=
  let q : Ask := ⟨sess.val, 0x75, reqid.toNat⟩
  .next (s.ask q fun s => s.answer q 0 (recordBytes s.upd.settings))

/-- SETTINGS_PUT: in STOP only; the owner node is clear-written with the tree below it and kept wrapped by K00 (R372); T0, CURV and
OFS of RTC follow the settings (R359). -/
def execSettingsPut (sess : Fin 9) (reqid : Word) (record : SettingsRec) (owner : Option (List Byte)) (s : State) : Res :=
  let q : Ask := ⟨sess.val, 0x76, reqid.toNat⟩
  .next (s.ask q fun s =>
    if s.mode ≠ 0 || s.inGap then s.refuseMsg q 0x1005
    else
      let s := s.putSettings record s.upd.owner
      let s := match owner with
        | some node => s.commission (fitBytes 32 node)
        | none => s
      s.trimSettings.answer q 0 [])

/-! ### The gap (R407 to R413, R416) -/

/-- Step 3 of Table 17.3: the save is complete, and the new bank is marked active in flash, once NVS can serve the supervisor (R291,
R429). -/
def State.gapMark (s : State) : State :=
  match s.upd.gap with
  | some g =>
    if g.marked || g.aborted || s.tsk.save.isSome || !s.nvsFree || s.upd.setDue then s
    else { s with upd := { s.upd with marked := s.otherBank, firstStart := !g.fallback, gap := some { g with marked := true } } }
  | none => s

/-- What is under way at the starting boundary: a STOP request is kept, every other mode request and an entry to RUN whose checks have
passed are refused (R459, R461); a RUN request that waits for the gap stays (R416). -/
def State.gapRequests (s : State) : State :=
  let rest := s.tsk.requests.filter fun r => match r with
    | .stop _ => false
    | _ => true
  let s : State := rest.foldl (fun s _ => s.refuseMode) s
  match s.tsk.entry with
  | .none | .waitGap _ => s
  | _ => s.dropEntry.refuseMode

/-- A gap starts (R408): STATE is GAP or FALLBACK, the controller is in STOP with cause 9, and a save starts. -/
def State.gapStart (s : State) (fallback : Bool) (cause : Nat) : State :=
  let run := s.mode = 1
  let stop := s.tsk.requests.any fun r => match r with
    | .stop _ => true
    | _ => false
  let g : Gap :=
    { start := s.clk, fromRun := run, marked := false, toStop := stop, fallback := fallback, cause := cause, switched := false
      oldVer := (s.fwBank (s.rd R.UPD_BANK_ACTIVE)).version, newVer := (s.fwBank s.otherBank).version
      stopped := s.on R.TSK_STAT_FLT }
  let s := s.gapRequests
  let s := { s with upd := { s.upd with gap := some g, fallDue := none, ended := none } }
  let s := if s.on R.TIM_STAT_SYNC then s else s.wr R.UPD_STAT_UNSYNCACT 1
  let s := s.updState (if fallback then 6 else 4)
  let s := if run then s.enterStop 9 else (s.quiesce.wr R.TSK_STAT_CAUSE 9).startSave 2
  s.gapMark

/-- The start of a gap at a boundary (step 4 of R459): a fallback that is due, or a schedule whose ACTTIME has come. REFUSE
refuses an activation, and HOLD refuses both (R406, R408, R416). -/
def State.gapBoundary (s : State) : State :=
  if s.upd.gap.isSome then s
  else
    match s.upd.fallDue with
    | some cause =>
      if s.rd R.UPD_STAT_STATE ≠ 5 then { s with upd := { s.upd with fallDue := none } }
      else if s.mode = 2 then { s.updRefuse 0x1007 with upd := { s.upd with fallDue := none } }
      else s.gapStart true cause
    | none =>
      if s.rd R.UPD_STAT_STATE ≠ 3 || decide (s.tstampNow < s.rd R.UPD_ACTTIME_TIME) then s
      else if s.refuseBits ≠ 0 then s.abortActivation 0x1005
      else if s.mode = 2 then s.abortActivation 0x1007
      else s.gapStart false 0

/-- SLICE_BANK_SWITCH (R411): at the switch frame every slice with a verified image starts it, its channel cells held; a metering
slice that runs saves its accumulators and stops sampling (R266). -/
def State.switchSlice (s : State) (n : Nat) : State :=
  let v := s.sliceOf n
  match v.staged with
  | some ver =>
    let s := if 4 ≤ n then
        let s := s.saveAcc (n - 4)
        if v.up then s.setFeeder (n - 4) { s.feeder (n - 4) with gapClk := some s.clk } else s
      else s
    s.setSlice n { v with up := false, version := ver % 65536, bank := 1 - v.bank % 2, staged := some v.version, switching := true }
  | none => s

/-- SLICE_BANK_SWITCH: an abort has cancelled the switch frame (R464). -/
def execSliceBankSwitch (s : State) : Res :=
  match s.upd.gap with
  | some g =>
    if g.switched || g.aborted then .next s
    else
      let s : State := { s with upd := { s.upd with gap := some { g with switched := true } } }
      .next ((List.range 6).foldl State.switchSlice s)
  | none => .next s

/-- The settings of the backup slot restored (R413); where they bring back another owner node, KEY's tree follows. -/
def State.restoreBackup (s : State) : State :=
  match s.upd.backup with
  | none => s.putSettings s.upd.settings s.upd.owner
  | some c =>
    let t := { s.putSettings c.record c.owner with upd := { (s.putSettings c.record c.owner).upd with backup := none } }
    if c.owner = s.upd.owner || !s.domOn 9 || !bitOf (s.rd R.PWR_DOMSTAT_READY) 9 then t
    else if s.on R.KEY_RESULT_BUSY then { t with key := { t.key with due := t.key.due ++ [.reload] } }
    else t.loadOwner

/-- The settings converted to the format of the bank that now runs, the old record kept in the backup slot (R413). -/
def State.convertSettings (s : State) : State :=
  let t := { s with upd := { s.upd with backup := some ⟨s.upd.settings, s.upd.owner, 0⟩ } }.claimBlocks backupLba 256
  t.putSettings { s.upd.settings with fmt := BitVec.ofNat 16 (s.fwBank s.upd.marked).setfmt } s.upd.owner

/-- The settings cross to the bank that now runs (R413). -/
def State.crossSettings (s : State) (fallback : Bool) : State :=
  let dual := s.on R.UPD_CFG_SETMODE
  if fallback then
    if dual then s.putSettings { s.upd.settings with fmt := BitVec.ofNat 16 (s.fwBank s.upd.marked).setfmt } s.upd.owner
    else s.restoreBackup
  else if dual then { s with upd := { s.upd with firstStart := false } }
  else s.convertSettings

/-- The migration has failed: 0x1008, the old bank is marked active, and the gap goes through steps 3 to 5 of Table 17.3 once more,
slices that have switched switching back (R413) (DEDUCED, log entry 46). -/
def State.migrationFailed (s : State) (g : Gap) : State :=
  let g := { g with cause := 1, newVer := g.oldVer, switched := !g.switched }
  { s.report R.UPD_LASTFAULT_FAULT 0x1008 with
    upd := { s.upd with gap := some g, marked := s.rd R.UPD_BANK_ACTIVE, firstStart := false } }

/-- GAP_END (R410): the new firmware runs with its settings, or after a failed migration the old one again with its own (R413); the
controller's part follows. -/
def execGapEnd (migrateFailed : Bool) (s : State) : Res :=
  match s.upd.gap with
  | some g =>
    if !g.marked || g.closed || s.upd.ended.isSome then .next s
    else if migrateFailed && g.cause == 0 && !g.fallback && !s.on R.UPD_CFG_SETMODE then .next (s.migrationFailed g)
    else
      let s := { s with upd := { s.upd with gap := some { g with closed := true } } }
      let s := s.showBanks s.upd.marked
      .next (if g.cause = 1 then s else s.crossSettings g.fallback).gapGo
  | none => .next s

/-- FALLBACK_SLOT (R414): the UTC time of day passes UPD_FALLSLOT; a passing that a backward step of TIM owes does not count again
(Table 20.4). -/
def execFallbackSlot (s : State) : Res :=
  if s.upd.slotBack = 0 then .next s.fallTrigger
  else .next { s with upd := { s.upd with slotBack := s.upd.slotBack - 1 } }

/-- FALLBACK_RETRY (R416). -/
def execFallbackRetry (s : State) : Res := if s.upd.heldOff then .next s.fallTrigger else .next s

end Sys2Proof.Machine
end

