-- ==== Sys2Proof/Machine/RegSpace.lean ====
section
/-! DEFINITION. Accesses on the bus: register space with its access codes, what the registers do on an access, the stores, DRAM
behind its front (R5 to R11, R14 to R23, R281, R426). -/

namespace Sys2Proof.Machine

/-! ### What a register reads as -/

/-- The domain of the block whose window holds an address (R426). -/
def blockDom (a : Nat) : Nat :=
  match (a - 0x10000000) / 0x10000 with
  | 2 | 9 => 10
  | 4 | 5 => 2
  | 6 | 7 => 3
  | 8 => 4
  | 10 => 15
  | 11 => 5
  | 12 => 7
  | 13 => 8
  | 16 => 9
  | 19 => 6
  | _ => 1

/-- The FBS registers from 0x3F00 appear in every window (R339). -/
def regAlias (a : Nat) : Nat :=
  if 0x100D0000 ≤ a && decide (a < 0x100E0000) && decide (0x3F00 ≤ a % 0x4000) then 0x100D0000 + a % 0x4000 else a

/-- What the fields of a register that hold state read as: WO fields read as 0 (R6, R9). -/
def State.regFields (s : State) (r : RegSpec) (a : Nat) : Nat :=
  r.fields.foldl (fun v f => if f.acc = .WO then v else v + s.rd (f.fld a) * 2 ^ f.lo) 0

/-- What a register reads as. MACADDR, TIM_NOW, UPD_STAT.REFUSE, RXFULL and LPE_CDATA are read from where their value stands. -/
def State.regValue (s : State) (r : RegSpec) (a : Nat) : Nat :=
  if a = 0x100C0060 then Config.macAddr % 2 ^ 48
  else if a = 0x100E0010 then s.tstampNow
  else if a = 0x10120000 then
    let v := s.regFields r a
    v - v / 16 % 16 * 16 + s.refuseBits * 16
  else if 0x100D0000 ≤ a && decide (a < 0x100E0000) && a % 0x4000 == 0x10 then
    let n := (a - 0x100D0000) / 0x4000
    withBit (s.regFields r a) 3 (s.ringFull n)
  else if a = 0x10080034 then s.readCdata
  else s.regFields r a

/-- The RC fields of a register that a read of `mask` covers: each then holds only what hardware added in that clock (R7). -/
def State.clearRC (s : State) (r : RegSpec) (a mask added : Nat) : State :=
  r.fields.foldl (fun s f =>
    if f.acc = .RC && bitOf mask f.lo then s.wr (f.fld a) (added / 2 ^ f.lo) else s) s

/-- A read of the bits `mask` of the register at `a`; a 64-bit read of TIM_SEC latches TIM_NSF (R343). -/
def State.readReg (s : State) (r : RegSpec) (a mask added : Nat) : State × Nat :=
  let v := s.regValue r a &&& mask
  let s := s.clearRC r a mask added
  (if a = 0x100E0000 && mask == 2 ^ 64 - 1 then s.readSec else s, v)

/-- A naturally aligned 32-bit read at `a` (R10): a 32-bit register, or a half of a 64-bit one. -/
def State.readReg32 (s : State) (a added : Nat) : State × Nat :=
  match regAt a with
  | some r => s.readReg r a 0xFFFFFFFF added
  | none =>
    match (if a % 8 = 4 then regAt (a - 4) else none) with
    | some r =>
      if r.width = 64 then
        let p := s.readReg r (a - 4) (0xFFFFFFFF * 2 ^ 32) (added * 2 ^ 32)
        (p.1, p.2 / 2 ^ 32)
      else (s, 0)
    | none => (s, 0)

/-- A read of `n` bytes in register space (R10). -/
def State.readRegs (s : State) (a n added : Nat) : State × Nat :=
  let a := regAlias a
  if n = 4 && a % 4 == 0 then s.readReg32 a added
  else if n = 8 && a % 8 == 0 then
    match (regAt a).filter fun r => r.width == 64 with
    | some r => s.readReg r a (2 ^ 64 - 1) added
    | none =>
      let lo := s.readReg32 a (added % 2 ^ 32)
      let hi := lo.1.readReg32 (a + 4) (added / 2 ^ 32)
      (hi.1, lo.2 + hi.2 * 2 ^ 32)
  else (s, 0)

/-! ### What a register write does -/

/-- A write of SYS_STAT: the W1C bits; BREACH and UNMAP re-arm their latches (R20, R22). -/
def State.clearStat (s : State) (v : Nat) : State :=
  let s := if bitOf v 1 then s.wr R.SYS_STAT_XTFAIL 0 else s
  let s := if bitOf v 2 then
      (((s.wr R.SYS_STAT_BREACH 0).wr R.SYS_BREACH_INFO_MASTER 0).wr R.SYS_BREACH_INFO_COUNT 0).wr R.SYS_BREACH_INFO_TASK 0x3F
    else s
  if bitOf v 3 then
    (((s.wr R.SYS_STAT_UNMAP 0).wr R.SYS_UNMAP_INFO_MASTER 0).wr R.SYS_UNMAP_INFO_WRITE 0).wr R.SYS_UNMAP_INFO_COUNT 0
  else s

/-- A write of PWR_CTRL (R433, R435, R437). -/
def State.writePwrCtrl (s : State) (v : Nat) : State :=
  let s := if bitOf v 0 then s.resetPath 3 else s
  let s := if bitOf v 1 then s.sleepRequest else s
  if bitOf v 2 then s.pitRequest else s

/-- A write of the control word of a NET ring (R303, R304). -/
def State.writeRingCtl (s : State) (n v : Nat) : State :=
  let s := if bitOf v 0 then s.enableRing n else s.wr (R.NET_RING_CTL_EN n) 0
  if n < 4 && bitOf v 1 then s.netBegin.examineRings else s

/-- A write of a bucket's status word: OVF is W1C, and CLR zeroes LEVEL (R277). -/
def State.writeBucket (s : State) (b v : Nat) : State :=
  let s := if bitOf v 16 then s.wr (R.MEM_BKT_OVF b) 0 else s
  if bitOf v 17 then s.wr (R.MEM_BKT_LEVEL b) 0 else s

/-- A write of a register of an FBS channel that starts an action, by its offset in the channel's window. -/
def State.fbsAction (s : State) (n o v : Nat) : Option State :=
  match o with
  | 0x0 => some (if bitOf v 0 then s.fbsEnable n v else s.fbsDisable n v)
  | 0x18 => some (if bitOf v 0 then s.fbsRecover n else s)
  | 0x20 => some (s.txRequest n v)
  | 0x24 => some (s.txCancel n v)
  | 0x40 => some (s.rxbaseWrite n v)
  | 0x3F18 => some (if bitOf v 0 then s.fbsSnap else s)
  | _ => none

/-- A write of a register of NET that does more than set its fields. -/
def State.netAction (s : State) (o v : Nat) : Option State :=
  if o = 0x2C then some (s.wr R.NET_TXTHR_BYTES (max 256 (min 9216 (v % 2 ^ 14))))
  else if o = 0x94 then some (if bitOf v 0 then s.popStamp else s)
  else if 0x100 ≤ o && decide (o < 0x1C0) && o % 0x20 == 0x0C then some (s.writeRingCtl ((o - 0x100) / 0x20) v)
  else none

/-- A write of a register of TSK that does more than set its fields: TSK_CTRL and the force table. -/
def State.tskAction (s : State) (o v : Nat) : Option State :=
  let n := (o - 0x2000) / 32
  if o = 0x8 then some (s.writeTskCtrl v)
  else if o < 0x2000 then none
  else if o % 32 = 0 then some (s.writeForce n (v % 4096) (s.rd (R.TSK_FORCE_VALUE_VALUE n)) (bitOf v 15))
  else if o % 32 = 8 then some (s.writeForce n (s.rd (R.TSK_FORCE_CTL_POINT n)) v (s.on (R.TSK_FORCE_CTL_EN n)))
  else none

/-- A write of the register at `a` that has an action in place of setting its fields: `v` is the value with the bits not written
as they stand, and `whole` says whether all of a 64-bit register is written (DEDUCED, log entry 9). -/
def State.regAction (s : State) (a v : Nat) (whole : Bool) : Option State :=
  let o := a % 0x10000
  match (a - 0x10000000) / 0x10000 with
  | 0 => if o = 0x8 then some (s.clearStat v) else none
  | 1 => if o = 0x8 then some (s.writePwrCtrl v) else if o = 0x10 then some (s.writeDomen v) else none
  | 2 =>
    if o = 0 then some (s.writePhsCfg v)
    else if o = 0x10 then some (s.writePhsCtrl v)
    else if 0x4000 ≤ o then some (s.writeSlot ((o - 0x4000) / 16) (o % 16 / 4) v) else none
  | 3 => s.tskAction o v
  | 8 =>
    if o = 0x34 then some (s.writeCdata v)
    else if 0x1000 ≤ o && decide (o < 0x5000) then some (s.writeLdecl ((o - 0x1000) / 64) (o % 64 / 4) v) else none
  | 9 => if o % 0x2000 = 0x2A0 then some (s.releaseDo (o / 0x2000) v) else none
  | 11 =>
    if o = 0x100 then some (s.spoilCmd v)
    else if 0x40 ≤ o && decide (o < 0x80) && o % 16 == 0 then some (s.writeBucket ((o - 0x40) / 16) v) else none
  | 12 => s.netAction o v
  | 13 => s.fbsAction (o / 0x4000) (o % 0x4000) v
  | 14 =>
    if o = 0x18 then some (s.writeIncr v)
    else if o = 0x20 then some (if whole then s.writeStep v else s)
    else if o = 0x40 then some (s.writeTimCtrl v) else none
  | 15 =>
    if o = 0 then some (if whole then s.writeCalendar v else s)
    else if o = 0x10 then some (s.writeRtcCtrl v) else none
  | 16 => if o = 0x18 then some (s.flreqWrite v) else if o = 0x40 then some (s.keyStart v) else none
  | 19 => if o = 0x8 then some (s.nvsStart (v % 4) []) else none
  | _ => none

/-- The fields of a register set as their access codes say (R6), from `v` over the bits of `mask`; W1C bits written as 1 clear. -/
def State.setFields (s : State) (r : RegSpec) (a v mask : Nat) : State :=
  r.fields.foldl (fun s f =>
    let old := s.rd (f.fld a)
    match f.acc with
    | .RW => s.wr (f.fld a) (v / 2 ^ f.lo)
    | .RWL => if s.mode = 0 then s.wr (f.fld a) (v / 2 ^ f.lo) else s
    | .WO => s.wr (f.fld a) (v / 2 ^ f.lo)
    | .W1C => s.wr (f.fld a) (old ^^^ (old &&& ((v &&& mask) / 2 ^ f.lo % 2 ^ f.width)))
    | .RO | .RC => s) s

/-- The value that a write of the bits `mask` brings to a register: the bits not written keep what RW and RWL fields hold. -/
def State.merged (s : State) (r : RegSpec) (a v mask : Nat) : Nat :=
  let keep := r.fields.foldl (fun k f =>
    if f.acc = .RW || f.acc = .RWL then k + s.rd (f.fld a) * 2 ^ f.lo else k) 0
  (v &&& mask) ||| (keep &&& ((2 ^ 64 - 1) ^^^ mask))

/-- The reference that the main word follows has itself been changed, in STOP: the word relocks to it (R46) (DEDUCED, log
entry 29). -/
def State.rerefer (s : State) (r : Nat) : State :=
  if s.mode = 0 && s.rd R.PHS_CFG_REF = r && !s.on R.PHS_STAT_LOST then (s.showBand r).relock r else s

/-- The band has been written, in STOP (R41): the word of a lost reference stays inside it, else BANDX shows whether the reference
lies in it and the word relocks to the reference (R46) (DEDUCED, log entry 29). -/
def State.reband (s : State) : State :=
  if s.on R.PHS_STAT_LOST then s.track s.phs.trackInc else s.rerefer (s.rd R.PHS_CFG_REF)

/-- What follows a write in the window of slice `n`: a WDTRIP that has been cleared is cleared in the slice too (DESIGN CHOICE, log
entry 56), a slice in safe state follows new safe values (R243), and DO channels new settings. -/
def State.afterSlice (s : State) (n o : Nat) : State :=
  let v := s.sliceOf n
  if o = 8 && decide (n < 6) && bitOf (sget 0 s.ring.status n) 7 && !s.on (R.SLR_SSTAT_WDTRIP n) then
    s.setSlice n { v with tripped := false }
  else if n < 4 && decide (0x200 ≤ o) && decide (o < 0x380) then (s.resafe n).settleDo n
  else s

/-- What follows where a register has taken new values: the band and the references of the main word, DO channels, links, the
buffers of FBS and the epoch. -/
def State.afterSet (s : State) (a : Nat) : State :=
  let o := a % 0x10000
  match (a - 0x10000000) / 0x10000 with
  | 2 =>
    if o = 0x18 || o = 0x1C then s.reband
    else if o = 0x20 then s.rerefer 1
    else if o = 0x24 then s.rerefer 2
    else if o = 0x88 then s.rerefer 0 else s
  | 9 => s.afterSlice (o / 0x2000) (o % 0x2000)
  | 12 =>
    if o = 0x10 || o = 0x14 then
      let p := (o - 0x10) / 4
      if s.on (R.NET_PORTCFG_EN p) then s else s.setLink p false 0
    else s
  | 13 =>
    let n := o / 0x4000
    let q := o % 0x4000
    if 0x100 ≤ q && q < 0x280 && q % 0x80 != 0x08 && q % 0x80 != 0x0C && s.bufState n ((q - 0x100) / 0x80) == 1 then s.wr (R.FBS_STAT_WRPEND n) 1
    else if q = 0x48 || q = 0x50 then s.ringRoom n
    else s
  | 17 => if o = 0 then { s with tly := { s.tly with epochWritten := true } } else s
  | _ => s

/-- A write of the bits `mask` of the register at `a`. -/
def State.writeReg (s : State) (r : RegSpec) (a v mask : Nat) : State :=
  let m := s.merged r a v mask
  match s.regAction a m (mask == 2 ^ 64 - 1) with
  | some t => t
  | none => (s.setFields r a m mask).afterSet a

/-- A naturally aligned 32-bit write at `a` (R10). -/
def State.writeReg32 (s : State) (a v : Nat) : State :=
  match regAt a with
  | some r => s.writeReg r a v 0xFFFFFFFF
  | none =>
    match (if a % 8 = 4 then regAt (a - 4) else none) with
    | some r => if r.width = 64 then s.writeReg r (a - 4) (v * 2 ^ 32) (0xFFFFFFFF * 2 ^ 32) else s
    | none => s

/-- A register that a write only sets: no action takes the place of its fields. -/
def State.plain (s : State) (a : Nat) : Bool := (s.regAction a 0 true).isNone

/-- The fields of a 32-bit register set, where it is one that a write only sets. -/
def State.setPlain (s : State) (a v : Nat) : State :=
  match regAt a with
  | some r => if s.plain a then s.setFields r a (s.merged r a v 0xFFFFFFFF) 0xFFFFFFFF else s
  | none => s

/-- What follows where a 32-bit register has taken new values. -/
def State.afterPlain (s : State) (a : Nat) : State := if (regAt a).isSome && s.plain a then s.afterSet a else s

/-- The action of a 32-bit register that has one. -/
def State.actHalf (s : State) (a v : Nat) : State :=
  match regAt a with
  | some r => (s.regAction a (s.merged r a v 0xFFFFFFFF) false).getD s
  | none => s

/-- TXREQ and TXCAN of a channel written in one clock: each bit is judged on its buffer as it stood before the clock, so a buffer
that the request makes PENDING is not cancelled by the same write (R10, R327, R330). -/
def State.requestCancel (s : State) (n req can : Nat) : State :=
  let was := fun b => b2n (bitOf can b && s.bufState n b == 1) * 2 ^ b
  (s.txRequest n req).txCancel n (was 0 + was 1 + was 2)

/-- Two 32-bit registers side by side written in one clock (R10): the values of both are set, then what follows from them, then the
actions, the lower offset first. An action in one half that reads a register in the other takes its new value, so LPE_CDATA goes
to the new LPE_CADDR and FBS_CFG.EN is checked with the new FBS_NBT (DESIGN CHOICE, log entry 55). -/
def State.writePair (s : State) (a lo hi : Nat) : State :=
  if 0x100D0000 ≤ a && decide (a < 0x100E0000) && a % 0x4000 == 0x20 then s.requestCancel ((a - 0x100D0000) / 0x4000) lo hi
  else
    let s := ((s.setPlain a lo).setPlain (a + 4) hi).afterPlain a
    ((s.afterPlain (a + 4)).actHalf a lo).actHalf (a + 4) hi

/-- A write of `n` bytes in register space (R10); the registers of a domain that is off take none (R426). -/
def State.writeRegs (s : State) (a n v : Nat) : State :=
  let a := regAlias a
  if !s.domOn (blockDom a) then s
  else if n = 4 && a % 4 == 0 then s.writeReg32 a (v % 2 ^ 32)
  else if n = 8 && a % 8 == 0 then
    match (regAt a).filter fun r => r.width == 64 with
    | some r => s.writeReg r a (v % 2 ^ 64) (2 ^ 64 - 1)
    | none => s.writePair a (v % 2 ^ 32) (v / 2 ^ 32 % 2 ^ 32)
  else s

/-! ### Accesses on the bus -/

/-- An unmapped access by a master; an engine that runs traps too (R22) (DEDUCED, log entry 49). -/
def State.busUnmapped (s : State) (master a : Nat) (write : Bool) : State :=
  let s := s.unmapAccess master a write
  match masterEng master with
  | some e => s.busTrap e 0x0104 a
  | none => s

/-- A write on the bus by a master (R14, R19, R22). A write by an engine that breaches the contract lands as written and is
detected. -/
def State.busWrite (s : State) (master a n v : Nat) : State :=
  match regionOf a with
  | .unmapped => s.busUnmapped master a true
  | .regs =>
    let s := s.writeRegs a n v
    match masterEng master with
    | some e => s.engWrote e a
    | none => s
  | _ =>
    if !s.domOn 5 then s
    else if s.aboveFront a n then s.waitFront ⟨master, n, a, some (v % 256 ^ n)⟩
    else s.busStore master a (toLE n v)

/-- A read on the bus by a master: the value stands in `busData`. `added` is what hardware adds to RC fields in the same clock
(DEDUCED, log entry 10). -/
def State.busRead (s : State) (master a n added : Nat) : State :=
  match regionOf a with
  | .unmapped => { s.busUnmapped master a false with busData := 0, busPoison := false }
  | .regs =>
    let r := s.readRegs a n added
    { r.1 with busData := r.2, busPoison := false }
  | _ =>
    if !s.domOn 5 then { s with busData := 0, busPoison := false }
    else if s.aboveFront a n then s.waitFront ⟨master, n, a, none⟩
    else s.busFetch master a n

/-- REGISTER_WRITE (R6, R10, R14). -/
def execRegisterWrite (master : BitVec 4) (size : BitVec 2) (addr : Addr) (value : DWord) (s : State) : Res :=
  .next (s.busWrite master.toNat addr.toNat (2 ^ size.toNat) value.toNat)

/-- READ_CLEAR (R6, R7, R10, R14). -/
def execReadClear (master : BitVec 4) (size : BitVec 2) (addr : Addr) (added : DWord) (s : State) : Res :=
  .next (s.busRead master.toNat addr.toNat (2 ^ size.toNat) added.toNat)

/-- SYS_STAT_CLEAR (R20, R22). -/
def execSysStatClear (value : Word) (s : State) : Res := .next (s.clearStat value.toNat)

end Sys2Proof.Machine
end

