-- ==== Sys2Proof/Machine/Sys.lean ====
section
/-! DEFINITION. SYS: the supervisor's answer to a breach, the clock monitor and the safe-state input (R21, R31, R103, R448). -/

namespace Sys2Proof.Machine

/-- BREACH_STOP (R21, R93): the answer to line 0. With BREACHACT = 1 the controller stops with the task and the master that SYS
latched; with BREACHACT = 0 only the tally record is written. -/
def execBreachStop (s : State) : Res :=
  if !s.on R.SYS_STAT_BREACH then .next s
  else if s.on R.SYS_CFG_BREACHACT then
    .next (s.controllerStop 4 0x0101 (s.rd R.SYS_BREACH_INFO_TASK) (s.rd R.SYS_BREACH_INFO_MASTER))
  else .next (s.tallyEvent 0x001 (s.stopPayload 4))

/-- TCXO_LOSS (R31): the PLLs run from the RC oscillator, XTAL is lost (R43), and network time is in HOLDOVER (R346). -/
def execTcxoLoss (s : State) : Res :=
  if s.on R.SYS_STAT_CLKSRC then .next s
  else
    let s := ((s.wr R.SYS_STAT_CLKSRC 1).wr R.SYS_STAT_XTFAIL 1).raise 2
    .next (s.loseRef 2 s.phs.trackInc).enterHoldover

/-- CLOCK_LOSS_STOP (R31, R93): the answer to line 2. -/
def execClockLossStop (s : State) : Res :=
  if s.on R.SYS_STAT_CLKSRC then .next (s.controllerStop 10 0x0102 0x3F 0xF) else .next s

/-- TCXO_RESTORED (R31): the servo begins anew (R346). -/
def execTcxoRestored (s : State) : Res :=
  if !s.on R.SYS_STAT_CLKSRC then .next s
  else
    let s := ((s.wr R.SYS_STAT_CLKSRC 0).raise 2).note 0x0103
    .next { s with tim := { s.tim with good := 0 } }

/-- SAFE_IN_ASSERT (R103, R437, R448): line 3, a wake source, and with SAFEINEN = 1 a controller stop. -/
def execSafeInAssert (s : State) : Res :=
  if s.on R.SYS_STAT_SAFEIN then .next s
  else
    let s := ((s.wr R.SYS_STAT_SAFEIN 1).raise 3).wakeUp 3
    .next (if s.on R.TSK_CFG_SAFEINEN then s.controllerStop 5 0x0405 0x3F 0xF else s)

/-- SAFE_IN_RELEASE (R103, R437, R448). -/
def execSafeInRelease (s : State) : Res :=
  if s.on R.SYS_STAT_SAFEIN then .next (((s.wr R.SYS_STAT_SAFEIN 0).raise 3).wakeUp 3) else .next s

end Sys2Proof.Machine
end

