-- ==== Sys2Proof/Machine/Boundary.lean ====
section
/-! DEFINITION. The top-note boundary: what falls together on it and in which order (R47, R49, R84, R97 to R101, R375, R408, R459),
the ends of what a boundary or a save releases, and the clock tick of an idle block. -/

namespace Sys2Proof.Machine

/-! ### What a boundary takes -/

/-- A run in progress becomes a carried one (R101). -/
def carryTask (t : TaskState) : TaskState := if t.running then { t with carried := true } else t

/-- The engines halt for HOLD, and the runs in progress are carried (R101). -/
def State.haltForHold (s : State) : State :=
  let s := s.haltAll
  { s with tsk := { s.tsk with tasks := mapTasks carryTask s.tsk.tasks } }

/-- The boundary after a step's cycle: the engines halt without releasing, STEP clears and line 28 rises (R100). -/
def State.endStep (s : State) : State :=
  if !s.on R.TSK_STAT_STEP then s
  else
    let s := (s.haltForHold.wr R.TSK_STAT_STEP 0).raise 28
    { s with tsk := { s.tsk with canaryOff := false } }

/-- An SRAM bank is being retired: STEP and RUN wait for its end (R284, Table 20.2). -/
def State.bankRetiring (s : State) : Bool :=
  match s.memx.retiring with
  | some (sram, _) => sram
  | none => false

/-- The cause of a STOP request that waits, if one does. -/
def stopCause : List Request → Option Nat
  | [] => none
  | .stop c :: _ => some c
  | _ :: t => stopCause t

/-- The requests that stay after one kind has been taken. -/
def State.dropRequest (s : State) (r : Request) : State :=
  { s with tsk := { s.tsk with requests := s.tsk.requests.filter (· != r) } }

/-- A STOP request taken: the engines halt without releasing, and a program's request is reported (Table 4.7, 0x040A). -/
def State.takeStop (s : State) : State :=
  match stopCause s.tsk.requests with
  | none => s
  | some c =>
    let s := if c = 8 then s.note 0x040A else s
    s.enterStop c

/-- A HOLD request taken in RUN: without releasing and without latching (Table 4.7). -/
def State.takeHold (s : State) : State :=
  if !s.tsk.requests.contains .hold then s
  else
    let t := s.dropRequest .hold
    if s.mode = 1 then (t.haltForHold.wr R.TSK_STAT_MODE 2).raise 24 else t

/-- A STEP request taken in HOLD (R100). -/
def State.takeStep (s : State) : State :=
  if !s.tsk.requests.contains .step || s.bankRetiring then s
  else
    let t := s.dropRequest .step
    if s.mode = 2 then t.wr R.TSK_STAT_STEP 1 else t

/-- RUN from HOLD taken; it outranks a step that the same boundary would begin (R97, R101). -/
def State.takeRun (s : State) : State :=
  if !s.tsk.requests.contains .runFromHold || s.bankRetiring then s
  else
    let t := s.dropRequest .runFromHold
    if s.mode = 2 then ((t.wr R.TSK_STAT_STEP 0).wr R.TSK_STAT_MODE 1).raise 24 else t

/-- The gap that has ended but for its first boundary of RUN ends there (R410). -/
def State.endGap (s : State) : State :=
  match s.upd.ended with
  | some g => s.gapFinish g
  | none => s

/-- A gap that was to end in RUN ends in STOP (R409, R461). -/
def State.endGapStop (s : State) : State :=
  match s.upd.ended with
  | some g => s.gapStop g
  | none => s

/-- What now keeps a restarted controller out of RUN: a gap that must end in STOP or that has not come to its RUN-warm (R459), a latched
fault, or a condition of R31, R103 and R171 that has come since. -/
def State.entryBarred (s : State) : Bool :=
  (match s.upd.gap with
    | some g => g.toStop || s.upd.ended.isNone
    | none => false) || s.on R.TSK_STAT_FLT || s.runUnfit.isSome

/-- The first boundary of RUN after a restart: the mode, the countdowns (R82), the outputs uncommitted (R222); an entry that is
barred ends in STOP with the fault of what bars it. -/
def State.takeEntry (s : State) : State :=
  if s.tsk.entry ≠ .ready || s.bankRetiring then s
  else
    let t := { s with tsk := { s.tsk with entry := .none } }
    if s.entryBarred then
      (match s.runUnfit with
        | some f => t.refuseRun f
        | none => t).endGapStop
    else
      let t := ((t.wr R.TSK_STAT_MODE 1).raise 24).setCountdowns
      { t with ring := { t.ring with committed := [] }, tsk := { t.tsk with stationSent := [] } }

/-- A RUN request that waited for a fallback gap which no longer comes is taken now (R416). -/
def State.resumeEntry (s : State) : State :=
  match s.tsk.entry with
  | .waitGap cold => if s.inGap || s.upd.fallDue.isSome then s else s.runProceed cold
  | _ => s

/-- Mode requests in the order of R97, then an entry to RUN from STOP (DEDUCED, log entry 16). -/
def State.takeRequests (s : State) : State :=
  s.takeStop.takeHold.takeStep.takeRun.resumeEntry.takeEntry.showPend

/-- Steps 1 and 2 of Table 4.2 as the mode has them (Table 4.8): in RUN and in a step latch and releases, host-written outputs
committed in RUN (R319); in STOP the latch alone; in HOLD neither. A gap that ends in RUN ends here. -/
def State.runCycle (s : State) : State :=
  match s.mode with
  | 0 => s.latch.latchEvents
  | 1 => ((s.latch.commitHost s.tsk.heard s.tsk.frames).releases.endGap).latchEvents
  | _ => if s.on R.TSK_STAT_STEP then s.latch.releases.latchEvents else s

/-- A top-note boundary: a step's cycle ends, PHS takes a switch of reference (R47), KEY counts it (R375), a gap starts, mode
requests are taken, and tasks are released (R459). -/
def State.boundary (s : State) : State := s.endStep.takeSwitch.flaconRound.gapBoundary.takeRequests.runCycle

/-- CYCLE_BOUNDARY (R49): the main word comes to the next boundary of its turn, or to the next turn. -/
def execCycleBoundary (s : State) : Res :=
  if !s.domOn 10 then .next s
  else
    let n := s.cycles
    let j := cycleOf n (s.rd R.PHS_PHASE_PHASE) + 1
    let s := if n ≤ j then (s.wr R.PHS_PHASE_PHASE 0).turnUp else s.wr R.PHS_PHASE_PHASE (boundaryPhase n j)
    .next { s with phs := { s.phs with frac := 0 } }.boundary

/-! ### The end of a retain save, and of a warning -/

/-- A RUN request that waited for a save is taken at its end (R175). -/
def State.resumeRun (s : State) : State :=
  match s.tsk.entry with
  | .waitSave cold => if s.tsk.save.isSome || s.nvsComing then s else s.runProceed cold
  | _ => s

/-- What waits for NVS to serve the supervisor goes on, once it can: records and the KEY boot record, the mark of a gap, the commit of a
load, an erase of the tally log (R291, R294, R429). -/
def State.flashResume (s : State) : State := s.nvsDrain.gapMark.resumeLoad.resumeErase

/-- What waits for a save or for NVS goes on: also the controller's part of a gap, and a RUN request (R175, R294, R462, R464). -/
def State.waitsResume (s : State) : State := s.flashResume.gapGo.resumeRun

/-- RETAIN_SAVE_COMPLETE (R173, R291): what waited for the save goes on. -/
def execRetainSaveComplete (failed : Bool) (s : State) : Res :=
  if s.tsk.save.isNone then .next s else .next (s.endSave failed).waitsResume

/-- PFW_CLEAR (R427, R431 to R433): after a ride-through the flash writes that waited resume (R429), and an aborted gap ends (R464). -/
def execPfwClear (s : State) : Res := .next s.pfwClear.flashResume.gapGo

/-! ### The tick -/

/-- The SYNC output of X1 is high (R448). -/
def State.syncOut (s : State) : Bool := s.domOn 10 && decide (s.clk < s.phs.syncUntil)

/-- One engine clock of PHS: both words run, and the boundary that the main word crosses is taken (R35, R49). -/
def State.tickPhs (s : State) : State :=
  if !s.domOn 10 then s
  else
    let n := s.cycles
    let t := s.tickMain.tickShaft
    let crossed := s.rd R.PHS_PHASE_TURN != t.rd R.PHS_PHASE_TURN ||
      cycleOf n (s.rd R.PHS_PHASE_PHASE) != cycleOf n (t.rd R.PHS_PHASE_PHASE)
    if crossed then t.boundary else t

/-- FBS_TSCNT counts every 100 ns, 40 engine clocks (R337). -/
def State.tickFbs (s : State) : State :=
  if s.domOn 8 && s.clk % 40 == 0 then s.inc (R.FBS_TSCNT_COUNT 0) else s

/-- A save in progress goes on: NVS reads a part of the retain store that the spec does not fix, so the words that it copies can be of
different cycles (R174) (DESIGN CHOICE, log entry 14). -/
def State.tickSave (s : State) : State :=
  if s.tsk.save.isSome && decide (s.tsk.saved < 0x200000) then s.useFree.copyTo (s.tsk.saved + 8 * (s.freeVal % 0x40001)) else s

/-- Something waits for NVS to serve the supervisor. -/
def State.flashWaits (s : State) : Bool :=
  s.key.bootDue || s.upd.setDue || !s.nvs.due.isEmpty || !s.host.erases.isEmpty || s.upd.gap.isSome ||
    (match s.loading with
      | .waitSave .. => true
      | _ => false)

/-- NVS serves the supervisor once nothing stands before it (R291). -/
def State.tickFlash (s : State) : State := if s.nvsFree && s.flashWaits then s.flashResume else s

/-- One engine clock of 2.5 ns (R30): TIM with its 125 MHz clocks, the calendar, which alone runs in reset too, FBS_TSCNT, the save in
progress, what waits for NVS, and last PHS and its boundary, which latches the lines that have risen in the same clock (R130) (DESIGN
CHOICE, log entry 2). -/
def State.tick (s : State) : State :=
  if s.pwr.held then s.tickRtc
  else
    let k := (s.clk + 1) * 5 / 16 - s.clk * 5 / 16
    ({ s with clk := s.clk + 1 }.timCount k).tickRtc.tickFbs.tickSave.tickFlash.tickPhs

end Sys2Proof.Machine
end

