-- ==== Sys2Proof/Machine/Boot.lean ====
section
/-! DEFINITION. Resets by the logic supply and the boot that follows them, and what the supervisor writes into a domain that has
become ready (R181, R372, R414, R416, R420, R425, R426, R431, R434, R435, R463). -/

namespace Sys2Proof.Machine

/-! ### The reset -/

/-- A slice that holds another image in its other bank takes it (R416). -/
def State.swapSlice (s : State) (n : Nat) : State :=
  let v := s.sliceOf n
  match v.staged with
  | some ver => s.setSlice n { v with version := ver % 65536, bank := 1 - v.bank % 2, staged := some v.version }
  | none => s

/-- The slices take their other banks. -/
def State.swapSlices (s : State) : State := (List.range 6).foldl State.swapSlice s

/-- A gap that the reset ends, as flash keeps it (R411, R463). An activation whose new bank is marked goes into TRIAL, its slices on
their new banks; a fallback in progress leaves the trial bank marked and the slices with it, for the boot to decide. Record 0x00A
waits for the boot (DEDUCED, log entry 37). -/
def State.closeGap (s : State) : State :=
  match s.markedGap with
  | none => s
  | some g =>
    if g.fallback && s.upd.ended.isNone then
      { (if g.switched then s.swapSlices else s) with upd := { s.upd with marked := s.rd R.UPD_BANK_ACTIVE } }
    else
      let s := if g.switched then s else s.swapSlices
      { s with upd := { s.upd with bootRec := s.gapPayload g } }

/-- A reset in a power-fail warning finds the update record as the warning found it: a gap that has ended since is undone (R429). -/
def State.undoGap (s : State) : State :=
  if s.on R.NVS_STAT_PFWORDER && s.upd.recordMark ≠ s.upd.marked then
    { s.swapSlices with upd := { s.upd with marked := s.upd.recordMark } }
  else s

/-- The reset itself: the module is held until its release. -/
def State.resetNow (s : State) : State :=
  if s.pwr.held then s else s.closeGap.undoGap.logicReset s.resetCause s.calSeconds

/-- HOLDUP_RAIL_EXHAUSTED (R431). -/
def execHoldupRailExhausted (s : State) : Res := .next s.resetNow

/-- RESET_TIMER_EXPIRY (R431, R433): 10 ms after PFW cleared in a power-down stop, or 2 ms into one on a reset path. -/
def execResetTimerExpiry (s : State) : Res :=
  if s.on R.PWR_STAT_PDSTOP && (s.pwr.returned || s.pwr.path != 0) then .next s.resetNow else .next s

/-! ### What the supervisor writes (R181, R372, R412, R426) -/

/-- One register written from the module settings. -/
def State.writeSetting (s : State) (a v : Nat) : State :=
  let wide := match regAt a with
    | some r => r.width == 64
    | none => false
  s.writeRegs a (if wide then 8 else 4) v

/-- The settings of one domain written into its registers; PWR_DOMEN and the registers of RTC have rules of their own. -/
def State.writeSettings (s : State) (d : Nat) : State :=
  let mine := s.upd.settings.regs.filter fun c =>
    blockDom c.1.toNat == d && c.1.toNat != 0x10010010 && c.1.toNat / 0x10000 != 0x100F
  mine.foldl (fun s c => s.writeSetting c.1.toNat c.2.toNat) s

/-- The RTC settings, where the settings could be read: rewritten at the boot after an AON reset, whose flag is reported and cleared
(R360, R363); T0, CURV and OFS at every boot (R359). -/
def State.aonBoot (s : State) (found : Bool) : State :=
  if !s.on R.RTC_STAT_AONRST then (if found then s.trimSettings else s)
  else
    let s := (s.report R.RTC_LASTFAULT_FAULT 0x0D02).wr R.RTC_STAT_AONRST 0
    let mine := if found then s.upd.settings.regs.filter fun c => c.1.toNat / 0x10000 == 0x100F else []
    mine.foldl (fun s c => s.writeSetting c.1.toNat c.2.toNat) s

/-- PWR_DOMEN as the settings hold it; every domain where they hold none. -/
def State.settingsDomen (s : State) : Nat :=
  match s.upd.settings.regs.find? fun c => c.1.toNat == 0x10010010 with
  | some c => c.2.toNat
  | none => 0xFFFF

/-- Part of the registers taken from another state. -/
def State.takeRegs (s t : State) (lo hi : Nat) : State :=
  { s with regs := (s.regs.filter fun c => decide (c.1 < lo * 64)) ++ t.regWindow lo hi ++
                   s.regs.filter fun c => decide (hi * 64 ≤ c.1) }

/-- FBE_EVSUB of two engines as the image gives it (R138, R426). -/
def State.evsubOf (s : State) (im : Image) (e : Nat) : State :=
  [2 * e, 2 * e + 1, 2 * e + 2, 2 * e + 3].foldl (fun s k =>
    s.wr (R.FBE_EVSUB_SUB (k / 2) (k % 2)) (im.evsub.getD k 0)) s

/-- Steps 2 and 3 of R181, once NVS is ready (R294): the stored image is read, checked and applied; the start action then waits,
unless a check has failed. -/
def State.readImage (s : State) : State :=
  if !s.nvsReady then s
  else
  let stored := s.activeImage.isSome
  let s := s.bootImage
  let go := (!stored || s.img.isSome) && (s.rd R.TSK_CFG_START = 1 || s.rd R.TSK_CFG_START = 2)
  { s with pwr := { s.pwr with imageDue := false, starting := go } }

/-- What comes back into MEM: at boot the image, else the code store and the TENANT and FLAGS of the process image, once NVS is ready
(R181, R294, R426). -/
def State.refillMem (s : State) : State :=
  if s.pwr.imageDue then s.readImage
  else if s.img.isNone then s
  else
    if s.nvsReady then { s.rebuildMem with pwr := { s.rebuildMem.pwr with refillDue := false } }
    else { s with pwr := { s.pwr with refillDue := true } }

/-- What the supervisor writes again into a domain that is ready: its settings, and what the loaded image gives it (R426). -/
def State.refill (s : State) (d : Nat) (healthy : Bool) : State :=
  let s := if d = 9 then s.keyDomainStart healthy else s
  let s := if d = 9 then s.keyTree else s
  let s := s.writeSettings d
  if d = 5 then s.refillMem
  else
    match s.img with
    | none => s
    | some im =>
      match d with
      | 2 => s.evsubOf im 0
      | 3 => s.evsubOf im 2
      | 4 => s.writeLoops im
      | 10 => (s.takeRegs (s.applyCfg im) 0x10090000 0x100A0000).followCfg
      | 15 => s.takeRegs (s.applyCfg im) 0x100A0000 0x100B0000
      | _ => s

/-- DOMAIN_READY (R425, R426): a domain that is on becomes ready with line 11. MEM is ready once its initialisers have run (R281);
NVS has its own row (R294). -/
def execDomainReady (domain : Fin 16) (healthy : Bool) (s : State) : Res :=
  let d := domain.val
  if !s.domOn d || bitOf (s.rd R.PWR_DOMSTAT_READY) d || d = 6 || (d = 5 && !s.on R.MEM_STAT_INITDONE) then .next s
  else .next (((s.setBit R.PWR_DOMSTAT_READY d).raise 11).refill d healthy)

/-! ### The boot -/

/-- NVS_READY (R294): the clients of NVS are served; at boot the records that cannot be read are reported, and the image that the
supervisor waits for is read (R181, R292, R426). -/
def execNvsReady (s : State) : Res :=
  if !s.domOn 6 || s.on R.NVS_STAT_READY then .next s
  else
    let s := s.nvsStartUp
    let s := if s.pwr.imageDue then ((s.nvsReads 0xAA00 770).nvsReads 0xAD04 4).nvsReads 0x40000 1 else s
    let s := if (s.pwr.imageDue || s.pwr.refillDue) && bitOf (s.rd R.PWR_DOMSTAT_READY) 5 then s.refillMem else s
    .next s.waitsResume

/-- The image that a firmware bank's blocks hold, as long as its header states. -/
def State.bankBytes (s : State) (b : Nat) : List (BitVec 8) :=
  readBytes s.legible (fwBase b) (128 + min (fwMax 1) (readLE s.legible (fwBase b + 0x18) 4))

/-- A firmware bank that a command has written verifies at boot from its bytes (R402) (DESIGN CHOICE, log entry 33). -/
def State.readBank (s : State) (b : Nat) : State :=
  if s.ownBlocks (fwBase b / 4096, 0x2000) then s
  else
    let im := s.bankBytes b
    let h := fwHeader im
    if fwShape im && s.fwSigned im && h.kind == 1 then
      s.setBank b ⟨true, h.version, h.setfmt, h.dualfmt, h.migfrom, h.profiles⟩
    else s.setBank b { s.fwBank b with valid := false }

/-- A firmware bank verifies at boot: it holds an image that has verified, and all its blocks read (R402, R292). -/
def State.bankBoots (s : State) (b : Nat) : Bool :=
  (s.fwBank b).valid && !s.nvs.unreadable.any fun l => decide (fwBase b / 4096 ≤ l) && decide (l < fwBase b / 4096 + 0x2000)

/-- The staged set still verifies: the module's other bank, and the bank of every slice of a staged kind that was present (R463). -/
def State.setVerifies (s : State) : Bool :=
  s.upd.verified && s.bankBoots (1 - s.upd.marked) && s.recordReads 0x4000 512 &&
    (s.upd.whole.flatMap kindSlices).all fun n => s.slStat n == 3 || (s.slStat n == 1 && (s.sliceOf n).staged.isSome)

/-- The update record read back (R420): the bank marked active, and of the UPD registers STATE, FALLPEND, CONFLEFT, OWNER_LOCK, LOCKCNT
and the configuration. Without a copy that reads they keep their reset values, and the mark stands (DESIGN CHOICE, log entry 33). -/
def State.restoreUpd (s : State) (fl : Sparse (BitVec 8)) : State :=
  let s := match (updAt fl 0xAD04).or (updAt fl 0xAD05) with
    | some (b, cells) => { s.takeRegs { s with regs := cells } 0x10120000 0x10130000 with upd := { s.upd with marked := b } }
    | none => s
  let s := s.wr R.UPD_STAT_UNSYNCACT 0
  let s := (s.resetRegs 0x10120008 0x10120014).resetRegs 0x10120034 0x10120038
  let s := s.resetRegs 0x10120040 0x10120048
  let s := if s.rd R.UPD_STAT_STATE = 2 && !s.setVerifies then s.wr R.UPD_STAT_STATE 0 else s
  let s := s.resetRegs 0x10120030 0x10120034
  if s.rd R.UPD_STAT_STATE = 2 then s else { s with upd := { s.upd with images := [], whole := [], verified := false } }

/-- A fallback that is due at boot selects the old bank directly, and waits while MOVING or CELL_LOW is set (R416). -/
def State.bootFallback (s : State) : State :=
  let a := s.upd.marked
  if !(s.rd R.UPD_STAT_STATE = 5 && s.on R.UPD_STAT_FALLPEND) then s
  else if s.moving || s.cellLow then { s with upd := { s.upd with heldOff := true } }
  else if !s.bankBoots (1 - a) then s
  else
    let g : Gap :=
      { start := s.clk, fromRun := false, marked := true, toStop := false, fallback := true, cause := 2, switched := true
        oldVer := (s.fwBank a).version, newVer := (s.fwBank (1 - a)).version }
    let s := State.crossSettings { s with upd := { s.upd with marked := 1 - a } } true
    let s := ((s.swapSlices.wr R.UPD_STAT_STATE 0).wr R.UPD_STAT_FALLPEND 0).wr R.UPD_CONFLEFT_SEC 0
    s.tallyEvent 0x00A (s.gapPayload g)

/-- The first start of a bank that a reset has cut short: its settings cross now (R411, R413) (DEDUCED, log entry 37). -/
def State.bootCross (s : State) : State :=
  if s.upd.firstStart && s.rd R.UPD_STAT_STATE = 5 then s.crossSettings false else s

/-- The bank that boots: the marked one, or the other where the marked one does not verify, which leaves UPD in IDLE. -/
def State.bootBank (s : State) : State :=
  let a := s.upd.marked
  if s.bankBoots a || !s.bankBoots (1 - a) then s.showBanks a
  else { (s.wr R.UPD_STAT_STATE 0).wr R.UPD_STAT_FALLPEND 0 with upd := { s.upd with marked := 1 - a } }.showBanks (1 - a)

/-- The time without power leaves the trial's window, as the calendar measures it (R414) (DEDUCED, log entry 37). -/
def State.bootTrial (s : State) : State :=
  if s.rd R.UPD_STAT_STATE ≠ 5 || s.on R.RTC_STAT_OSF then s
  else
    let gone := (s.calSeconds - s.upd.stopped).toNat
    let left := s.rd R.UPD_CONFLEFT_SEC
    if left = 0 then s else if left ≤ gone then s.confExpired else s.wr R.UPD_CONFLEFT_SEC (left - gone)

/-- The record 0x00A of a gap that the reset ended (R419). -/
def State.bootRecord (s : State) : State :=
  if s.upd.bootRec.isEmpty then s
  else { s.tallyEvent 0x00A s.upd.bootRec with upd := { s.upd with bootRec := [] } }

/-- What the boot writes from the module settings: TSK_CFG.START, the registers of SUP, TLY_ALIGN from RTC_UTCOFS where they do not
name it (R391, R400), the statistics codes of the tally book, and
PWR_DOMEN, which switches the domains on; the image is due. -/
def State.bootSettings (s : State) : State :=
  let s := (s.alignEpochs.writeSettings 1).wr R.TSK_CFG_START s.upd.settings.start.toNat
  let s : State := s.upd.settings.defs.foldl State.defineStat s
  let s := s.writeDomen s.settingsDomen
  { s with pwr := { s.pwr with imageDue := true } }

/-- What the boot takes from the update record, the firmware banks and the settings (R412 to R416, R420, R463); the second part says
that a copy of the settings reads. -/
def State.bootRecords (s : State) (fl : Sparse (BitVec 8)) : State × Bool :=
  let s := ((s.restoreUpd fl).readBank 0).readBank 1
  let r := s.readSettings
  let s := r.1.bootFallback.bootBank.bootTrial.bootCross.bootRecord
  (s.resetRegs 0x1012003C 0x10120040, r.2)

/-- RESET_RELEASE (R181, R349, R363, R420, R434, R435): the module leaves reset and the supervisor boots. Pit mode follows where
neither firmware bank verifies or no copy of the settings reads (DEDUCED, log entry 36). -/
def execResetRelease (noSettings noLog : Bool) (s : State) : Res :=
  if !s.pwr.held then .next s
  else
    let fl := s.flashView
    let s := (s.wr R.PWR_RSTCAUSE_CAUSE s.pwr.cause)
    let s := State.tallyStart { s with pwr := { s.pwr with held := false } } noLog
    let r := s.bootRecords fl
    let found := !noSettings && r.2
    let s := ((r.1.aonBoot found).loadRtc).wr R.TSK_SNAPSEQ_SEQ (match r.1.newestComplete with
      | some i => r.1.snapSeq i
      | none => 0)
    .next (if found && (s.bankBoots 0 || s.bankBoots 1) then s.bootSettings else s.enterPit)

/-- POWER_ON_RUN_REQUEST (R181 step 4): RUN-warm or RUN-cold as START selects, from the power-on source. -/
def execPowerOnRunRequest (s : State) : Res :=
  if !s.pwr.starting then .next s
  else
    let s := { s with pwr := { s.pwr with starting := false } }
    .next (s.runRequest (s.rd R.TSK_CFG_START = 2) 3)

end Sys2Proof.Machine
end

