-- ==== Sys2Proof/Machine/EngineData.lean ====
section
/-! DEFINITION. The engines' loads and stores wherever their addresses fall (R16, R19, R22), and the instructions that use them:
LDI to LDK, the register-base forms, TMR and EDGE (R121, R122, R142, R143, R155, R156). -/

namespace Sys2Proof.Machine

/-! ### An engine's access to an address -/

/-- A read of register space by an engine, eight bytes at a time where it is wider (DESIGN CHOICE, log entry 54). -/
def readWide (s : State) (a : Nat) : Nat → State × Nat
  | 0 => (s, 0)
  | k + 1 =>
    let lo := s.readRegs a 8 0
    let hi := readWide lo.1 (a + 8) k
    (hi.1, lo.2 + hi.2 * 2 ^ 64)

/-- A write of register space by an engine, eight bytes at a time where it is wider (DESIGN CHOICE, log entry 54). -/
def writeWide (s : State) (a v : Nat) : Nat → State
  | 0 => s
  | k + 1 => writeWide (s.writeRegs a 8 (v % 2 ^ 64)) (a + 8) (v / 2 ^ 64) k

/-- A load of `n` bytes at `a` by an engine: the effect it goes on with, or its trap: 0x0104 at an unmapped address (R22), 0x050C
in DRAM, which an engine reaches only through its window (R16, R122), 0x050A with address `p` on poison (R131). -/
def engLoadAt (e : Eng) (s : State) (a n p : Nat) (k : State → Nat → Eff) : Eff :=
  match regionOf a with
  | .unmapped => .trap (s.unmapAccess (2 + e) a false) 0x0104 a
  | .dramSup | .dramProg | .spare => .trap s 0x050C a
  | .regs =>
    let r := if n ≤ 8 then s.readRegs a n 0 else readWide s a (n / 8)
    k r.1 r.2
  | _ =>
    let r := s.readChecked (2 + e) a n
    if r.2 then .trap r.1 0x050A p else k r.1 (r.1.peek a n)

/-- A load whose trap on poison records its own address. -/
def engLoad (e : Eng) (s : State) (a n : Nat) (k : State → Nat → Eff) : Eff := engLoadAt e s a n a k

/-- A store of `n` bytes at `a` by an engine: it lands as written, a register acting as its chapter defines (R19), and one outside
the contract is detected (R20). A store that covers a codeword in part reads it first, and poison there traps with nothing
written (R134, R143); an unmapped address and DRAM trap as for a load. -/
def engStore (e : Eng) (s : State) (a n v : Nat) (k : State → Eff) : Eff :=
  match regionOf a with
  | .unmapped => .trap (s.unmapAccess (2 + e) a true) 0x0104 a
  | .dramSup | .dramProg | .spare => .trap s 0x050C a
  | .regs => k ((if n ≤ 8 then s.writeRegs a n v else writeWide s a v (n / 8)).engWrote e a)
  | _ =>
    let r := readCws (2 + e) (s.partCws (s.logical a) n) s
    if r.2 then .trap r.1 0x050A a else k ((r.1.pokeN a n v).engWrote e a)

/-- The ticks that a load or store in register space costs beyond the listed ones (R16). -/
def portTicks (a : Nat) : Nat := if regionOf a = .regs then 12 else 0

/-- The effect of an instruction that has stored in state `s`, with `t` after the store: one that has taken the engine's own domain
off leaves nothing to advance. -/
def stored (e : Eng) (s t : State) (cost : Nat) : Eff :=
  if s.domOn (2 + e / 2) && !t.domOn (2 + e / 2) then .jump t 0 else .done t cost

/-- The bound of [IB+off] (Table 5.7): the header's SIZE read as it stands, then the effect it goes on with. -/
def boundIB (e : Eng) (s : State) (off n : Nat) (store : Bool) (k : State → Eff) : Eff :=
  let a := wrap 40 (s.ib e + off)
  engLoadAt e s (wrap 40 (s.ib e + 4)) 4 a fun s size =>
    if size < off + n || (store && decide (off < 16)) then .trap s 0x0503 a else k s

/-! ### Loads and stores -/

/-- The type and alignment checks of a load or store at `a` (R113, R120, R121). The spec gives no order among the checks of a load
or store that fails several: the type comes first, then the alignment, then the bound or the region (DESIGN CHOICE, log entry 54). -/
def memChecks (s : State) (w : FmtM) (a : Nat) (k : Eff) : Eff :=
  if !memTy w.ty then .trap s 0x0501 0
  else if a % (tyBits w.ty / 8) ≠ 0 then .trap s 0x0502 a
  else k

/-- A load into xd at an effective address that has passed its bound: 1 tick, 13 in register space (R16). -/
def loadInto (e : Eng) (w : FmtM) (s : State) (a : Nat) : Eff :=
  engLoad e s a (tyBits w.ty / 8) fun s v => .done (s.setX e w.d (loadExtend w.ty w.sx v)) (1 + portTicks a)

/-- A store from xd at an effective address that has passed its bound: 1 tick, 3 for .b and .h, and 12 more in register space
(R16, R134). -/
def storeFrom (e : Eng) (w : FmtM) (s : State) (a : Nat) : Eff :=
  engStore e s a (tyBits w.ty / 8) (s.x e w.d) fun t =>
    stored e s t (storeTicks (tyBits w.ty / 8) + portTicks a)

/-- The effective address [IB+off], modulo 2^40 (DESIGN CHOICE, log entry 54). -/
def State.eaIB (s : State) (e : Eng) (w : FmtM) (ext : Option (BitVec 31)) : Nat := wrap 40 (s.ib e + offOf w ext)

/-- The effective address [LB+off], modulo 2^40 (DESIGN CHOICE, log entry 54). -/
def State.eaLB (s : State) (e : Eng) (w : FmtM) (ext : Option (BitVec 31)) : Nat := wrap 40 (s.lb e + offOf w ext)

/-- The effective address [K+off], modulo 2^40 (DESIGN CHOICE, log entry 54). -/
def State.eaK (s : State) (e : Eng) (w : FmtM) (ext : Option (BitVec 31)) : Nat := wrap 40 (s.kb e + offOf w ext)

/-- The bound of [LB+off] (Table 5.7). -/
def State.inFrame (s : State) (e : Eng) (w : FmtM) (ext : Option (BitVec 31)) : Bool :=
  decide (s.lb e + offOf w ext + tyBits w.ty / 8 ≤ s.x e 14)

/-- The pool size of the image (R121). -/
def State.poolSize (s : State) : Nat :=
  match s.img with
  | some im => im.poolBytes.length
  | none => 0

/-- LDI (R142). -/
def execLdi (e : Eng) (w : FmtM) (ext : Option (BitVec 31)) (s : State) : Res :=
  engRun e (wordM 0x08 w ext) (lenOf ext) (fun s =>
    let a := s.eaIB e w ext
    memChecks s w a (boundIB e s (offOf w ext) (tyBits w.ty / 8) false fun s => loadInto e w s a)) s

/-- STI (R142, R134). -/
def execSti (e : Eng) (w : FmtM) (ext : Option (BitVec 31)) (s : State) : Res :=
  engRun e (wordM 0x09 w ext) (lenOf ext) (fun s =>
    let a := s.eaIB e w ext
    memChecks s w a (boundIB e s (offOf w ext) (tyBits w.ty / 8) true fun s => storeFrom e w s a)) s

/-- LDL (R142). -/
def execLdl (e : Eng) (w : FmtM) (ext : Option (BitVec 31)) (s : State) : Res :=
  engRun e (wordM 0x0A w ext) (lenOf ext) (fun s =>
    let a := s.eaLB e w ext
    memChecks s w a (if s.inFrame e w ext then loadInto e w s a else .trap s 0x0504 a)) s

/-- STL (R142, R134). -/
def execStl (e : Eng) (w : FmtM) (ext : Option (BitVec 31)) (s : State) : Res :=
  engRun e (wordM 0x0B w ext) (lenOf ext) (fun s =>
    let a := s.eaLB e w ext
    memChecks s w a (if s.inFrame e w ext then storeFrom e w s a else .trap s 0x0504 a)) s

/-- LDK (R142). -/
def execLdk (e : Eng) (w : FmtM) (ext : Option (BitVec 31)) (s : State) : Res :=
  engRun e (wordM 0x0C w ext) (lenOf ext) (fun s =>
    let a := s.eaK e w ext
    memChecks s w a
      (if offOf w ext + tyBits w.ty / 8 ≤ s.poolSize then loadInto e w s a else .trap s 0x0505 a)) s

/-! ### Register-base loads and stores (R122, R143) -/

/-- The effective address xa + off, modulo 2^40 (DESIGN CHOICE, log entry 54). -/
def State.eaReg (s : State) (e : Eng) (ext : RegBase) : Nat := wrap 40 (s.x e ext.a + ext.off.toNat)

/-- LD (R16, R122, R143). -/
def execLd (e : Eng) (op : Fin 3) (w : FmtM) (ext : RegBase) (s : State) : Res :=
  engRun e (packM (0x88 + 2 * BitVec.ofNat 8 op.val) w) 8 (fun s =>
    memChecks s w (s.eaReg e ext) (loadInto e w s (s.eaReg e ext))) s

/-- ST (R16, R122, R134, R143). -/
def execSt (e : Eng) (op : Fin 2) (w : FmtM) (ext : RegBase) (s : State) : Res :=
  engRun e (packM (0x89 + 2 * BitVec.ofNat 8 op.val) w) 8 (fun s =>
    memChecks s w (s.eaReg e ext) (storeFrom e w s (s.eaReg e ext))) s

/-! ### TMR and EDGE -/

/-- ST, ET, PIN and RUN of a timer record (Table 6.9). -/
structure TmrRec where
  st : Nat
  et : Nat
  pin : Bool
  run : Bool

/-- A record from its 16 bytes. -/
def unpackTmr (v : Nat) : TmrRec :=
  let hi := v / 2 ^ 64
  ⟨v % 2 ^ 64, hi % 2 ^ 62, bitOf hi 62, bitOf hi 63⟩

/-- The 16 bytes of a record. -/
def packTmrRec (r : TmrRec) : Nat :=
  r.st + (r.et % 2 ^ 62 + b2n r.pin * 2 ^ 62 + b2n r.run * 2 ^ 63) * 2 ^ 64

/-- The preset: a negative PT acts as 0, one above 2^62 - 1 as 2^62 - 1 (R155). -/
def limitPt (v : Nat) : Nat := if 2 ^ 63 ≤ v then 0 else min v (2 ^ 62 - 1)

/-- Elapsed from `st` to `now`, as a signed difference not below 0 and not above `top` (R155). -/
def elapsed (now st top : Nat) : Nat := min (toSigned 64 (now + 2 ^ 64 - st)).toNat top

/-- TON (R155): the record and the output. -/
def tonStep (now pt : Nat) (inp : Bool) (r : TmrRec) : TmrRec × Nat :=
  if !inp then ({ r with run := false, et := 0, pin := inp }, 0)
  else
    let st := if r.run then r.st else now
    let et := if r.run then elapsed now r.st pt else 0
    (⟨st, et, inp, true⟩, b2n (et == pt))

/-- TOF (R155). -/
def tofStep (now pt : Nat) (inp : Bool) (r : TmrRec) : TmrRec × Nat :=
  if inp then ({ r with run := false, et := 0, pin := inp }, 1)
  else if r.pin then (⟨now, 0, inp, true⟩, b2n (decide (0 < pt)))
  else if r.run then
    let et := elapsed now r.st pt
    (⟨r.st, et, inp, et != pt⟩, b2n (decide (et < pt)))
  else ({ r with pin := inp }, 0)

/-- TP (R155). -/
def tpStep (now pt : Nat) (inp : Bool) (r : TmrRec) : TmrRec × Nat :=
  let start := inp && !r.pin && !r.run
  let st := if start then now else r.st
  let el := if start then 0 else elapsed now r.st pt
  if start || r.run then (⟨st, el, inp, el != pt⟩, b2n (decide (el < pt)))
  else (⟨r.st, if inp then r.et else 0, inp, r.run⟩, 0)

/-- ELAPSED (R155). -/
def elapsedStep (now : Nat) (inp : Bool) (r : TmrRec) : TmrRec × Nat :=
  (⟨if inp then now else r.st, elapsed now r.st (2 ^ 62 - 1), inp, r.run⟩, wrap 64 (now + 2 ^ 64 - r.st))

/-- The course of TMR: the record's place is checked, the record is read, stepped and written back, and xd takes the
output (R155). -/
def tmrOp (kind : BitVec 2) (e : Eng) (w : FmtA) (x : TmrExt) (step : Nat → Nat → Bool → TmrRec → TmrRec × Nat)
    (s : State) : Res :=
  let _ := kind
  engRun e (packA 0xE0 w) 8 (fun s =>
    let off := x.off.toNat
    let a := wrap 40 (s.ib e + off)
    if off % 8 ≠ 0 then .trap s 0x0502 a
    else
      boundIB e s off 16 true fun s =>
        engLoad e s a 16 fun s v =>
          let k := s.task (s.curTask e)
          let r := step (if x.phase then k.pstamp else k.tstamp) (limitPt (s.x e w.b)) (s.x e w.a != 0) (unpackTmr v)
          engStore e s a 16 (packTmrRec r.1) fun s => .done (s.setX e w.d r.2) 4) s

/-- TMR kind 0, an on-delay timer (R155). -/
def execTmrTon (e : Eng) (w : FmtA) (x : TmrExt) (s : State) : Res := tmrOp 0 e w x tonStep s

/-- TMR kind 1, an off-delay timer (R155). -/
def execTmrTof (e : Eng) (w : FmtA) (x : TmrExt) (s : State) : Res := tmrOp 1 e w x tofStep s

/-- TMR kind 2, a pulse timer (R155). -/
def execTmrTp (e : Eng) (w : FmtA) (x : TmrExt) (s : State) : Res := tmrOp 2 e w x tpStep s

/-- TMR kind 3, elapsed time (R155). -/
def execTmrElapsed (e : Eng) (w : FmtA) (x : TmrExt) (s : State) : Res :=
  tmrOp 3 e w x (fun now _ => elapsedStep now) s

/-- The edge that KIND selects: 0 rising, 1 falling, 2 and 3 both (R156). -/
def edgeOut (kind : Nat) (cur prev : Bool) : Bool :=
  match kind with
  | 0 => cur && !prev
  | 1 => prev && !cur
  | _ => cur != prev

/-- EDGE (R156). -/
def execEdge (e : Eng) (w : FmtI) (s : State) : Res :=
  engRun e (packI 0x60 w) 4 (fun s =>
    let off := (w.imm.extractLsb' 0 14).toNat
    let a := wrap 40 (s.ib e + off)
    if off % 4 ≠ 0 then .trap s 0x0502 a
    else
      boundIB e s off 4 true fun s =>
        engLoad e s a 4 fun s v =>
          let cur := s.x e w.a != 0
          let out := edgeOut (w.imm.extractLsb' 14 2).toNat cur (v != 0)
          engStore e s a 4 (b2n cur) fun s => .done (s.setX e w.d (b2n out)) 2) s

end Sys2Proof.Machine
end

