-- ==== Sys2Proof/Machine/EngineFloat.lean ====
section
/-! DEFINITION. The float instructions and CVT (R115, R149, R150, Tables 6.5 and 6.6). -/

namespace Sys2Proof.Machine

/-- The course of a format A float instruction with a result in xd and no flag: the type check, the operands at the
format's width, the result with the upper bits 0 for .f (R113, R149). -/
def floatOp (op : BitVec 8) (e : Eng) (w : FmtA) (cf cg : Nat) (r : FFmt → Nat → Nat → Nat) (s : State) : Res :=
  engRun e (packA op w) 4 (fun s =>
    if !floatTy w.ty then .trap s 0x0501 0
    else
      let n := tyBits w.ty
      .done (s.setX e w.d (r (tyFmt w.ty) (s.x e w.a % 2 ^ n) (s.x e w.b % 2 ^ n)))
        (if w.ty.toNat = 4 then cf else cg)) s

/-- FADD (R149). -/
def execFadd (e : Eng) (w : FmtA) (s : State) : Res := floatOp 0x40 e w 2 3 FFmt.add s

/-- FSUB (R149). -/
def execFsub (e : Eng) (w : FmtA) (s : State) : Res := floatOp 0x41 e w 2 3 FFmt.sub s

/-- FMUL (R149). -/
def execFmul (e : Eng) (w : FmtA) (s : State) : Res := floatOp 0x42 e w 2 3 FFmt.mul s

/-- FDIV (R149). -/
def execFdiv (e : Eng) (w : FmtA) (s : State) : Res := floatOp 0x43 e w 10 16 FFmt.div s

/-- FSQRT (R149). -/
def execFsqrt (e : Eng) (w : FmtA) (s : State) : Res := floatOp 0x44 e w 12 20 (fun f a _ => f.sqrt a) s

/-- FMIN (R115, R149). -/
def execFmin (e : Eng) (w : FmtA) (s : State) : Res := floatOp 0x45 e w 2 2 (fun f => f.minMax false) s

/-- FMAX (R115, R149). -/
def execFmax (e : Eng) (w : FmtA) (s : State) : Res := floatOp 0x46 e w 2 2 (fun f => f.minMax true) s

/-- FCMP: the flags of Table 5.4, no register written (R149). -/
def execFcmp (e : Eng) (w : FmtA) (s : State) : Res :=
  engRun e (packA 0x47 w) 4 (fun s =>
    if !floatTy w.ty then .trap s 0x0501 0
    else
      let n := tyBits w.ty
      let f := tyFmt w.ty
      let c := (f.unpack (s.x e w.a % 2 ^ n)).cmp (f.unpack (s.x e w.b % 2 ^ n))
      .done (s.setFlags e ((s.flags e).fcmp c)) 2) s

/-- A float value as an integer of `n` bits, signed with `sg`: rounded toward zero and saturated; a NaN gives 0 (R115).
The bool is V: saturation or a NaN (Table 6.6). -/
def toIntSat (n : Nat) (sg : Bool) (v : FVal) : Nat × Bool :=
  let lo : Int := if sg then -(2 ^ (n - 1) : Int) else 0
  let hi : Int := if sg then 2 ^ (n - 1) - 1 else 2 ^ n - 1
  match v with
  | .nan => (0, true)
  | .inf s => (ofSigned n (if s then lo else hi), true)
  | .num _ _ _ =>
    let i := v.trunc.getD 0
    if i < lo then (ofSigned n lo, true)
    else if hi < i then (ofSigned n hi, true)
    else (ofSigned n i, false)

/-- The result and V of CVT from a source of type `src` to a destination of type `dst` (Table 6.6). -/
def cvtAt (src dst : BitVec 3) (sg : Bool) (mode v : Nat) : Nat × Bool :=
  let n := tyBits src
  let m := tyBits dst
  let v := v % 2 ^ n
  if floatTy src then
    let x := (tyFmt src).unpack v
    if floatTy dst then
      if src = dst then (if x = .nan then (tyFmt src).nan else v, false)
      else ((tyFmt dst).ofVal mode x, false)
    else
      let r := toIntSat m sg x
      (extend m sg r.1, r.2)
  else
    let i : Int := if sg then toSigned n v else v
    if floatTy dst then ((tyFmt dst).ofInt mode i, false)
    else if src = dst then (extend n sg v, false)
    else if n < m then (extend n sg v, false)
    else
      let out := if sg then decide (i < -2147483648) || decide (2147483647 < i) else decide (4294967295 < i)
      (extend m sg v, out)

/-- CVT: both types in 2 to 5, else 0x0501; V as Table 6.6 gives it, Z, N and C unchanged (R150). -/
def execCvt (e : Eng) (w : FmtA) (s : State) : Res :=
  engRun e (packA 0x48 w) 4 (fun s =>
    let src := w.fn.extractLsb' 0 3
    let ok := fun (t : BitVec 3) => intTy t || floatTy t
    if !(ok src && ok w.ty) then .trap s 0x0501 0
    else
      let r := cvtAt src w.ty w.sx (w.fn.extractLsb' 3 2).toNat (s.x e w.a)
      .done ((s.setX e w.d r.1).setFlags e { s.flags e with v := r.2 }) 2) s

end Sys2Proof.Machine
end

