-- ==== Sys2Proof/Machine/EngineFlow.lean ====
section
/-! DEFINITION. Branches, LOOP, calls and returns (R126 to R129, R135, R151, R152). -/

namespace Sys2Proof.Machine

/-- The target of a branch: IP + 4 times the signed offset, modulo 2^32 (R151). -/
def State.branchTarget (s : State) (e : Eng) (w : FmtB) : Nat :=
  wrap 32 (s.ip e + 4 * extend 16 true w.off.toNat)

/-- A jump to a target, or the trap of a target outside the code store (R128, R151). -/
def jumpTo (e : Eng) (s : State) (target cost : Nat) : Eff :=
  if inCode target then .jump (s.setIp e target) cost else .trap s 0x050D target

/-- B (R151). -/
def execB (e : Eng) (w : FmtB) (s : State) : Res :=
  engRun e (packB 0x50 w) 4 (fun s => jumpTo e s (s.branchTarget e w) 2) s

/-- BC: 2 ticks taken, 1 not taken; a branch not taken never traps on its target (R151). -/
def execBc (e : Eng) (w : FmtB) (s : State) : Res :=
  engRun e (packB 0x51 w) 4 (fun s =>
    if (s.flags e).cond w.c then jumpTo e s (s.branchTarget e w) 2 else .done s 1) s

/-- LOOP: the count register is decremented; 0 falls through, BOUND or more traps with 0x0520 and the count before it
(DESIGN CHOICE, log entry 54), else the branch is taken (R135). -/
def execLoop (e : Eng) (w : FmtB) (z bound : BitVec 16) (s : State) : Res :=
  engRun e (packB 0xD0 w) 8 (fun s =>
    let _ := z
    let c := wrap 64 (s.x e w.a + (2 ^ 64 - 1))
    if c = 0 then .done (s.setX e w.a c) 1
    else if bound.toNat ≤ c then .trap s 0x0520 (s.x e w.a)
    else
      let target := s.branchTarget e w
      if inCode target then .jump ((s.setX e w.a c).setIp e target) 1 else .trap s 0x050D target) s

/-- The descriptor fields that a call uses: TYPEID and VERSION and SIZE as one number, ENTRY and FRAME (Table 5.8). -/
structure Desc where
  head : Nat
  entry : Nat
  frame : Nat

/-- The frame of a call: the check of R127, step 2, the 32-byte link record at x14 and the new LB, x14, IB, x15 and IP
(steps 3 and 4). An ENTRY inside the code store that is not a multiple of 4 is taken as it stands (DESIGN CHOICE, log entry 54). -/
def callFrame (e : Eng) (s : State) (d : Desc) (ib cost : Nat) : Eff :=
  let x14 := s.x e 14
  if s.rd (R.FBE_BANK_SLIM_SLIM e (s.bank e)) < x14 + 32 + d.frame then .trap s 0x0506 (x14 + 32 + d.frame)
  else
    let record := s.x e 15 + s.ib e * 2 ^ 64 + s.lb e * 2 ^ 128
    engStore e s x14 32 record fun s =>
      let t := s.curTask e
      let b := s.bank e
      let s := s.wr (R.FBE_BANK_LB_LB e b) (x14 + 32)
      let s := s.setX e 15 (s.ip e + 8)
      let s := s.setX e 14 (x14 + 32 + d.frame)
      let s := s.wr (R.FBE_BANK_IB_IB e b) ib
      let s := s.setTask t { s.task t with depth := (s.task t).depth + 1 }
      let s := s.wr (R.FBE_STAT_DEPTH e) (min 63 (s.task t).depth)
      .jump (s.setIp e d.entry) cost

/-- The 32 bytes of the descriptor at a code store address, read through the engine's port. -/
def readDesc (e : Eng) (s : State) (a : Nat) (k : State → Desc → Eff) : Eff :=
  engLoad e s a 32 fun s v => k s ⟨v % 2 ^ 64, v / 2 ^ 64 % 2 ^ 32, v / 2 ^ 96 % 2 ^ 32⟩

/-- A call of a function block with a descriptor address: the 16-byte header and its match (0x0507), then the frame (R127, R152). -/
def callBlock (e : Eng) (s : State) (desc ib : Nat) : Eff :=
  readDesc e s desc fun s d =>
    engLoad e s (ib % 2 ^ 40) 16 fun s head =>
      if head % 2 ^ 64 ≠ d.head then .trap s 0x0507 ib else callFrame e s d ib 6

/-- A call of a plain function with a descriptor address: IB is unchanged (R127). -/
def callFunction (e : Eng) (s : State) (desc : Nat) : Eff :=
  readDesc e s desc fun s d => callFrame e s d (s.ib e) 5

/-- The check of an indirect call: the descriptor address is listed in the target list (R129). -/
def inTargetList (e : Eng) (s : State) (list desc : Nat) (k : State → Eff) : Eff :=
  engLoad e s list 4 fun s n =>
    let r := s.readChecked (2 + e) (list + 4) (4 * n)
    if r.2 then .trap r.1 0x050A list
    else if (List.range n).any fun i => r.1.peek (list + 4 + 4 * i) 4 == desc then k r.1
    else .trap r.1 0x0508 desc

/-- CALL (R127). -/
def execCall (e : Eng) (w : FmtA) (ext : Word) (s : State) : Res :=
  engRun e (packA 0xD8 w) 8 (fun s => callBlock e s ext.toNat (s.x e w.a)) s

/-- CALL with the descriptor in xb (R129). -/
def execCallIndirect (e : Eng) (w : FmtA) (ext : Word) (s : State) : Res :=
  engRun e (packA 0xD8 w) 8 (fun s =>
    inTargetList e s ext.toNat (s.x e w.b) fun s => callBlock e s (s.x e w.b) (s.x e w.a)) s

/-- CALLF (R127). -/
def execCallf (e : Eng) (w : FmtA) (ext : Word) (s : State) : Res :=
  engRun e (packA 0xD9 w) 8 (fun s => callFunction e s ext.toNat) s

/-- CALLF with the descriptor in xb (R129). -/
def execCallfIndirect (e : Eng) (w : FmtA) (ext : Word) (s : State) : Res :=
  engRun e (packA 0xD9 w) 8 (fun s =>
    inTargetList e s ext.toNat (s.x e w.b) fun s => callFunction e s (s.x e w.b)) s

/-- The run of task `t` ends (R88): LASTRUN and MAXRUN take the ticks from release to finish, with the `cost` of the
ending instruction, and the engine dispatches again (R64). -/
def State.finishRun (s : State) (e : Eng) (cost : Nat) : State :=
  let t := s.curTask e
  let k := s.task t
  let s := s.spend e cost
  let n := sget 0 s.engTicks e - k.tick0
  let s := s.wr (R.TSK_TSTAT_LASTRUN_LASTRUN t) n
  let s := s.wr (R.TSK_TSTAT_MAXRUN_MAXRUN t) (max (min n (2 ^ 32 - 1)) (s.rd (R.TSK_TSTAT_MAXRUN_MAXRUN t)))
  let s := s.setTask t { k with running := false, started := false, carried := false, depth := 0 }
  s.dispatch e

/-- RET: at call depth 0 the run ends; else the link record at LB - 32 restores x15, IB and LB, x14 takes its address,
and IP takes x15 (R128). A return address inside the code store that is not a multiple of 4 is taken as it stands, without a trap (DESIGN
CHOICE, log entry 54). -/
def execRet (e : Eng) (rest : BitVec 24) (s : State) : Res :=
  engRun e (packN 0x03 rest) 4 (fun s =>
    if (s.task (s.curTask e)).depth = 0 then .jump (s.finishRun e 4) 0
    else
      let a := wrap 40 (s.lb e + (2 ^ 40 - 32))
      let target := s.x e 15
      engLoad e s a 32 fun s v =>
        if !inCode target then .trap s 0x050D target
        else
          let t := s.curTask e
          let b := s.bank e
          let s := s.setX e 15 (v % 2 ^ 64)
          let s := s.setX e 14 a
          let s := s.wr (R.FBE_BANK_IB_IB e b) (v / 2 ^ 64 % 2 ^ 64)
          let s := s.wr (R.FBE_BANK_LB_LB e b) (v / 2 ^ 128 % 2 ^ 64)
          let s := s.setTask t { s.task t with depth := (s.task t).depth - 1 }
          let s := s.wr (R.FBE_STAT_DEPTH e) (min 63 (s.task t).depth)
          .jump (s.setIp e target) 4) s

end Sys2Proof.Machine
end

