-- ==== Sys2Proof/Machine/EngineInt.lean ====
section
/-! DEFINITION. The integer instructions (R114, R145 to R148, Table 6.4): ADD to LIM and the immediate forms. -/

namespace Sys2Proof.Machine

/-- The course of a format A integer instruction: the type check, the operands at the operation width, a result into xd
and the flags (R113, R120, R145). -/
def intBody (e : Eng) (w : FmtA) (cost : Nat) (r : Nat → Nat → Nat → Nat) (fl : Flags → Nat → Nat → Nat → Flags)
    (s : State) : Eff :=
  if !intTy w.ty then .trap s 0x0501 0
  else
    let n := tyBits w.ty
    let a := s.x e w.a % 2 ^ n
    let b := s.x e w.b % 2 ^ n
    .done ((s.setX e w.d (extend n w.sx (r n a b))).setFlags e (fl (s.flags e) n a b)) cost

/-- A format A integer instruction. -/
def intOp (op : BitVec 8) (e : Eng) (w : FmtA) (cost : Nat) (r : Nat → Nat → Nat → Nat)
    (fl : Flags → Nat → Nat → Nat → Flags) (s : State) : Res :=
  engRun e (packA op w) 4 (intBody e w cost r fl) s

/-- ADD (R145). -/
def execAdd (e : Eng) (w : FmtA) (s : State) : Res :=
  intOp 0x20 e w 1 (fun _ a b => a + b) (fun f n a b => f.add n a b) s

/-- SUB (R145). -/
def execSub (e : Eng) (w : FmtA) (s : State) : Res :=
  intOp 0x21 e w 1 (fun n a b => a + 2 ^ n - b) (fun f n a b => f.sub n a b) s

/-- NEG: flags as 0 - xa (R145). -/
def execNeg (e : Eng) (w : FmtA) (s : State) : Res :=
  intOp 0x22 e w 1 (fun n a _ => 2 ^ n - a) (fun f n a _ => f.sub n 0 a) s

/-- The signed absolute value at a width; the most negative gives itself. -/
def absAt (n a : Nat) : Nat := if bitOf a (n - 1) then 2 ^ n - a else a

/-- ABS (R145). -/
def execAbs (e : Eng) (w : FmtA) (s : State) : Res :=
  intOp 0x23 e w 1 (fun n a _ => absAt n a) (fun f n a _ => f.withV n (absAt n a) (a == 2 ^ (n - 1))) s

/-- MUL: 2 ticks at .w, 3 at .d (R145). -/
def execMul (e : Eng) (w : FmtA) (s : State) : Res :=
  intOp 0x24 e w (if w.ty.toNat = 2 then 2 else 3) (fun _ a b => a * b) (fun f n a b => f.logic n (a * b)) s

/-- Quotient, or with `rem` the remainder, truncated toward zero, signed with `sg` (R114, R147). -/
def divAt (sg rem : Bool) (n a b : Nat) : Nat :=
  if sg then
    let q := (toSigned n a).tdiv (toSigned n b)
    ofSigned n (if rem then (toSigned n a).tmod (toSigned n b) else q)
  else if rem then a % b else a / b

/-- The signed division of the most negative value by -1 sets V (R114, R147). -/
def divV (sg : Bool) (n a b : Nat) : Bool := sg && a == 2 ^ (n - 1) && b == 2 ^ n - 1

/-- DIV: a zero divisor traps with 0x0509 (R147). -/
def execDiv (e : Eng) (w : FmtA) (s : State) : Res :=
  engRun e (packA 0x25 w) 4 (fun s =>
    if intTy w.ty && s.x e w.b % 2 ^ tyBits w.ty == 0 then .trap s 0x0509 0
    else
      intBody e w (if w.ty.toNat = 2 then 18 else 34) (divAt w.sx (w.fn.getLsbD 0))
        (fun f n a b => f.withV n (divAt w.sx (w.fn.getLsbD 0) n a b) (divV w.sx n a b)) s) s

/-- CMP: the flags of a subtraction, no register written (R145). -/
def execCmp (e : Eng) (w : FmtA) (s : State) : Res :=
  engRun e (packA 0x26 w) 4 (fun s =>
    if !intTy w.ty then .trap s 0x0501 0
    else .done (s.setFlags e ((s.flags e).sub (tyBits w.ty) (s.x e w.a) (s.x e w.b))) 1) s

/-- MOV: all 64 bits, no flag (R145, R148). -/
def execMov (e : Eng) (w : FmtA) (s : State) : Res :=
  engRun e (packA 0x27 w) 4 (fun s => .done (s.setX e w.d (s.x e w.a)) 1) s

/-- AND (R145). -/
def execAnd (e : Eng) (w : FmtA) (s : State) : Res :=
  intOp 0x28 e w 1 (fun _ a b => a &&& b) (fun f n a b => f.logic n (a &&& b)) s

/-- OR (R145). -/
def execOr (e : Eng) (w : FmtA) (s : State) : Res :=
  intOp 0x29 e w 1 (fun _ a b => a ||| b) (fun f n a b => f.logic n (a ||| b)) s

/-- XOR (R145). -/
def execXor (e : Eng) (w : FmtA) (s : State) : Res :=
  intOp 0x2A e w 1 (fun _ a b => a ^^^ b) (fun f n a b => f.logic n (a ^^^ b)) s

/-- NOT (R145). -/
def execNot (e : Eng) (w : FmtA) (s : State) : Res :=
  intOp 0x2B e w 1 (fun n a _ => 2 ^ n - 1 - a) (fun f n a _ => f.logic n (2 ^ n - 1 - a)) s

/-- The count of a shift: FN[5:0] when FN[7] is 1, else xb[5:0], modulo the width (R146). -/
def shiftCount (w : FmtA) (n b : Nat) : Nat :=
  (if w.fn.getLsbD 7 then w.fn.toNat % 64 else b % 64) % n

/-- SHL (R146). -/
def execShl (e : Eng) (w : FmtA) (s : State) : Res :=
  intOp 0x2C e w 1 (fun n a b => a * 2 ^ shiftCount w n b)
    (fun f n a b =>
      let k := shiftCount w n b
      f.shift n (a * 2 ^ k) (k != 0 && bitOf a (n - k))) s

/-- SHR (R146). -/
def execShr (e : Eng) (w : FmtA) (s : State) : Res :=
  intOp 0x2D e w 1 (fun n a b => a / 2 ^ shiftCount w n b)
    (fun f n a b =>
      let k := shiftCount w n b
      f.shift n (a / 2 ^ k) (k != 0 && bitOf a (k - 1))) s

/-- An arithmetic right shift at a width. -/
def asrAt (n a k : Nat) : Nat := ofSigned n (toSigned n a / (2 ^ k : Nat))

/-- ASR (R146). -/
def execAsr (e : Eng) (w : FmtA) (s : State) : Res :=
  intOp 0x2E e w 1 (fun n a b => asrAt n a (shiftCount w n b))
    (fun f n a b =>
      let k := shiftCount w n b
      f.shift n (asrAt n a k) (k != 0 && bitOf a (k - 1))) s

/-- A left rotation at a width. -/
def rotAt (n a k : Nat) : Nat := (a * 2 ^ k + a / 2 ^ (n - k)) % 2 ^ n

/-- ROT: C is the new bit 0 (R146). -/
def execRot (e : Eng) (w : FmtA) (s : State) : Res :=
  intOp 0x2F e w 1 (fun n a b => rotAt n a (shiftCount w n b))
    (fun f n a b =>
      let k := shiftCount w n b
      f.shift n (rotAt n a k) (k != 0 && bitOf (rotAt n a k) 0)) s

/-- BIT: xd is the bit; Z is set where it is 0, N is cleared (R146). -/
def execBit (e : Eng) (w : FmtA) (s : State) : Res :=
  intOp 0x30 e w 1 (fun n a b => b2n (bitOf a (shiftCount w n b)))
    (fun f n a b => f.logic n (b2n (bitOf a (shiftCount w n b)))) s

/-- SET: no flag (R146). -/
def execSet (e : Eng) (w : FmtA) (s : State) : Res :=
  intOp 0x31 e w 1 (fun n a b => withBit a (shiftCount w n b) true) (fun f _ _ _ => f) s

/-- CLR: no flag (R146). -/
def execClr (e : Eng) (w : FmtA) (s : State) : Res :=
  intOp 0x32 e w 1 (fun n a b => withBit a (shiftCount w n b) false) (fun f _ _ _ => f) s

/-- SEL: xa where the condition in FN[3:0] holds, else xb; all 64 bits, no flag (R148). -/
def execSel (e : Eng) (w : FmtA) (s : State) : Res :=
  engRun e (packA 0x33 w) 4 (fun s =>
    .done (s.setX e w.d (if (s.flags e).cond (w.fn.extractLsb' 0 4) then s.x e w.a else s.x e w.b)) 1) s

/-- min(max(xd, xa), xb), unsigned or signed (R148). -/
def limAt (sg : Bool) (n d a b : Nat) : Nat :=
  if sg then
    ofSigned n (min (max (toSigned n d) (toSigned n a)) (toSigned n b))
  else min (max d a) b

/-- LIM: xd between xa and xb; no flag (R148). -/
def execLim (e : Eng) (w : FmtA) (s : State) : Res :=
  engRun e (packA 0x34 w) 4 (fun s =>
    intBody e w 1 (fun n a b => limAt w.sx n (s.x e w.d % 2 ^ n) a b) (fun f _ _ _ => f) s) s

/-! ### Immediate forms: always at .d (R145) -/

/-- The course of an immediate form that writes xd. -/
def immOp (op : BitVec 8) (e : Eng) (w : FmtI) (ext : Option Word) (r : Nat → Nat → Nat)
    (fl : Flags → Nat → Nat → Flags) (s : State) : Res :=
  engRun e (wordI op w ext) (lenOf ext) (fun s =>
    let a := s.x e w.a
    let b := immOf w ext
    .done ((s.setX e w.d (r a b)).setFlags e (fl (s.flags e) a b)) 1) s

/-- ADD with an immediate (R145). -/
def execAddImm (e : Eng) (w : FmtI) (ext : Option Word) (s : State) : Res :=
  immOp 0x38 e w ext (fun a b => a + b) (fun f a b => f.add 64 a b) s

/-- CMP with an immediate (R145). -/
def execCmpImm (e : Eng) (w : FmtI) (ext : Option Word) (s : State) : Res :=
  engRun e (wordI 0x39 w ext) (lenOf ext) (fun s =>
    .done (s.setFlags e ((s.flags e).sub 64 (s.x e w.a) (immOf w ext))) 1) s

/-- AND with an immediate (R145). -/
def execAndImm (e : Eng) (w : FmtI) (ext : Option Word) (s : State) : Res :=
  immOp 0x3A e w ext (fun a b => a &&& b) (fun f a b => f.logic 64 (a &&& b)) s

/-- OR with an immediate (R145). -/
def execOrImm (e : Eng) (w : FmtI) (ext : Option Word) (s : State) : Res :=
  immOp 0x3B e w ext (fun a b => a ||| b) (fun f a b => f.logic 64 (a ||| b)) s

/-- XOR with an immediate (R145). -/
def execXorImm (e : Eng) (w : FmtI) (ext : Option Word) (s : State) : Res :=
  immOp 0x3C e w ext (fun a b => a ^^^ b) (fun f a b => f.logic 64 (a ^^^ b)) s

/-- MOVI: no flag (R145, R148). -/
def execMovi (e : Eng) (w : FmtI) (ext : Option Word) (s : State) : Res :=
  engRun e (wordI 0x3D w ext) (lenOf ext) (fun s => .done (s.setX e w.d (immOf w ext)) 1) s

end Sys2Proof.Machine
end

