-- ==== Sys2Proof/Machine/Dispatch.lean ====
section
/-! DEFINITION. The meaning of each command: one arm per constructor of `Instr`. -/

namespace Sys2Proof.Machine

/-- The effect of a command on everything but the queue. -/
def exec (i : Instr) (s : State) : Host.Outcome State Fault Refusal :=
  match i with
  | .registerWrite master size addr value => Sys2Proof.Machine.execRegisterWrite master size addr value s
  | .readClear master size addr added => Sys2Proof.Machine.execReadClear master size addr added s
  | .sysStatClear value => Sys2Proof.Machine.execSysStatClear value s
  | .taskDeadline t heard => Sys2Proof.Machine.execTaskDeadline t heard s
  | .retainSaveComplete failed => Sys2Proof.Machine.execRetainSaveComplete failed s
  | .referenceLost which => Sys2Proof.Machine.execReferenceLost which s
  | .referenceReturn which phase mHz => Sys2Proof.Machine.execReferenceReturn which phase mHz s
  | .bandExcursion phase mHz => Sys2Proof.Machine.execBandExcursion phase mHz s
  | .shaftEdge bFirst cps => Sys2Proof.Machine.execShaftEdge bFirst cps s
  | .shaftIndex bFirst => Sys2Proof.Machine.execShaftIndex bFirst s
  | .witnessUpdate diff foff => Sys2Proof.Machine.execWitnessUpdate diff foff s
  | .phsCfgWrite value => Sys2Proof.Machine.execPhsCfgWrite value s
  | .phsSwitchRequest value => Sys2Proof.Machine.execPhsSwitchRequest value s
  | .slotWrite slot word value => Sys2Proof.Machine.execSlotWrite slot word value s
  | .ringFrame good sections reached up => Sys2Proof.Machine.execRingFrame good sections reached up s
  | .sliceOutputApply sl => Sys2Proof.Machine.execSliceOutputApply sl s
  | .sliceLeave sl => Sys2Proof.Machine.execSliceLeave sl s
  | .sliceJoin sl => Sys2Proof.Machine.execSliceJoin sl s
  | .sliceWatchdogTrip sl => Sys2Proof.Machine.execSliceWatchdogTrip sl s
  | .sliceSafeExit sl => Sys2Proof.Machine.execSliceSafeExit sl s
  | .sliceBoot sl issue version bank lost bad => Sys2Proof.Machine.execSliceBoot sl issue version bank lost bad s
  | .timebaseAlignError sl err => Sys2Proof.Machine.execTimebaseAlignError sl err s
  | .diDebouncedEdge sl ch level => Sys2Proof.Machine.execDiDebouncedEdge sl ch level s
  | .doThermalShutdown sl ch => Sys2Proof.Machine.execDoThermalShutdown sl ch s
  | .doThermalRecover sl ch => Sys2Proof.Machine.execDoThermalRecover sl ch s
  | .doCurrentLimit sl ch reached => Sys2Proof.Machine.execDoCurrentLimit sl ch reached s
  | .doOpenLoad sl ch below => Sys2Proof.Machine.execDoOpenLoad sl ch below s
  | .doRelease sl value => Sys2Proof.Machine.execDoRelease sl value s
  | .sumoverChange sl above => Sys2Proof.Machine.execSumoverChange sl above s
  | .fieldSupplyLow sl low volts => Sys2Proof.Machine.execFieldSupplyLow sl low volts s
  | .fieldSupplyMissing sl volts => Sys2Proof.Machine.execFieldSupplyMissing sl volts s
  | .fieldSupplyRestored sl volts => Sys2Proof.Machine.execFieldSupplyRestored sl volts s
  | .pwmPeriodStart sl ch => Sys2Proof.Machine.execPwmPeriodStart sl ch s
  | .burstEnd sl ch => Sys2Proof.Machine.execBurstEnd sl ch s
  | .feederCycle f cycle => Sys2Proof.Machine.execFeederCycle f cycle s
  | .feederBlock f groups => Sys2Proof.Machine.execFeederBlock f groups s
  | .feederUnlock f => Sys2Proof.Machine.execFeederUnlock f s
  | .feederLock f => Sys2Proof.Machine.execFeederLock f s
  | .rotationSnapshot f => Sys2Proof.Machine.execRotationSnapshot f s
  | .accumulatorSave f => Sys2Proof.Machine.execAccumulatorSave f s
  | .pulseStart ch => Sys2Proof.Machine.execPulseStart ch s
  | .pulseEnd ch => Sys2Proof.Machine.execPulseEnd ch s
  | .lpeLdeclWrite loop word value => Sys2Proof.Machine.execLpeLdeclWrite loop word value s
  | .lpeCdataAccess write => Sys2Proof.Machine.execLpeCdataAccess write s
  | .nop e rest => Sys2Proof.Machine.execNop e rest s
  | .brk e rest => Sys2Proof.Machine.execBrk e rest s
  | .ret e rest => Sys2Proof.Machine.execRet e rest s
  | .evtest e d a => Sys2Proof.Machine.execEvtest e d a s
  | .evtake e d a => Sys2Proof.Machine.execEvtake e d a s
  | .evtakelo e d a => Sys2Proof.Machine.execEvtakelo e d a s
  | .evtakehi e d a => Sys2Proof.Machine.execEvtakehi e d a s
  | .tnow e d a => Sys2Proof.Machine.execTnow e d a s
  | .pnow e d a => Sys2Proof.Machine.execPnow e d a s
  | .cycnow e d a => Sys2Proof.Machine.execCycnow e d a s
  | .ticks e d a => Sys2Proof.Machine.execTicks e d a s
  | .self e d a => Sys2Proof.Machine.execSelf e d a s
  | .qualset e d a => Sys2Proof.Machine.execQualset e d a s
  | .flacon e d a => Sys2Proof.Machine.execFlacon e d a s
  | .stopreq e d a => Sys2Proof.Machine.execStopreq e d a s
  | .ldi e w ext => Sys2Proof.Machine.execLdi e w ext s
  | .sti e w ext => Sys2Proof.Machine.execSti e w ext s
  | .ldl e w ext => Sys2Proof.Machine.execLdl e w ext s
  | .stl e w ext => Sys2Proof.Machine.execStl e w ext s
  | .ldk e w ext => Sys2Proof.Machine.execLdk e w ext s
  | .ld e op w ext => Sys2Proof.Machine.execLd e op w ext s
  | .st e op w ext => Sys2Proof.Machine.execSt e op w ext s
  | .ldp e w => Sys2Proof.Machine.execLdp e w s
  | .stp e w => Sys2Proof.Machine.execStp e w s
  | .add e w => Sys2Proof.Machine.execAdd e w s
  | .sub e w => Sys2Proof.Machine.execSub e w s
  | .neg e w => Sys2Proof.Machine.execNeg e w s
  | .abs e w => Sys2Proof.Machine.execAbs e w s
  | .mul e w => Sys2Proof.Machine.execMul e w s
  | .div e w => Sys2Proof.Machine.execDiv e w s
  | .cmp e w => Sys2Proof.Machine.execCmp e w s
  | .mov e w => Sys2Proof.Machine.execMov e w s
  | .and e w => Sys2Proof.Machine.execAnd e w s
  | .or e w => Sys2Proof.Machine.execOr e w s
  | .xor e w => Sys2Proof.Machine.execXor e w s
  | .not e w => Sys2Proof.Machine.execNot e w s
  | .shl e w => Sys2Proof.Machine.execShl e w s
  | .shr e w => Sys2Proof.Machine.execShr e w s
  | .asr e w => Sys2Proof.Machine.execAsr e w s
  | .rot e w => Sys2Proof.Machine.execRot e w s
  | .bit e w => Sys2Proof.Machine.execBit e w s
  | .set e w => Sys2Proof.Machine.execSet e w s
  | .clr e w => Sys2Proof.Machine.execClr e w s
  | .sel e w => Sys2Proof.Machine.execSel e w s
  | .lim e w => Sys2Proof.Machine.execLim e w s
  | .addImm e w ext => Sys2Proof.Machine.execAddImm e w ext s
  | .cmpImm e w ext => Sys2Proof.Machine.execCmpImm e w ext s
  | .andImm e w ext => Sys2Proof.Machine.execAndImm e w ext s
  | .orImm e w ext => Sys2Proof.Machine.execOrImm e w ext s
  | .xorImm e w ext => Sys2Proof.Machine.execXorImm e w ext s
  | .movi e w ext => Sys2Proof.Machine.execMovi e w ext s
  | .fadd e w => Sys2Proof.Machine.execFadd e w s
  | .fsub e w => Sys2Proof.Machine.execFsub e w s
  | .fmul e w => Sys2Proof.Machine.execFmul e w s
  | .fdiv e w => Sys2Proof.Machine.execFdiv e w s
  | .fsqrt e w => Sys2Proof.Machine.execFsqrt e w s
  | .fmin e w => Sys2Proof.Machine.execFmin e w s
  | .fmax e w => Sys2Proof.Machine.execFmax e w s
  | .fcmp e w => Sys2Proof.Machine.execFcmp e w s
  | .cvt e w => Sys2Proof.Machine.execCvt e w s
  | .b e w => Sys2Proof.Machine.execB e w s
  | .bc e w => Sys2Proof.Machine.execBc e w s
  | .loop e w z bound => Sys2Proof.Machine.execLoop e w z bound s
  | .call e w ext => Sys2Proof.Machine.execCall e w ext s
  | .callIndirect e w ext => Sys2Proof.Machine.execCallIndirect e w ext s
  | .callf e w ext => Sys2Proof.Machine.execCallf e w ext s
  | .callfIndirect e w ext => Sys2Proof.Machine.execCallfIndirect e w ext s
  | .win e w dir z bound => Sys2Proof.Machine.execWin e w dir z bound s
  | .tmrTon e w ext => Sys2Proof.Machine.execTmrTon e w ext s
  | .tmrTof e w ext => Sys2Proof.Machine.execTmrTof e w ext s
  | .tmrTp e w ext => Sys2Proof.Machine.execTmrTp e w ext s
  | .tmrElapsed e w ext => Sys2Proof.Machine.execTmrElapsed e w ext s
  | .edge e w => Sys2Proof.Machine.execEdge e w s
  | .sch e w => Sys2Proof.Machine.execSch e w s
  | .lpw e w => Sys2Proof.Machine.execLpw e w s
  | .lpwOwn e w => Sys2Proof.Machine.execLpwOwn e w s
  | .lpwSwap e w => Sys2Proof.Machine.execLpwSwap e w s
  | .lpwClr e w => Sys2Proof.Machine.execLpwClr e w s
  | .lpr e w => Sys2Proof.Machine.execLpr e w s
  | .tly e w => Sys2Proof.Machine.execTly e w s
  | .moduleStatUpdate vin vhu => Sys2Proof.Machine.execModuleStatUpdate vin vhu s
  | .bucketLeak b => Sys2Proof.Machine.execBucketLeak b s
  | .bucketClear b => Sys2Proof.Machine.execBucketClear b s
  | .scrubRead addr flips stuck endOfPass => Sys2Proof.Machine.execScrubRead addr flips stuck endOfPass s
  | .frontWaitRelease front => Sys2Proof.Machine.execFrontWaitRelease front s
  | .spoilDramPage value => Sys2Proof.Machine.execSpoilDramPage value s
  | .spoilSramBank value => Sys2Proof.Machine.execSpoilSramBank value s
  | .nvsRead failed => Sys2Proof.Machine.execNvsRead failed s
  | .nvsWrite failed => Sys2Proof.Machine.execNvsWrite failed s
  | .nvsHealthLow spare wear => Sys2Proof.Machine.execNvsHealthLow spare wear s
  | .switchForward port frame align symbol age residence full => Sys2Proof.Machine.execSwitchForward port frame align symbol age residence full s
  | .addressAgeOut addr => Sys2Proof.Machine.execAddressAgeOut addr s
  | .txKick ring => Sys2Proof.Machine.execTxKick ring s
  | .txFrameComplete how age => Sys2Proof.Machine.execTxFrameComplete how age s
  | .ringEnable ring => Sys2Proof.Machine.execRingEnable ring s
  | .pauseFrameReceived port quanta => Sys2Proof.Machine.execPauseFrameReceived port quanta s
  | .pauseHoldoffEnd port => Sys2Proof.Machine.execPauseHoldoffEnd port s
  | .linkChange port up speed => Sys2Proof.Machine.execLinkChange port up speed s
  | .hostConnect identity psk => Sys2Proof.Machine.execHostConnect identity psk s
  | .hostSessionTimeout sess => Sys2Proof.Machine.execHostSessionTimeout sess s
  | .status sess reqid => Sys2Proof.Machine.execStatus sess reqid s
  | .timeQuery sess reqid => Sys2Proof.Machine.execTimeQuery sess reqid s
  | .pointRead sess reqid points => Sys2Proof.Machine.execPointRead sess reqid points s
  | .pointWrite sess reqid writes => Sys2Proof.Machine.execPointWrite sess reqid writes s
  | .forceSet sess reqid point value => Sys2Proof.Machine.execForceSet sess reqid point value s
  | .forceClear sess reqid point => Sys2Proof.Machine.execForceClear sess reqid point s
  | .flaconFetch sess reqid tenant => Sys2Proof.Machine.execFlaconFetch sess reqid tenant s
  | .tallyExport sess reqid first count erase => Sys2Proof.Machine.execTallyExport sess reqid first count erase s
  | .modeChange sess reqid order => Sys2Proof.Machine.execModeChange sess reqid order s
  | .load sess reqid offset chunk last => Sys2Proof.Machine.execLoad sess reqid offset chunk last s
  | .fbsEnable ch value => Sys2Proof.Machine.execFbsEnable ch value s
  | .fbsDisable ch value => Sys2Proof.Machine.execFbsDisable ch value s
  | .fbsIntegrated ch => Sys2Proof.Machine.execFbsIntegrated ch s
  | .txRequest ch mask => Sys2Proof.Machine.execTxRequest ch mask s
  | .txCancel ch mask => Sys2Proof.Machine.execTxCancel ch mask s
  | .fbsRecover ch => Sys2Proof.Machine.execFbsRecover ch s
  | .fbsTxStart ch => Sys2Proof.Machine.execFbsTxStart ch s
  | .fbsFrameComplete ch => Sys2Proof.Machine.execFbsFrameComplete ch s
  | .fbsArbitrationLost ch => Sys2Proof.Machine.execFbsArbitrationLost ch s
  | .fbsBusError ch lec step => Sys2Proof.Machine.execFbsBusError ch lec step s
  | .fbsRecoveryComplete ch => Sys2Proof.Machine.execFbsRecoveryComplete ch s
  | .fbsReceive ch frame age mapped => Sys2Proof.Machine.execFbsReceive ch frame age mapped s
  | .fbsRxbaseWrite ch value => Sys2Proof.Machine.execFbsRxbaseWrite ch value s
  | .tallyRecordWrite done => Sys2Proof.Machine.execTallyRecordWrite done s
  | .timIncrWrite value => Sys2Proof.Machine.execTimIncrWrite value s
  | .timStepWrite value => Sys2Proof.Machine.execTimStepWrite value s
  | .timStateWrite value => Sys2Proof.Machine.execTimStateWrite value s
  | .ptpSync offset port utc => Sys2Proof.Machine.execPtpSync offset port utc s
  | .ptpMasterChange port => Sys2Proof.Machine.execPtpMasterChange port s
  | .rtcTimeWrite value => Sys2Proof.Machine.execRtcTimeWrite value s
  | .rtcTrimUpdate temp => Sys2Proof.Machine.execRtcTrimUpdate temp s
  | .keyDerive cmd => Sys2Proof.Machine.execKeyDerive cmd s
  | .keyLoadclear cmd => Sys2Proof.Machine.execKeyLoadclear cmd s
  | .keyErase cmd => Sys2Proof.Machine.execKeyErase cmd s
  | .keyWrap cmd => Sys2Proof.Machine.execKeyWrap cmd s
  | .keyUnwrap cmd => Sys2Proof.Machine.execKeyUnwrap cmd s
  | .keyGcmenc cmd => Sys2Proof.Machine.execKeyGcmenc cmd s
  | .keyGcmdec cmd => Sys2Proof.Machine.execKeyGcmdec cmd s
  | .keyHmacgen cmd => Sys2Proof.Machine.execKeyHmacgen cmd s
  | .keyHmacver cmd => Sys2Proof.Machine.execKeyHmacver cmd s
  | .keyTenant cmd => Sys2Proof.Machine.execKeyTenant cmd s
  | .flaconRequest value => Sys2Proof.Machine.execFlaconRequest value s
  | .flaconBuild latched => Sys2Proof.Machine.execFlaconBuild latched s
  | .stage sess reqid kind offset chunk last => Sys2Proof.Machine.execStage sess reqid kind offset chunk last s
  | .sliceImageVerified sl ok => Sys2Proof.Machine.execSliceImageVerified sl ok s
  | .schedule sess reqid time group => Sys2Proof.Machine.execSchedule sess reqid time group s
  | .confirm sess reqid => Sys2Proof.Machine.execConfirm sess reqid s
  | .abort sess reqid group => Sys2Proof.Machine.execAbort sess reqid group s
  | .lock sess reqid value mac => Sys2Proof.Machine.execLock sess reqid value mac s
  | .settingsGet sess reqid => Sys2Proof.Machine.execSettingsGet sess reqid s
  | .settingsPut sess reqid record owner => Sys2Proof.Machine.execSettingsPut sess reqid record owner s
  | .gapEnd migrateFailed => Sys2Proof.Machine.execGapEnd migrateFailed s
  | .resetRelease noSettings noLog => Sys2Proof.Machine.execResetRelease noSettings noLog s
  | .domainSwitch value => Sys2Proof.Machine.execDomainSwitch value s
  | .domainReady domain healthy => Sys2Proof.Machine.execDomainReady domain healthy s
  | .holdupTest mJ => Sys2Proof.Machine.execHoldupTest mJ s
  | .cellMeasure mV => Sys2Proof.Machine.execCellMeasure mV s
  | .illegalInstruction e word => Sys2Proof.Machine.execIllegalInstruction e word s
  | .sysUndefined e d a n => Sys2Proof.Machine.execSysUndefined e d a n s
  | .meteringSample f v vh v_i => Sys2Proof.Machine.execMeteringSample f v vh v_i s
  | .aoFault sl ch fault => Sys2Proof.Machine.execAoFault sl ch fault s
  | .breachStop => Sys2Proof.Machine.execBreachStop s
  | .tcxoLoss => Sys2Proof.Machine.execTcxoLoss s
  | .clockLossStop => Sys2Proof.Machine.execClockLossStop s
  | .tcxoRestored => Sys2Proof.Machine.execTcxoRestored s
  | .safeInAssert => Sys2Proof.Machine.execSafeInAssert s
  | .safeInRelease => Sys2Proof.Machine.execSafeInRelease s
  | .cycleBoundary => Sys2Proof.Machine.execCycleBoundary s
  | .shaftLost => Sys2Proof.Machine.execShaftLost s
  | .slewEnd => Sys2Proof.Machine.execSlewEnd s
  | .slotActionExecute => Sys2Proof.Machine.execSlotActionExecute s
  | .ringBroken => Sys2Proof.Machine.execRingBroken s
  | .ringRestored => Sys2Proof.Machine.execRingRestored s
  | .loopFrame => Sys2Proof.Machine.execLoopFrame s
  | .cmdStop => Sys2Proof.Machine.execCmdStop s
  | .cmdRunWarm => Sys2Proof.Machine.execCmdRunWarm s
  | .cmdRunCold => Sys2Proof.Machine.execCmdRunCold s
  | .cmdHold => Sys2Proof.Machine.execCmdHold s
  | .cmdRunFromHold => Sys2Proof.Machine.execCmdRunFromHold s
  | .cmdStep => Sys2Proof.Machine.execCmdStep s
  | .clearFault => Sys2Proof.Machine.execClearFault s
  | .restartComplete => Sys2Proof.Machine.execRestartComplete s
  | .sramInitDone => Sys2Proof.Machine.execSramInitDone s
  | .dramInitDone => Sys2Proof.Machine.execDramInitDone s
  | .retirementDone => Sys2Proof.Machine.execRetirementDone s
  | .nvsTrim => Sys2Proof.Machine.execNvsTrim s
  | .nvsCommandEnd => Sys2Proof.Machine.execNvsCommandEnd s
  | .nvsReady => Sys2Proof.Machine.execNvsReady s
  | .nvsReadyTimeout => Sys2Proof.Machine.execNvsReadyTimeout s
  | .macReceive => Sys2Proof.Machine.execMacReceive s
  | .timestampPop => Sys2Proof.Machine.execTimestampPop s
  | .pauseXoff => Sys2Proof.Machine.execPauseXoff s
  | .pauseRepeat => Sys2Proof.Machine.execPauseRepeat s
  | .pauseXon => Sys2Proof.Machine.execPauseXon s
  | .loadChecksDone => Sys2Proof.Machine.execLoadChecksDone s
  | .fbsSnapRequest => Sys2Proof.Machine.execFbsSnapRequest s
  | .timSecondBoundary => Sys2Proof.Machine.execTimSecondBoundary s
  | .timSecRead => Sys2Proof.Machine.execTimSecRead s
  | .loadrtc => Sys2Proof.Machine.execLoadrtc s
  | .rtcLoadComplete => Sys2Proof.Machine.execRtcLoadComplete s
  | .ptpSyncTimeout => Sys2Proof.Machine.execPtpSyncTimeout s
  | .rtcWriteApply => Sys2Proof.Machine.execRtcWriteApply s
  | .synctim => Sys2Proof.Machine.execSynctim s
  | .clrsw => Sys2Proof.Machine.execClrsw s
  | .rtcSecond => Sys2Proof.Machine.execRtcSecond s
  | .rtcOscStop => Sys2Proof.Machine.execRtcOscStop s
  | .aonSwitchover => Sys2Proof.Machine.execAonSwitchover s
  | .aonReset => Sys2Proof.Machine.execAonReset s
  | .rtcWake => Sys2Proof.Machine.execRtcWake s
  | .keyOperationEnd => Sys2Proof.Machine.execKeyOperationEnd s
  | .flaconComplete => Sys2Proof.Machine.execFlaconComplete s
  | .stageVerifyDone => Sys2Proof.Machine.execStageVerifyDone s
  | .sliceVerifyDeadline => Sys2Proof.Machine.execSliceVerifyDeadline s
  | .sliceBankSwitch => Sys2Proof.Machine.execSliceBankSwitch s
  | .confirmationExpired => Sys2Proof.Machine.execConfirmationExpired s
  | .fallbackSlot => Sys2Proof.Machine.execFallbackSlot s
  | .fallbackRetry => Sys2Proof.Machine.execFallbackRetry s
  | .pfwTrip => Sys2Proof.Machine.execPfwTrip s
  | .pfwClear => Sys2Proof.Machine.execPfwClear s
  | .pfholdExpiry => Sys2Proof.Machine.execPfholdExpiry s
  | .holdupRailLow => Sys2Proof.Machine.execHoldupRailLow s
  | .powerDownShed => Sys2Proof.Machine.execPowerDownShed s
  | .holdupRailExhausted => Sys2Proof.Machine.execHoldupRailExhausted s
  | .resetTimerExpiry => Sys2Proof.Machine.execResetTimerExpiry s
  | .resetInput => Sys2Proof.Machine.execResetInput s
  | .pwrReset => Sys2Proof.Machine.execPwrReset s
  | .powerOnRunRequest => Sys2Proof.Machine.execPowerOnRunRequest s
  | .pwrSleep => Sys2Proof.Machine.execPwrSleep s
  | .pwrPit => Sys2Proof.Machine.execPwrPit s
  | .holdupCharged => Sys2Proof.Machine.execHoldupCharged s
  | .syncPulse => Sys2Proof.Machine.execSyncPulse s
  | .witnessLost => Sys2Proof.Machine.execWitnessLost s
  | .witnessReturn => Sys2Proof.Machine.execWitnessReturn s
  | .aditConnection => Sys2Proof.Machine.execAditConnection s

end Sys2Proof.Machine
end

