-- ==== Sys2Proof/Safety.lean ====
section
/-! DEFINITION. What claims say of a state and of a step: the canonical form of the stores, safe states, risen lines, and what an
engine instruction leaves behind it (its result, its advance, its frame, or its trap). -/

namespace Sys2Proof.Machine

/-! ### States -/

/-- The memory keeps its canonical form: addresses strictly rising, no entry that an unlisted address reads as. -/
def Memory.wf (m : List Host.Cell) : Bool := Sparse.wf 0 m

/-- Memory and flash keep their canonical form. -/
def State.canonical (s : State) : Bool := Memory.wf s.mem && Memory.wf s.flash

/-- Nothing waits for a save, for NVS or for a gap to go on: no entry to RUN, no load, no gap, no boot record, no settings, no erase of
the tally log, no image to read. -/
def State.settled (s : State) : Prop :=
  s.tsk.entry = .none ∧ s.loading = .idle ∧ s.upd.gap = none ∧ s.key.bootDue = false ∧ s.upd.setDue = false ∧ s.host.erases = [] ∧
    s.pwr.imageDue = false ∧ s.pwr.refillDue = false

/-- The controller mode is STOP, RUN or HOLD (TSK_STAT). -/
def State.legalMode (s : State) : Bool := decide (s.mode ≤ 2)

/-- Nothing has gone against the contract: no breach (R20), no unmapped access (R22), no latched stop fault (R93). -/
def State.safe (s : State) : Bool := !s.on R.SYS_STAT_BREACH && !s.on R.SYS_STAT_UNMAP && !s.on R.TSK_STAT_FLT

/-- Line `n` has risen and its bit of SYS_IRQPEND is set (R28). -/
def State.lineUp (s : State) (n : Nat) : Bool := bitOf (s.rd (R.SYS_IRQPEND_PEND (n / 64))) (n % 64)

/-- The fields that a rising line can touch: its bit of SYS_IRQPEND and the engines' events (R28, R29). -/
def lineFlds (n : Nat) : List Fld :=
  R.SYS_IRQPEND_PEND (n / 64) :: (List.range 4).map fun e => R.FBE_EVLIVE_LIVE e (n / 64)

/-- A slice inserts its section in the ring. -/
def State.sliceUp (s : State) (n : Nat) : Bool := (s.sliceOf n).up

/-! ### Steps -/

/-- The command answers a next state, and `P` holds of it. -/
def Completes (c : Instr) (s : State) (P : State → Prop) : Prop := ∃ t, exec c s = .next t ∧ P t

/-- No register field differs but those of a list. -/
def OnlyFields (fs : List Fld) (s t : State) : Prop := ∀ f : Fld, (∀ g ∈ fs, f.key ≠ g.key) → t.rd f = s.rd f

/-- A controller stop (R93): the controller is in STOP with its cause, the fault is latched with its task, its master and the phase,
FLT is set, the FAULT output asserted and line 25 up, no commit waits, no engine runs, and no byte of memory has changed. Registers,
IP, task and trap record of each engine stay as they were (R138); that an engine so halted reads STATE 0 is the model's choice (log
entry 12). -/
def Stopped (cause fault task master : Nat) (s t : State) : Prop :=
  t.mode = 0 ∧ t.rd R.TSK_STAT_CAUSE = cause ∧ t.rd R.TSK_FAULT_FAULT = fault ∧ t.rd R.TSK_FAULT_TASK = task ∧
    t.rd R.TSK_FAULT_MASTER = master ∧ t.rd R.TSK_STAT_FLT = 1 ∧ t.faultOut = true ∧ t.lineUp 25 = true ∧
    t.rd R.TSK_FAULTPH_PHASE = s.rd R.PHS_PHASE_PHASE ∧ t.rd R.TSK_FAULTPH_TURN = s.rd R.PHS_PHASE_TURN ∧
    t.tsk.hostCommits = [] ∧ t.mem = s.mem ∧
    ∀ e : Eng, t.rd (R.FBE_STAT_STATE e) = (if s.rd (R.FBE_STAT_STATE e) = 3 then 3 else 0) ∧
      t.rd (R.FBE_STAT_TASK e) = s.rd (R.FBE_STAT_TASK e) ∧ t.rd (R.FBE_TRAP_FAULT e) = s.rd (R.FBE_TRAP_FAULT e) ∧
      ∀ b < 3, t.rd (R.FBE_BANK_IP_IP e b) = s.rd (R.FBE_BANK_IP_IP e b) ∧
        ∀ n < 16, t.rd (R.FBE_BANK_X_X e b n) = s.rd (R.FBE_BANK_X_X e b n)

/-- Only the fields of a list differ, and no byte of memory or flash. -/
def OnlyRegs (fs : List Fld) (s t : State) : Prop := OnlyFields fs s t ∧ t.mem = s.mem ∧ t.flash = s.flash

/-- A master that is no engine (Table 1.3). -/
def otherMaster (m : BitVec 4) : Prop := m.toNat < 2 ∨ 5 < m.toNat

/-! ### Engine instructions -/

/-- Engine `e` runs a task, and no codeword of memory is in error, so that every fetch and access reads clean. -/
def Running (e : Eng) (s : State) : Prop := s.rd (R.FBE_STAT_STATE e) = 1 ∧ s.memx.ecc = []

/-- Register xn at a width. -/
def State.reg (s : State) (e : Eng) (n : BitVec 4) (k : Nat) : BitVec k := BitVec.ofNat k (s.x e n)

/-- The field that holds xn of the bank in use. -/
def State.xF (s : State) (e : Eng) (n : BitVec 4) : Fld := R.FBE_BANK_X_X e (s.bank e) n.toNat

/-- The field that holds IP of the bank in use. -/
def State.ipF (s : State) (e : Eng) : Fld := R.FBE_BANK_IP_IP e (s.bank e)

/-- The field that holds FS of the bank in use. -/
def State.fsF (s : State) (e : Eng) : Fld := R.FBE_BANK_FS_FS e (s.bank e)

/-- The type code of an integer instruction and its width: .w or .d (R113). -/
def IntWidth (ty : BitVec 3) (k : Nat) : Prop := (ty = 2 ∧ k = 32) ∨ (ty = 3 ∧ k = 64)

/-- The type code of a float instruction, its format and its width: .f or .g (R113). -/
def FloatWidth (ty : BitVec 3) (f : FFmt) (k : Nat) : Prop := (ty = 4 ∧ f = f32 ∧ k = 32) ∨ (ty = 5 ∧ f = f64 ∧ k = 64)

/-- The value of a finite pattern. -/
def FVal.rat : FVal → Rat
  | .num s m e => (if s then -1 else 1) * (m : Rat) * (2 : Rat) ^ e
  | _ => 0

/-- The magnitude from which a result rounds to an infinity: the largest finite number and half of its last place. -/
def FFmt.overflow (f : FFmt) : Rat := (2 ^ (f.mb + 2) - 1 : Rat) * (2 : Rat) ^ (f.qmin + f.top - 3)

/-- `r` is the pattern that IEEE 754 gives the exact value `q`, not 0, rounded to nearest with ties to even (R115): an infinity past the
largest finite number; else finite, no farther from `q` than any finite pattern, its last bit 0 where another is as near; with the
sign of `q`. -/
def FFmt.Nearest (f : FFmt) (q : Rat) (r : Nat) : Prop :=
  let d := fun c => ((f.unpack c).rat - q).abs
  r < 2 * f.signBit ∧ decide (f.signBit ≤ r) = decide (q < 0) ∧
    if f.overflow ≤ q.abs then f.unpack r = .inf (decide (q < 0))
    else (f.unpack r).finite = true ∧ ∀ c < 2 * f.signBit, (f.unpack c).finite = true →
      d r ≤ d c ∧ ((f.unpack c).rat ≠ (f.unpack r).rat → d c = d r → r % 2 = 0)

/-- `r` is the positive finite pattern nearest to the square root of `q`, with ties to even (R115, R149): no finite pattern lies between
it and the root, nor nearer on the other side. -/
def FFmt.NearestRoot (f : FFmt) (q : Rat) (r : Nat) : Prop :=
  let v := (f.unpack r).rat
  (f.unpack r).finite = true ∧ r < f.signBit ∧ ∀ c < f.signBit, (f.unpack c).finite = true →
    let w := (f.unpack c).rat
    (v < w → 4 * q ≤ (v + w) * (v + w) ∧ (4 * q = (v + w) * (v + w) → r % 2 = 0)) ∧
      (w < v → (v + w) * (v + w) ≤ 4 * q ∧ ((v + w) * (v + w) = 4 * q → r % 2 = 0))

/-- The type code of a load or store and its width in bytes (R113). -/
def MemBytes (ty : BitVec 3) (n : Nat) : Prop :=
  (ty = 0 ∧ n = 1) ∨ (ty = 1 ∧ n = 2) ∨ (ty = 2 ∧ n = 4) ∨ (ty = 3 ∧ n = 8) ∨ (ty = 4 ∧ n = 4) ∨ (ty = 5 ∧ n = 8)

/-- The instruction word of a Zhevarn instruction, which a trap records (R131). -/
def firstWord (c : Instr) : Word := ((encode c).map (·.1)).getD 0

/-- A `k`-bit value in a 64-bit register, sign-extended where asked (R113). -/
def widened (k : Nat) (signed : Bool) (v : BitVec k) : BitVec 64 := if signed then v.signExtend 64 else v.setWidth 64

/-- IP has moved on by the instruction's length, and the engine has spent its ticks (R119, R133). -/
def Advanced (e : Eng) (len cost : Nat) (s t : State) : Prop :=
  t.ip e = (s.ip e + len) % 2 ^ 32 ∧ sget 0 t.engTicks e = sget 0 s.engTicks e + cost

/-- The instruction's frame: every register field outside the list, every byte of memory and everything else keeps its value;
no other engine spends a tick. -/
def EngFrame (e : Eng) (fs : List Fld) (s t : State) : Prop :=
  OnlyFields fs s t ∧ (∀ k, k ≠ e.val → sget 0 t.engTicks k = sget 0 s.engTicks k) ∧
    { t with regs := s.regs, engTicks := s.engTicks } = s

/-- The frame of a store of `n` bytes at `a`: as EngFrame, but for MEM_STAT.DIRTY and the bytes stored. -/
def StoreFrame (e : Eng) (fs : List Fld) (a n : Nat) (s t : State) : Prop :=
  OnlyFields (R.MEM_STAT_DIRTY :: fs) s t ∧ (∀ k, k ≠ e.val → sget 0 t.engTicks k = sget 0 s.engTicks k) ∧
    (∀ k, k < a ∨ a + n ≤ k → sget 0 t.mem k = sget 0 s.mem k) ∧
    { t with regs := s.regs, engTicks := s.engTicks, mem := s.mem } = s

/-- An integer instruction has put a `k`-bit result into xd, extended as S says, and set the flags: Z and N from the result, C and
V as given, Q as it was (R113, R116). -/
def IntPost (e : Eng) (d : BitVec 4) (sx : Bool) (k : Nat) (r : BitVec k) (c v : Bool) (len cost : Nat) (s t : State) : Prop :=
  t.reg e d 64 = widened k sx r ∧ t.flags e = ⟨r == 0, r.msb, c, v, (s.flags e).q⟩ ∧ Advanced e len cost s t ∧
    EngFrame e [s.xF e d, s.fsF e, s.ipF e] s t

/-- An instruction has put a 64-bit value into xd and changed no flag. -/
def RegPost (e : Eng) (d : BitVec 4) (r : BitVec 64) (len cost : Nat) (s t : State) : Prop :=
  t.reg e d 64 = r ∧ Advanced e len cost s t ∧ EngFrame e [s.xF e d, s.ipF e] s t

/-- A trap of engine `e` (R131): the engine is trapped with the fault, IP, word and operand in its registers, no register or flag
of the engine's bank and no byte of memory has changed; and a controller in RUN or HOLD has stopped with cause 3 (R93). -/
def Trapped (e : Eng) (fault addr : Nat) (word : Word) (s t : State) : Prop :=
  t.rd (R.FBE_STAT_STATE e) = 3 ∧ t.rd (R.FBE_TRAP_FAULT e) = fault ∧ t.rd (R.FBE_TRAPIP_IP e) = s.ip e % 2 ^ 32 ∧
    t.rd (R.FBE_TRAPWORD_WORD e) = word.toNat ∧ t.rd (R.FBE_TADDR_ADDR e) = addr % 2 ^ 40 ∧
    (∀ n, t.x e n = s.x e n) ∧ t.flags e = s.flags e ∧ t.ip e = s.ip e ∧ t.mem = s.mem ∧ t.lineUp (32 + e) = true ∧
    (s.mode ≠ 0 → t.mode = 0 ∧ t.rd R.TSK_FAULT_FAULT = fault ∧ t.rd R.TSK_STAT_FLT = 1 ∧ t.rd R.TSK_STAT_CAUSE = 3)

end Sys2Proof.Machine
end

