-- ==== Sys2Proof/WellFormed.lean ====
section
/-! DEFINITION. Which commands are well formed: what an operand must be beyond its type. An instruction's modifier names the
form it stands for; an event brings as many values as its source has. -/

namespace Sys2Proof

/-- The services of Table 6.11. -/
def sysDefined : List Nat := [0x1, 0x2, 0x3, 0x4, 0x10, 0x11, 0x12, 0x13, 0x14, 0x20, 0x30, 0x40]

/-- The opcodes that Table 6.14 assigns. -/
def assignedOpcodes : List Nat :=
  [0x01, 0x02, 0x03, 0x04, 0x08, 0x09, 0x0A, 0x0B, 0x0C, 0x18, 0x19] ++
  [0x20, 0x21, 0x22, 0x23, 0x24, 0x25, 0x26, 0x27, 0x28, 0x29, 0x2A, 0x2B, 0x2C, 0x2D, 0x2E, 0x2F] ++
  [0x30, 0x31, 0x32, 0x33, 0x34, 0x38, 0x39, 0x3A, 0x3B, 0x3C, 0x3D] ++
  [0x40, 0x41, 0x42, 0x43, 0x44, 0x45, 0x46, 0x47, 0x48, 0x50, 0x51] ++
  [0x60, 0x61, 0x62, 0x63, 0x64, 0x88, 0x89, 0x8A, 0x8B, 0x8C] ++
  [0xB8, 0xB9, 0xBA, 0xBB, 0xBC, 0xBD, 0xD0, 0xD8, 0xD9, 0xDA, 0xE0]

/-- The data bytes that a frame's DLC stands for: 0 to 8 in a classical frame, none in a remote one, and up to 64 in CAN FD
(R323, R334). -/
def canBytes (f : CanFrame) : Nat :=
  let n := f.dlc.toNat
  if f.rtr then 0
  else if n ≤ 8 then n
  else if !f.fdf then 8
  else [12, 16, 20, 24, 32, 48, 64].getD (n - 9) 64

/-- A settings record holds labels of up to 32 bytes, tenants 1 to 64 and definitions of 72 bytes for the module's own codes
(R372, R386, R412). -/
def SettingsRec.wellFormed (r : SettingsRec) : Bool :=
  decide (r.site.length ≤ 32) && decide (r.building.length ≤ 32) &&
    (r.tenants.all fun t => decide (1 ≤ t.1.toNat) && decide (t.1.toNat ≤ 64) && decide (t.2.length ≤ 32)) &&
    r.defs.all fun d => d.length == 72

/-- A command is well formed. -/
def WellFormed (i : Instr) : Bool :=
  match i with
  | .sysUndefined _ _ _ n => !sysDefined.contains n.toNat
  | .illegalInstruction _ w => !assignedOpcodes.contains (opcodeOf w).toNat
  | .call _ w _ => !w.fn.getLsbD 0
  | .callf _ w _ => !w.fn.getLsbD 0
  | .callIndirect _ w _ => w.fn.getLsbD 0
  | .callfIndirect _ w _ => w.fn.getLsbD 0
  | .lpw _ w => w.fn.toNat != 4 && w.fn.toNat != 5 && w.fn.toNat != 6
  | .lpwOwn _ w => w.fn.toNat == 4
  | .lpwSwap _ w => w.fn.toNat == 5
  | .lpwClr _ w => w.fn.toNat == 6
  | .ringFrame _ _ _ up => up.ai.length == 8 && up.volts.length == 4 && up.align.length == 6
  | .meteringSample _ v vh i => v.length == 4 && vh.length == 3 && i.length == 4
  | .pointRead _ _ ps => decide (ps.length ≤ 256)
  | .pointWrite _ _ ws => decide (ws.length ≤ 64)
  | .load _ _ _ chunk _ => decide (chunk.length ≤ 1048576)
  | .stage _ _ _ _ chunk _ => decide (chunk.length ≤ 1048576)
  | .lock _ _ _ mac => mac.length == 32
  | .tallyExport _ _ _ _ erase =>
    match erase with
    | some e => e.2.length == 32
    | none => true
  | .settingsPut _ _ r owner =>
    r.wellFormed &&
      match owner with
      | some node => node.length == 32
      | none => true
  | .fbsReceive _ f _ _ => f.data.length == canBytes f && !(f.fdf && f.rtr)
  | _ => true

end Sys2Proof
end

