-- ==== Sys2Proof/Certificates/Slice0/Obligations.lean ====
section
/-! DEFINITION. The statements of this slice. Each names in its docstring the rules of spec/ it states, or the log entries that a
clause rests on. -/

section
open Sys2Proof Sys2Proof.Machine

/-! ## The block -/

/-- A step takes the command at the front of the queue and runs it with the queue's rest. -/
def Obligations.StepRunsFrontCommand : Prop :=
  ∀ (c : Instr) (rest : List Instr) (s : State), s.pending = c :: rest → step s = exec c { s with pending := rest }

/-- On an empty queue an idle block lets one engine clock of 2.5 ns pass (R30, log entry 2): held in reset only the crystal of the
calendar runs on, and the block's clock stands still; else the clock counts, and in a module that is not asleep the main word, where
it crosses no boundary and the calendar gives TIM no time, counts PHS_INC and its turn count stays; with no codeword in error and no
load that waits to be committed, so does every byte of memory (R35, R36). That an idle block lets its clock run, the order of the parts
of a clock, and that the crystal runs through reset are the model's choices (log entries 2 and 61). -/
def Obligations.EmptyQueueTick : Prop :=
  ∀ s : State, s.pending = [] →
    (s.pwr.held = true → step s = .next s.tickRtc ∧ s.tickRtc.clk = s.clk ∧ s.tickRtc.pending = []) ∧
    (s.pwr.held = false → s.rd R.PWR_STAT_SLEEP = 0 → ∃ t, step s = .next t ∧ t.clk = s.clk + 1 ∧ t.pending = [] ∧
      (let p := s.rd R.PHS_PHASE_PHASE * 2 ^ 32 + s.phs.frac + s.rd R.PHS_INC_INC
       s.domOn 10 = true → s.tim.loading = false → (∀ bs im led, s.loading ≠ .waitSave bs im led) → p < 2 ^ 64 →
        cycleOf s.cycles (p / 2 ^ 32) = cycleOf s.cycles (s.rd R.PHS_PHASE_PHASE) →
        t.rd R.PHS_PHASE_PHASE = p / 2 ^ 32 ∧ t.phs.frac = p % 2 ^ 32 ∧ t.rd R.PHS_PHASE_TURN = s.rd R.PHS_PHASE_TURN ∧
        (s.memx.ecc = [] → t.mem = s.mem)))

/-- Every command of the table answers a next state, in every state: no row ends in a fault or a refusal. -/
def Obligations.EveryCommandAnswersNext : Prop := ∀ (c : Instr) (s : State), ∃ t, exec c s = .next t

/-- Right after reset (R8, R281): every register field of the register tables at its reset value, every byte of memory and flash 0,
the command queue empty, the controller in STOP, the engines halted; and the state is canonical. That flash reads 0, with nothing in it,
is the model's choice (DESIGN CHOICE, log entry 4), that the block is held in reset until RESET_RELEASE too (log entry 5). -/
def Obligations.ResetState : Prop :=
  (∀ f : Fld, State.reset.rd f = f.reset % 2 ^ f.width) ∧ (∀ a, sget 0 State.reset.mem a = 0) ∧
  (∀ a, sget 0 State.reset.flash a = 0) ∧ State.reset.pending = [] ∧ State.reset.mode = 0 ∧
  (∀ e : Eng, State.reset.rd (R.FBE_STAT_STATE e) = 0) ∧ State.reset.pwr.held = true ∧ State.reset.canonical = true ∧
  State.reset.safe = true

/-- Memory and flash keep their canonical form through every step: addresses strictly rising, no entry equal to what an unlisted
address reads as (the form is the model's own, log entry 4). -/
def Obligations.EveryStepKeepsCanonical : Prop :=
  ∀ s t : State, s.canonical = true → step s = .next t → t.canonical = true

/-- The canonical form, the model's own (log entry 4), through every instruction of an engine but ST, whose register writes can reach
every block: the part of EveryStepKeepsCanonical that EngFrame and StoreFrame give. -/
def Obligations.InstructionKeepsCanonical : Prop :=
  ∀ (c : Instr) (e : Eng) (s t : State), engOf c = some e → (∀ op w x, c ≠ .st e op w x) → s.canonical = true →
    exec c s = .next t → t.canonical = true

/-- Decoding the words of an instruction gives the instruction back, with every operand at every value its fields admit (R119,
R139, R164, Tables 5.6, 6.1 to 6.14). -/
def Obligations.DecodeOfEncode : Prop :=
  ∀ (i : Instr) (e : Eng) (w : Word) (x : Option Word), WellFormed i = true → engOf i = some e → encode i = some (w, x) →
    decodeZ e w (x.getD 0) = i ∧ ((∀ v, i ≠ .illegalInstruction e v) → wordLen w = if x.isSome then 8 else 4)

/-- A few words, bit by bit from the tables: ADD.d x1, x2, x3; SHL.w x4, x5, #7; STI.h x6, [IB + 0x20]; BC LO, -2; MOVI x7 with the
extension word; LOOP x2, -5, 16; SYS TNOW into x9; an unassigned opcode (Tables 5.6, 6.1, 6.4, 6.7, 6.11). -/
def Obligations.EncodingWords : Prop :=
  decodeZ 0 0x20123600 0 = .add 0 ⟨1, 2, 3, 3, false, 0⟩ ∧ decodeZ 1 0x2C450487 0 = .shl 1 ⟨4, 5, 0, 2, false, 0x87⟩ ∧
  decodeZ 2 0x09610020 0 = .sti 2 ⟨6, false, 1, 0x20⟩ none ∧ decodeZ 3 0x5130FFFE 0 = .bc 3 ⟨3, 0, 0xFFFE⟩ ∧
  decodeZ 0 0xBD700001 0x23456789 = .movi 0 ⟨7, 0, 1⟩ (some 0x23456789) ∧
  decodeZ 0 0xD002FFFB 0x00000010 = .loop 0 ⟨0, 2, 0xFFFB⟩ 0 16 ∧ decodeZ 1 0x04900010 0 = .tnow 1 9 0 ∧
  decodeZ 0 0xFF000000 0 = .illegalInstruction 0 0xFF000000

/-! ## Zhevarn instructions -/

/-- ADD, SUB and NEG (R145, R116): result, flags, advance, cost and frame at both widths. -/
def Obligations.AddSubNegResult : Prop :=
  ∀ (e : Eng) (w : FmtA) (s : State) (k : Nat), Running e s → IntWidth w.ty k →
    let a := s.reg e w.a k
    let b := s.reg e w.b k
    Completes (.add e w) s (IntPost e w.d w.sx k (a + b) (decide (2 ^ k ≤ a.toNat + b.toNat)) (a.saddOverflow b) 4 1 s) ∧
    Completes (.sub e w) s (IntPost e w.d w.sx k (a - b) (decide (b.toNat ≤ a.toNat)) (a.ssubOverflow b) 4 1 s) ∧
    Completes (.neg e w) s (IntPost e w.d w.sx k (-a) (decide (a = 0)) ((0 : BitVec k).ssubOverflow a) 4 1 s)

/-- MUL, ABS, AND, OR, XOR and NOT (R145, R116, Table 6.4). -/
def Obligations.MulAbsLogicResult : Prop :=
  ∀ (e : Eng) (w : FmtA) (s : State) (k : Nat), Running e s → IntWidth w.ty k →
    let a := s.reg e w.a k
    let b := s.reg e w.b k
    Completes (.mul e w) s (IntPost e w.d w.sx k (a * b) false false 4 (if k = 32 then 2 else 3) s) ∧
    Completes (.abs e w) s (IntPost e w.d w.sx k (if a.msb then -a else a) false (decide (a = BitVec.intMin k)) 4 1 s) ∧
    Completes (.and e w) s (IntPost e w.d w.sx k (a &&& b) false false 4 1 s) ∧
    Completes (.or e w) s (IntPost e w.d w.sx k (a ||| b) false false 4 1 s) ∧
    Completes (.xor e w) s (IntPost e w.d w.sx k (a ^^^ b) false false 4 1 s) ∧
    Completes (.not e w) s (IntPost e w.d w.sx k (~~~a) false false 4 1 s)

/-- SHL, SHR, ASR, ROT, BIT, SET and CLR (R146, R116): the count from FN or xb modulo the width, the result, C the last bit
shifted out or 0 for a count of 0; SET and CLR change no flag. -/
def Obligations.ShiftBitResult : Prop :=
  ∀ (e : Eng) (w : FmtA) (s : State) (k : Nat), Running e s → IntWidth w.ty k →
    let a := s.reg e w.a k
    let n := (if w.fn.getLsbD 7 then (w.fn.extractLsb' 0 6).toNat else ((s.reg e w.b 64).extractLsb' 0 6).toNat) % k
    let c := fun i => n != 0 && a.getLsbD i
    Completes (.shl e w) s (IntPost e w.d w.sx k (a <<< n) (c (k - n)) false 4 1 s) ∧
    Completes (.shr e w) s (IntPost e w.d w.sx k (a >>> n) (c (n - 1)) false 4 1 s) ∧
    Completes (.asr e w) s (IntPost e w.d w.sx k (a.sshiftRight n) (c (n - 1)) false 4 1 s) ∧
    Completes (.rot e w) s (IntPost e w.d w.sx k (a.rotateLeft n) (n != 0 && (a.rotateLeft n).getLsbD 0) false 4 1 s) ∧
    Completes (.bit e w) s (IntPost e w.d w.sx k (if a.getLsbD n then 1 else 0) false false 4 1 s) ∧
    Completes (.set e w) s (RegPost e w.d (widened k w.sx (a ||| 1#k <<< n)) 4 1 s) ∧
    Completes (.clr e w) s (RegPost e w.d (widened k w.sx (a &&& ~~~(1#k <<< n))) 4 1 s)

/-- DIV (R147, R114): truncation toward zero, signed with S, the remainder with FN[0], V at the most negative value divided by
-1, and the trap of a zero divisor. -/
def Obligations.DivResult : Prop :=
  ∀ (e : Eng) (w : FmtA) (s : State) (k : Nat), Running e s → IntWidth w.ty k →
    let a := s.reg e w.a k
    let b := s.reg e w.b k
    (b = 0 → Completes (.div e w) s (Trapped e 0x0509 0 (packA 0x25 w) s)) ∧
    (b ≠ 0 → Completes (.div e w) s
      (IntPost e w.d w.sx k (match w.sx, w.fn.getLsbD 0 with
          | false, false => a.udiv b
          | false, true => a.umod b
          | true, false => a.sdiv b
          | true, true => a.srem b)
        false (w.sx && decide (a = BitVec.intMin k) && decide (b = BitVec.allOnes k)) 4 (if k = 32 then 18 else 34) s))

/-- CMP, MOV, SEL, LIM, and the flags of MOVI (R148, R145, R118): SEL under every condition code; where xa is greater than xb, LIM
gives xb. -/
def Obligations.CmpMovSelLimResult : Prop :=
  ∀ (e : Eng) (w : FmtA) (s : State), Running e s →
    Completes (.mov e w) s (RegPost e w.d (s.reg e w.a 64) 4 1 s) ∧
    Completes (.sel e w) s
      (RegPost e w.d (if (s.flags e).cond (w.fn.extractLsb' 0 4) then s.reg e w.a 64 else s.reg e w.b 64) 4 1 s) ∧
    (∀ (i : FmtI) (ext : Option Word), Completes (.movi e i ext) s (fun t => t.flags e = s.flags e)) ∧
    ∀ k, IntWidth w.ty k →
      let d := s.reg e w.d k
      let a := s.reg e w.a k
      let b := s.reg e w.b k
      let lim := if w.sx then (let m := if d.slt a then a else d; if b.slt m then b else m)
        else (let m := if d < a then a else d; if b < m then b else m)
      Completes (.cmp e w) s (fun t =>
        t.flags e = ⟨a - b == 0, (a - b).msb, decide (b.toNat ≤ a.toNat), a.ssubOverflow b, (s.flags e).q⟩ ∧
          Advanced e 4 1 s t ∧ EngFrame e [s.fsF e, s.ipF e] s t) ∧
      Completes (.lim e w) s (RegPost e w.d (widened k w.sx lim) 4 1 s) ∧
      ((if w.sx then b.slt a = true else b < a) → lim = b)

/-- The immediate forms (R145, R116, R148): always .d, on the sign-extended 16-bit immediate, or on the 48-bit one that the
extension word completes; MOVI changes no flag. -/
def Obligations.ImmediateResult : Prop :=
  ∀ (e : Eng) (w : FmtI) (ext : Option Word) (s : State), Running e s →
    let a := s.reg e w.a 64
    let b : DWord := match ext with
      | none => w.imm.signExtend 64
      | some x => (w.imm ++ x).signExtend 64
    let len := if ext.isSome then 8 else 4
    let post := fun r c v => IntPost e w.d false 64 r c v len 1 s
    Completes (.addImm e w ext) s (post (a + b) (decide (2 ^ 64 ≤ a.toNat + b.toNat)) (a.saddOverflow b)) ∧
    Completes (.andImm e w ext) s (post (a &&& b) false false) ∧
    Completes (.orImm e w ext) s (post (a ||| b) false false) ∧
    Completes (.xorImm e w ext) s (post (a ^^^ b) false false) ∧
    Completes (.movi e w ext) s (RegPost e w.d b len 1 s) ∧
    Completes (.cmpImm e w ext) s (fun t =>
      t.flags e = ⟨a - b == 0, (a - b).msb, decide (b.toNat ≤ a.toNat), a.ssubOverflow b, (s.flags e).q⟩ ∧
        Advanced e len 1 s t ∧ EngFrame e [s.fsF e, s.ipF e] s t)

/-- FADD to FMAX and FCMP (R149, R115, R116, Table 5.4): the IEEE 754 result of the format in xd, the upper half 0 for .f, and no
flag; FCMP sets the flags by the order of its operands and writes no register. What f.add to f.minMax give is the matter of
FloatArithmetic: the exact result rounded to nearest even. -/
def Obligations.FloatResult : Prop :=
  ∀ (e : Eng) (w : FmtA) (s : State) (f : FFmt) (k : Nat), Running e s → FloatWidth w.ty f k →
    let a := (s.reg e w.a k).toNat
    let b := (s.reg e w.b k).toNat
    let post := fun r c32 c64 => RegPost e w.d (BitVec.ofNat 64 r) 4 (if k = 32 then c32 else c64) s
    Completes (.fadd e w) s (post (f.add a b) 2 3) ∧ Completes (.fsub e w) s (post (f.sub a b) 2 3) ∧
    Completes (.fmul e w) s (post (f.mul a b) 2 3) ∧ Completes (.fdiv e w) s (post (f.div a b) 10 16) ∧
    Completes (.fsqrt e w) s (post (f.sqrt a) 12 20) ∧ Completes (.fmin e w) s (post (f.minMax false a b) 2 2) ∧
    Completes (.fmax e w) s (post (f.minMax true a b) 2 2) ∧
    Completes (.fcmp e w) s (fun t =>
      t.flags e = (match (f.unpack a).cmp (f.unpack b) with
        | some .eq => ⟨true, false, true, false, (s.flags e).q⟩
        | some .lt => ⟨false, true, false, false, (s.flags e).q⟩
        | some .gt => ⟨false, false, true, false, (s.flags e).q⟩
        | none => ⟨false, false, false, true, (s.flags e).q⟩) ∧
      Advanced e 4 2 s t ∧ EngFrame e [s.fsF e, s.ipF e] s t)

/-- Float arithmetic (R115, R149, Table 6.5). On finite operands FADD, FSUB, FMUL and FDIV give the exact result rounded to nearest, ties
to even, and FSQRT the nearest to the root; a sum of zeros and a zero product or quotient has its IEEE 754 sign. On infinities, and
for a divisor 0 or a negative root, the result is the listed infinity, zero or NaN. A NaN result is the canonical quiet NaN. FMIN and
FMAX return the operand that is no NaN, else the lower or the higher, -0 below +0. -/
def Obligations.FloatArithmetic : Prop :=
  ∀ (ty : BitVec 3) (f : FFmt) (k a b : Nat), FloatWidth ty f k → a < 2 ^ k → b < 2 ^ k →
    let x := f.unpack a
    let y := f.unpack b
    let neg := fun v => decide (2 ^ (k - 1) ≤ v)
    let zero := fun s : Bool => if s then 2 ^ (k - 1) else 0
    let infinite := fun s : Bool => zero s + f.inf
    (∀ s m e t n g, x = .num s m e → y = .num t n g →
      let p := x.rat
      let q := y.rat
      (p + q ≠ 0 → f.Nearest (p + q) (f.add a b)) ∧ (p - q ≠ 0 → f.Nearest (p - q) (f.sub a b)) ∧
      (p + q = 0 → f.add a b = zero (p = 0 && neg a && neg b)) ∧ (p - q = 0 → f.sub a b = zero (p = 0 && neg a && !neg b)) ∧
      (p * q ≠ 0 → f.Nearest (p * q) (f.mul a b)) ∧ (p * q = 0 → f.mul a b = zero (neg a != neg b)) ∧
      (p ≠ 0 → q ≠ 0 → f.Nearest (p / q) (f.div a b)) ∧ (p = 0 → q ≠ 0 → f.div a b = zero (neg a != neg b)) ∧
      (p ≠ 0 → q = 0 → f.div a b = infinite (neg a != neg b)) ∧ (p = 0 → q = 0 → f.div a b = f.nan) ∧
      (0 < p → f.NearestRoot p (f.sqrt a)) ∧ (p = 0 → f.sqrt a = a) ∧ (p < 0 → f.sqrt a = f.nan) ∧
      x.cmp y = some (if p = q then .eq else if p < q then .lt else .gt) ∧
      (p < q → f.minMax false a b = a ∧ f.minMax true a b = b) ∧ (q < p → f.minMax false a b = b ∧ f.minMax true a b = a) ∧
      (p = q → f.minMax false a b = (if neg a then a else b) ∧ f.minMax true a b = if neg a then b else a)) ∧
    (∀ s, x = .inf s →
      f.sqrt a = (if s then f.nan else a) ∧ (∀ t n g, y = .num t n g → f.add a b = a ∧ f.sub a b = a ∧
        f.div a b = infinite (neg a != neg b) ∧ f.mul a b = (if n = 0 then f.nan else infinite (neg a != neg b)) ∧
        x.cmp y = some (if s then .lt else .gt) ∧ f.minMax false a b = (if s then a else b) ∧
        f.minMax true a b = if s then b else a) ∧
      (∀ t, y = .inf t → x.cmp y = some (if s = t then .eq else if s then .lt else .gt) ∧ f.add a b = (if s = t then a else f.nan) ∧
        f.sub a b = (if s = t then f.nan else a) ∧
        f.mul a b = infinite (neg a != neg b) ∧ f.div a b = f.nan ∧ f.minMax false a b = (if s then a else b) ∧
        f.minMax true a b = if s then b else a)) ∧
    (∀ s m e t, x = .num s m e → y = .inf t → x.cmp y = some (if t then .gt else .lt) ∧ f.add a b = b ∧ f.sub a b = infinite (!neg b) ∧
      f.mul a b = (if m = 0 then f.nan else infinite (neg a != neg b)) ∧ f.div a b = zero (neg a != neg b) ∧
      f.minMax false a b = (if t then b else a) ∧ f.minMax true a b = if t then a else b) ∧
    (∀ r ∈ [f.add a b, f.sub a b, f.mul a b, f.div a b], x = .nan ∨ y = .nan → r = f.nan) ∧ (x = .nan → f.sqrt a = f.nan) ∧
    (x = .nan ∨ y = .nan → x.cmp y = none) ∧
    (∀ r ∈ [f.add a b, f.sub a b, f.mul a b, f.div a b, f.sqrt a], f.unpack r = .nan → r = f.nan) ∧
    (∀ m, x = .nan → y = .nan → f.minMax m a b = f.nan) ∧ (∀ m, x = .nan → y ≠ .nan → f.minMax m a b = b) ∧
    (∀ m, x ≠ .nan → y = .nan → f.minMax m a b = a)

/-- CVT between integers and floats (R150, R115, Table 6.6): toward zero and saturated from a float, a NaN giving 0, with V on
saturation or a NaN and not for a fraction cut off; rounded by FN[4:3] to a float; between integers with V where the value did not fit;
Z, N, C and Q unchanged. -/
def Obligations.CvtResult : Prop :=
  ∀ (e : Eng) (w : FmtA) (s : State) (src : BitVec 3), Running e s → src = w.fn.extractLsb' 0 3 →
    let mode := (w.fn.extractLsb' 3 2).toNat
    let post := fun (r : DWord) (v : Bool) => Completes (.cvt e w) s (fun t =>
      t.reg e w.d 64 = r ∧ t.flags e = { s.flags e with v := v } ∧ Advanced e 4 2 s t ∧
        EngFrame e [s.xF e w.d, s.fsF e, s.ipF e] s t)
    (∀ f k m, FloatWidth src f k → IntWidth w.ty m →
      let lo : Int := if w.sx then -2 ^ (m - 1) else 0
      let hi : Int := if w.sx then 2 ^ (m - 1) - 1 else 2 ^ m - 1
      match f.unpack (s.reg e w.a k).toNat with
      | .nan => post 0 true
      | .inf g => post (widened m w.sx (BitVec.ofInt m (if g then lo else hi))) true
      | .num g n x =>
        let i := ((FVal.num g n x).trunc).getD 0
        post (widened m w.sx (BitVec.ofInt m (max lo (min hi i)))) (decide (i < lo) || decide (hi < i))) ∧
    (∀ k f m, IntWidth src k → FloatWidth w.ty f m →
      post (BitVec.ofNat 64 (f.ofInt mode (if w.sx then (s.reg e w.a k).toInt else (s.reg e w.a k).toNat))) false) ∧
    (∀ f k g m, FloatWidth src f k → FloatWidth w.ty g m →
      let x := (s.reg e w.a k).toNat
      post (BitVec.ofNat 64 (if f.unpack x = .nan then g.nan else if src = w.ty then x else g.ofVal mode (f.unpack x))) false) ∧
    (∀ k m, IntWidth src k → IntWidth w.ty m →
      let r : DWord := if k ≤ m then widened k w.sx (s.reg e w.a k) else widened m w.sx (s.reg e w.a m)
      post r (decide (m < k ∧ r ≠ s.reg e w.a 64)))

/-- LDI, LDL, LDK and LD from the stores and the process image (R142, R143, R121, R113): the bytes at the effective address, within
the bound of the base, extended into xd. For LDI the header that gives SIZE lies in one of the stores too. An address past 40 bits is taken
modulo 2^40, the model's choice (log entry 54). -/
def Obligations.LoadResult : Prop :=
  ∀ (e : Eng) (w : FmtM) (ext : Option (BitVec 31)) (s : State) (n : Nat), Running e s → MemBytes w.ty n →
    let off := (ext.map BitVec.toNat).getD w.off.toNat
    let len := if ext.isSome then 8 else 4
    let value := fun a => widened (8 * n) (w.sx && w.ty != 4) (BitVec.ofNat (8 * n) (s.peek a n))
    (let a := (s.ib e + off) % 2 ^ 40
     let size := (s.ib e + 4) % 2 ^ 40
     a % n = 0 → isSram a = true → isSram size = true → off + n ≤ s.peek size 4 →
      Completes (.ldi e w ext) s (RegPost e w.d (value a) len 1 s)) ∧
    (let a := (s.lb e + off) % 2 ^ 40
     a % n = 0 → isSram a = true → s.lb e + off + n ≤ s.x e 14 → Completes (.ldl e w ext) s (RegPost e w.d (value a) len 1 s)) ∧
    (let a := (s.kb e + off) % 2 ^ 40
     a % n = 0 → isSram a = true → off + n ≤ s.poolSize → Completes (.ldk e w ext) s (RegPost e w.d (value a) len 1 s)) ∧
    (∀ (op : Fin 3) (x : RegBase),
     let a := (s.x e x.a + x.off.toNat) % 2 ^ 40
     a % n = 0 → isSram a = true → Completes (.ld e op w x) s (RegPost e w.d (value a) 8 1 s))

/-- STI, STL and ST to the instance and the retain store (R142, R143, R121, R134, R282): the bytes of xd at the effective address,
within the bound of the base, and nothing else; a store narrower than a codeword costs 3 ticks. An address past 40 bits is taken
modulo 2^40, the model's choice (log entry 54). -/
def Obligations.StoreResult : Prop :=
  ∀ (e : Eng) (w : FmtM) (ext : Option (BitVec 31)) (s : State) (n : Nat), Running e s → MemBytes w.ty n →
    let off := (ext.map BitVec.toNat).getD w.off.toNat
    let len := if ext.isSome then 8 else 4
    let post := fun a len t =>
      readLE t.mem a n = s.x e w.d % 2 ^ (8 * n) ∧
      t.rd R.MEM_STAT_DIRTY = (s.rd R.MEM_STAT_DIRTY ||| if regionOf a = .inst then 1 else 2) ∧
      Advanced e len (if n < 4 then 3 else 1) s t ∧ StoreFrame e [s.ipF e] a n s t
    let stored := fun a => a % n = 0 ∧ (regionOf a = .inst ∨ regionOf a = .retain)
    let size := (s.ib e + 4) % 2 ^ 40
    (stored (s.eaIB e w ext) → isSram size = true → 16 ≤ off → off + n ≤ s.peek size 4 →
      Completes (.sti e w ext) s (post (s.eaIB e w ext) len)) ∧
    (stored (s.eaLB e w ext) → s.lb e + off + n ≤ s.x e 14 → Completes (.stl e w ext) s (post (s.eaLB e w ext) len)) ∧
    (∀ (op : Fin 2) (x : RegBase), stored (s.eaReg e x) → Completes (.st e op w x) s (post (s.eaReg e x) 8))

/-- Stores outside the contract, and register space (R16, R18, R20, R122, R142, R143): a store to the code store or the process image
lands and is detected, with the count, and for the first since the latch was clear the address, the master, the task and line 0. A store
to a register acts as the register's chapter defines, then is detected in the same way, and costs 12 ticks more, unless it has switched
off the engine's own domain. A load from register space costs 13 ticks, takes what the bus reads and changes no register but those of
the doubleword that it reads, xd and IP. An address past 40 bits is taken modulo 2^40, the model's choice (log entry 54). -/
def Obligations.BreachAndRegisterSpace : Prop :=
  ∀ (e : Eng) (w : FmtM) (ext : Option (BitVec 31)) (x : RegBase) (s : State) (n : Nat), Running e s → MemBytes w.ty n →
    let off := (ext.map BitVec.toNat).getD w.off.toNat
    let len := if ext.isSome then 8 else 4
    let size := (s.ib e + 4) % 2 ^ 40
    let inIB := isSram size = true ∧ off + n ≤ s.peek size 4
    let inLB := s.lb e + off + n ≤ s.x e 14
    let detected := fun (u : State) a (t : State) =>
      t.rd R.SYS_STAT_BREACH = 1 ∧
      t.rd R.SYS_BREACH_INFO_COUNT = min 255 ((if u.rd R.SYS_STAT_BREACH = 1 then u.rd R.SYS_BREACH_INFO_COUNT else 0) + 1) ∧
      (u.rd R.SYS_STAT_BREACH = 0 → t.lineUp 0 = true ∧ t.rd R.SYS_BREACH_ADDR_ADDR = a ∧
        t.rd R.SYS_BREACH_INFO_MASTER = 2 + e.val ∧ t.rd R.SYS_BREACH_INFO_TASK = u.curTask e) ∧
      (u.rd R.SYS_STAT_BREACH = 1 → t.rd R.SYS_BREACH_ADDR_ADDR = u.rd R.SYS_BREACH_ADDR_ADDR ∧
        t.rd R.SYS_BREACH_INFO_MASTER = u.rd R.SYS_BREACH_INFO_MASTER ∧ t.rd R.SYS_BREACH_INFO_TASK = u.rd R.SYS_BREACH_INFO_TASK)
    let store := fun c a len => a % n = 0 →
      (regionOf a = .code ∨ regionOf a = .image →
        Completes c s (fun t =>
          readLE t.mem a n = s.x e w.d % 2 ^ (8 * n) ∧ (∀ k, k < a ∨ a + n ≤ k → sget 0 t.mem k = sget 0 s.mem k) ∧
          detected s a t ∧ Advanced e len (if n < 4 then 3 else 1) s t)) ∧
      (regionOf a = .regs →
        let u := s.writeRegs a n (s.x e w.d)
        let off := s.domOn (2 + e / 2) = true ∧ u.domOn (2 + e / 2) = false
        Completes c s (fun t => detected u a t ∧ t.mem = u.mem ∧ t.flash = u.flash ∧
          OnlyFields ([R.SYS_STAT_BREACH, R.SYS_BREACH_INFO_COUNT, R.SYS_BREACH_ADDR_ADDR, R.SYS_BREACH_INFO_MASTER,
            R.SYS_BREACH_INFO_TASK, u.ipF e] ++ lineFlds 0) u t ∧
          (¬off → Advanced e len ((if n < 4 then 3 else 1) + 12) u t) ∧
          (off → t.ip e = u.ip e ∧ sget 0 t.engTicks e = sget 0 u.engTicks e)))
    let load := fun c a len => a % n = 0 → regionOf a = .regs →
      Completes c s (fun t =>
        t.reg e w.d 64 = widened (8 * n) (w.sx && w.ty != 4) (BitVec.ofNat (8 * n) (s.readRegs a n 0).2) ∧
        Advanced e len 13 s t ∧ t.mem = s.mem ∧
        ∀ f : Fld, f.key / 512 ≠ regAlias a / 8 → f.key ≠ (s.xF e w.d).key → f.key ≠ (s.ipF e).key →
          f.key / 512 ≠ R.TIM_NSF_NS.key / 512 → t.rd f = s.rd f)
    (∀ op : Fin 2, store (.st e op w x) (s.eaReg e x) 8) ∧ (∀ op : Fin 3, load (.ld e op w x) (s.eaReg e x) 8) ∧
    (inIB → load (.ldi e w ext) (s.eaIB e w ext) len ∧ (16 ≤ off → store (.sti e w ext) (s.eaIB e w ext) len)) ∧
    (inLB → load (.ldl e w ext) (s.eaLB e w ext) len ∧ store (.stl e w ext) (s.eaLB e w ext) len) ∧
    (off + n ≤ s.poolSize → load (.ldk e w ext) (s.eaK e w ext) len)

/-- LDP (R124, R117): VALUE or the second doubleword of the selected entry, and Q from its bad bits. -/
def Obligations.LdpResult : Prop :=
  ∀ (e : Eng) (w : FmtP) (s : State), Running e s →
    let p := if w.x then (w.id.toNat + s.x e w.a) % 4096 else w.id.toNat
    let q := s.ptQual p
    let second := q + readLE s.mem (pointAddr p + 10) 1 * 2 ^ 16 + s.ptFlags p * 2 ^ 24 + readLE s.mem (pointAddr p + 12) 4 * 2 ^ 32
    Completes (.ldp e w) s (fun t =>
      t.reg e w.d 64 = BitVec.ofNat 64 (if w.m then second else s.ptValue p) ∧
      t.flags e = { s.flags e with q := [0, 1, 2, 3, 5].any (bitOf q) } ∧
      Advanced e 4 2 s t ∧ EngFrame e [s.xF e w.d, s.fsF e, s.ipF e] s t)

/-- STP (R125): VALUE takes xd, Q_INIT is cleared, and every other byte of memory and bit of the entry is as before. -/
def Obligations.StpResult : Prop :=
  ∀ (e : Eng) (w : FmtP) (s : State), Running e s →
    let p := if w.x then (w.id.toNat + s.x e w.a) % 4096 else w.id.toNat
    (w.x = true → s.ownedBy p (s.curTask e) = false → Completes (.stp e w) s (Trapped e 0x050B p (packP 0x19 w) s)) ∧
    (w.x = false ∨ s.ownedBy p (s.curTask e) = true →
      Completes (.stp e w) s (fun t =>
        t.ptValue p = s.x e w.d ∧ bitOf (t.ptQual p) 0 = false ∧ (∀ i, i ≠ 0 → bitOf (t.ptQual p) i = bitOf (s.ptQual p) i) ∧
        (∀ k, k < pointAddr p ∨ pointAddr p + 10 ≤ k → sget 0 t.mem k = sget 0 s.mem k) ∧
        Advanced e 4 3 s t ∧ OnlyFields [s.ipF e] s t ∧
        (∀ k, k ≠ e.val → sget 0 t.engTicks k = sget 0 s.engTicks k) ∧ (∀ k, k ≠ p → sget 0 t.tsk.fresh k = sget 0 s.tsk.fresh k) ∧
        { t with regs := s.regs, engTicks := s.engTicks, mem := s.mem, tsk := { t.tsk with fresh := s.tsk.fresh } } = s))

/-- B, BC and LOOP (R151, R135, R118, R128). That FBE_TADDR of fault 0x0520 is the count before the decrement is the model's choice (log
entry 54). -/
def Obligations.BranchResult : Prop :=
  ∀ (e : Eng) (w : FmtB) (s : State), Running e s →
    let target := (BitVec.ofNat 32 (s.ip e) + 4 * w.off.signExtend 32).toNat
    let go := fun cost t => t.ip e = target ∧ sget 0 t.engTicks e = sget 0 s.engTicks e + cost ∧ EngFrame e [s.ipF e] s t
    let taken := (s.flags e).cond w.c
    let count := s.reg e w.a 64 - 1
    (target < 0x800000 → Completes (.b e w) s (go 2)) ∧
    (0x800000 ≤ target → Completes (.b e w) s (Trapped e 0x050D target (packB 0x50 w) s)) ∧
    (taken = true → target < 0x800000 → Completes (.bc e w) s (go 2)) ∧
    (taken = true → 0x800000 ≤ target → Completes (.bc e w) s (Trapped e 0x050D target (packB 0x51 w) s)) ∧
    (taken = false → Completes (.bc e w) s (fun t => Advanced e 4 1 s t ∧ EngFrame e [s.ipF e] s t)) ∧
    (∀ z bound : BitVec 16,
      (count = 0 → Completes (.loop e w z bound) s (RegPost e w.a 0 8 1 s)) ∧
      (count ≠ 0 → bound.toNat ≤ count.toNat →
        Completes (.loop e w z bound) s (Trapped e 0x0520 (s.x e w.a) (packB 0xD0 w) s)) ∧
      (count ≠ 0 → count.toNat < bound.toNat → target < 0x800000 →
        Completes (.loop e w z bound) s (fun t =>
          t.ip e = target ∧ t.reg e w.a 64 = count ∧ sget 0 t.engTicks e = sget 0 s.engTicks e + 1 ∧
            EngFrame e [s.xF e w.a, s.ipF e] s t)) ∧
      (count ≠ 0 → count.toNat < bound.toNat → 0x800000 ≤ target →
        Completes (.loop e w z bound) s (Trapped e 0x050D target (packB 0xD0 w) s)))

/-- CALL and CALLF, direct and by descriptor in xb (R127, R129): the link record at x14, its last eight bytes 0, the new frame, x15, IB
for a function block, and the entry. -/
def Obligations.CallResult : Prop :=
  ∀ (e : Eng) (w : FmtA) (ext : Word) (s : State), Running e s →
    let sp := s.x e 14
    let b := s.bank e
    let called := fun desc ib cost t =>
      t.ip e = s.peek (desc + 8) 4 ∧ t.ib e = ib ∧ t.lb e = (sp + 32) % 2 ^ 40 ∧
      t.x e 14 = sp + 32 + s.peek (desc + 12) 4 ∧ t.x e 15 = s.ip e + 8 ∧
      (∀ r : BitVec 4, r ≠ 14 → r ≠ 15 → t.x e r = s.x e r) ∧ t.flags e = s.flags e ∧
      readLE t.mem sp 8 = s.x e 15 ∧ readLE t.mem (sp + 8) 8 = s.ib e ∧ readLE t.mem (sp + 16) 8 = s.lb e ∧
      readLE t.mem (sp + 24) 8 = 0 ∧
      (t.task (s.curTask e)).depth = (s.task (s.curTask e)).depth + 1 ∧
      sget 0 t.engTicks e = sget 0 s.engTicks e + cost ∧
      (∀ k, k < sp ∨ sp + 32 ≤ k → sget 0 t.mem k = sget 0 s.mem k) ∧
      OnlyFields [R.MEM_STAT_DIRTY, s.ipF e, R.FBE_BANK_IB_IB e b, R.FBE_BANK_LB_LB e b, s.xF e 14, s.xF e 15,
        R.FBE_STAT_DEPTH e] s t
    let fits := fun desc => regionOf desc = .code ∧ (regionOf sp = .inst ∨ regionOf sp = .retain) ∧
      sp + 32 + s.peek (desc + 12) 4 ≤ s.rd (R.FBE_BANK_SLIM_SLIM e b)
    let inst := s.x e w.a % 2 ^ 40
    let ready := fun desc => fits desc ∧ isSram inst = true ∧ s.peek inst 8 = s.peek desc 8
    let listed := isSram ext.toNat = true ∧ ∃ i, i < s.peek ext.toNat 4 ∧ s.peek (ext.toNat + 4 + 4 * i) 4 = s.x e w.b
    (ready ext.toNat → Completes (.call e w ext) s (called ext.toNat inst 6)) ∧
    (fits ext.toNat → Completes (.callf e w ext) s (called ext.toNat (s.ib e) 5)) ∧
    (listed → ready (s.x e w.b) → Completes (.callIndirect e w ext) s (called (s.x e w.b) inst 6)) ∧
    (listed → fits (s.x e w.b) → Completes (.callfIndirect e w ext) s (called (s.x e w.b) (s.ib e) 5))

/-- The traps of a call: a header that does not match the descriptor, a frame past SLIM, and an indirect target that the list does
not hold (R127, R129); the descriptor, the header and the list lie in the stores. -/
def Obligations.CallTraps : Prop :=
  ∀ (e : Eng) (w : FmtA) (ext : Word) (s : State), Running e s →
    let frame := fun desc => s.x e 14 + 32 + s.peek (desc + 12) 4
    let past := fun desc => regionOf desc = .code ∧ s.rd (R.FBE_BANK_SLIM_SLIM e (s.bank e)) < frame desc
    let inst := s.x e w.a
    let readable := fun desc => regionOf desc = .code ∧ isSram (inst % 2 ^ 40) = true
    let matching := fun desc => readable desc ∧ s.peek (inst % 2 ^ 40) 8 = s.peek desc 8
    let differing := fun desc => readable desc ∧ s.peek (inst % 2 ^ 40) 8 ≠ s.peek desc 8
    let found := ∃ i, i < s.peek ext.toNat 4 ∧ s.peek (ext.toNat + 4 + 4 * i) 4 = s.x e w.b
    let listed := isSram ext.toNat = true ∧ found
    let missing := isSram ext.toNat = true ∧ ¬found
    (differing ext.toNat → Completes (.call e w ext) s (Trapped e 0x0507 inst (packA 0xD8 w) s)) ∧
    (matching ext.toNat → past ext.toNat →
      Completes (.call e w ext) s (Trapped e 0x0506 (frame ext.toNat) (packA 0xD8 w) s)) ∧
    (past ext.toNat → Completes (.callf e w ext) s (Trapped e 0x0506 (frame ext.toNat) (packA 0xD9 w) s)) ∧
    (missing → Completes (.callIndirect e w ext) s (Trapped e 0x0508 (s.x e w.b) (packA 0xD8 w) s)) ∧
    (missing → Completes (.callfIndirect e w ext) s (Trapped e 0x0508 (s.x e w.b) (packA 0xD9 w) s)) ∧
    (listed → differing (s.x e w.b) → Completes (.callIndirect e w ext) s (Trapped e 0x0507 inst (packA 0xD8 w) s)) ∧
    (listed → matching (s.x e w.b) → past (s.x e w.b) →
      Completes (.callIndirect e w ext) s (Trapped e 0x0506 (frame (s.x e w.b)) (packA 0xD8 w) s)) ∧
    (listed → past (s.x e w.b) →
      Completes (.callfIndirect e w ext) s (Trapped e 0x0506 (frame (s.x e w.b)) (packA 0xD9 w) s))

/-- RET (R128, R88): from the link record at LB - 32, or, at call depth 0, the end of the run with its ticks counted. -/
def Obligations.ReturnResult : Prop :=
  ∀ (e : Eng) (rest : BitVec 24) (s : State), Running e s →
    let k := s.curTask e
    let a := (s.lb e + (2 ^ 40 - 32)) % 2 ^ 40
    let b := s.bank e
    let spent := sget 0 s.engTicks e + 4 - (s.task k).tick0
    ((s.task k).depth ≠ 0 → isSram a = true → s.x e 15 < 0x800000 →
      Completes (.ret e rest) s (fun t =>
        t.ip e = s.x e 15 ∧ t.x e 14 = a ∧ t.x e 15 = s.peek a 8 ∧ t.ib e = s.peek (a + 8) 8 % 2 ^ 40 ∧
        t.lb e = s.peek (a + 16) 8 % 2 ^ 40 ∧ (t.task k).depth = (s.task k).depth - 1 ∧ t.flags e = s.flags e ∧
        sget 0 t.engTicks e = sget 0 s.engTicks e + 4 ∧ t.mem = s.mem ∧
        OnlyFields [s.ipF e, R.FBE_BANK_IB_IB e b, R.FBE_BANK_LB_LB e b, s.xF e 14, s.xF e 15, R.FBE_STAT_DEPTH e] s t)) ∧
    ((s.task k).depth ≠ 0 → isSram a = true → 0x800000 ≤ s.x e 15 →
      Completes (.ret e rest) s (Trapped e 0x050D (s.x e 15) (packN 0x03 rest) s)) ∧
    ((s.task k).depth = 0 →
      Completes (.ret e rest) s (fun t =>
        (t.task k).running = false ∧ (t.task k).started = false ∧ t.mem = s.mem ∧
        t.rd (R.TSK_TSTAT_LASTRUN_LASTRUN k) = spent % 2 ^ 32 ∧
        (∀ j < 32, j ≠ k → t.rd (R.TSK_TSTAT_LASTRUN_LASTRUN j) = s.rd (R.TSK_TSTAT_LASTRUN_LASTRUN j)) ∧
        (t.rd (R.FBE_STAT_STATE e) = 1 ∨ t.rd (R.FBE_STAT_STATE e) = 2)))

/-- The SYS services that read and take (R162, R154, R130): TNOW, PNOW and CYCNOW give what the release latched, TICKS the ticks
since the release, SELF the task, the note and the engine, EVTEST an event without taking it; EVTAKE, EVTAKELO and EVTAKEHI clear
exactly the events that they read. -/
def Obligations.SysServiceResult : Prop :=
  ∀ (e : Eng) (d a : BitVec 4) (s : State), Running e s →
    let k := s.task (s.curTask e)
    let post := fun v cost => RegPost e d (BitVec.ofNat 64 v) 4 cost s
    let n := s.x e a % 128
    Completes (.tnow e d a) s (post k.tstamp 2) ∧ Completes (.pnow e d a) s (post k.pstamp 2) ∧
    Completes (.cycnow e d a) s (post k.cycnow 2) ∧ Completes (.ticks e d a) s (post (sget 0 s.engTicks e - k.tick0) 2) ∧
    Completes (.self e d a) s (post (s.curTask e % 32 + s.taskNote (s.curTask e) * 2 ^ 8 + e.val * 2 ^ 12) 2) ∧
    Completes (.evtest e d a) s (post (s.rd (R.FBE_EVSNAP_SNAP e (n / 64)) / 2 ^ (n % 64) % 2) 3) ∧
    (let half := fun h => R.FBE_EVSNAP_SNAP e h
     let taken := fun h v t => t.reg e d 64 = BitVec.ofNat 64 v ∧ Advanced e 4 4 s t ∧
       EngFrame e [half h, s.xF e d, s.ipF e] s t
     Completes (.evtake e d a) s (fun t => taken (n / 64) (s.rd (half (n / 64)) / 2 ^ (n % 64) % 2) t ∧
       ∀ i < 64, bitOf (t.rd (half (n / 64))) i = (bitOf (s.rd (half (n / 64))) i && i != n % 64)) ∧
     Completes (.evtakelo e d a) s (fun t => taken 0 (s.rd (half 0)) t ∧ t.rd (half 0) = 0) ∧
     Completes (.evtakehi e d a) s (fun t => taken 1 (s.rd (half 1)) t ∧ t.rd (half 1) = 0))

/-- NOP, BRK, STOPREQ and QUALSET (R163, R102, R162, R97): BRK acts only with BRKEN; STOPREQ asks for STOP at the next boundary;
QUALSET sets Q_RANGE and Q_FAULT of a point that the task owns, on an output point with its next commit, and traps on any other. -/
def Obligations.NopBrkStopreqQualset : Prop :=
  ∀ (e : Eng) (rest : BitVec 24) (d a : BitVec 4) (s : State), Running e s →
    let p := s.x e a % 4096
    Completes (.nop e rest) s (fun t => Advanced e 4 1 s t ∧ EngFrame e [s.ipF e] s t) ∧
    (s.rd R.TSK_CFG_BRKEN = 0 → Completes (.brk e rest) s (fun t => Advanced e 4 1 s t ∧ EngFrame e [s.ipF e] s t)) ∧
    (s.rd R.TSK_CFG_BRKEN = 1 → Completes (.brk e rest) s (fun t =>
      t.rd (R.FBE_STAT_STATE e) = 0 ∧ t.rd R.TSK_BRK_IP = s.ip e ∧ t.rd R.TSK_BRK_ENG = e.val ∧
      t.rd R.TSK_BRK_TASK = s.curTask e % 2 ^ R.TSK_BRK_TASK.width ∧ t.lineUp 27 = true ∧
      (s.mode = 1 → t.tsk.requests = s.tsk.requests ++ [.hold] ∧ t.rd R.TSK_STAT_PEND = 1) ∧
      (∀ r, t.x e r = s.x e r) ∧ t.flags e = s.flags e ∧ t.mem = s.mem)) ∧
    Completes (.stopreq e d a) s (fun t =>
      t.tsk.requests = s.tsk.requests ++ [.stop 8] ∧ t.rd R.TSK_STAT_PEND = 1 ∧ Advanced e 4 8 s t ∧
      OnlyFields [R.TSK_STAT_PEND, s.ipF e] s t ∧ t.mem = s.mem) ∧
    (s.ownedBy p (s.curTask e) = false → Completes (.qualset e d a) s (Trapped e 0x050B p (packI 0x04 ⟨d, a, 0x20⟩) s)) ∧
    (s.ownedBy p (s.curTask e) = true → s.commits p = true → Completes (.qualset e d a) s (fun t =>
      sget 0 t.tsk.qualWait p = 16 + 4 * b2n (bitOf (s.x e d) 2) + 8 * b2n (bitOf (s.x e d) 3) ∧
      (∀ k ≠ p, sget 0 t.tsk.qualWait k = sget 0 s.tsk.qualWait k) ∧
      Advanced e 4 4 s t ∧ OnlyFields [s.ipF e] s t ∧ t.mem = s.mem)) ∧
    (s.ownedBy p (s.curTask e) = true → s.commits p = false → Completes (.qualset e d a) s (fun t =>
      (∀ i, bitOf (t.ptQual p) i = if i = 2 ∨ i = 3 then bitOf (s.x e d) i else bitOf (s.ptQual p) i) ∧
      (∀ k, k < pointAddr p + 8 ∨ pointAddr p + 10 ≤ k → sget 0 t.mem k = sget 0 s.mem k) ∧
      Advanced e 4 4 s t ∧ OnlyFields [s.ipF e] s t))

/-- TMR and EDGE (R155, R156): the four kinds of timer, TON, TOF, TP and ELAPSED, step ST, ET, PIN and RUN of the 16-byte record at
IB + offset by the release stamp that BASE selects, write it back and give the output; EDGE gives the edge that KIND selects and keeps
the new level in its word. -/
def Obligations.TimerEdgeResult : Prop :=
  ∀ (e : Eng) (w : FmtA) (x : TmrExt) (s : State), Running e s →
    let off := x.off.toNat
    let a := (s.ib e + off) % 2 ^ 40
    let k := s.task (s.curTask e)
    let now := if x.phase then k.pstamp else k.tstamp
    let clip := fun (v : Int) (top : Nat) => (min (max v 0) (top : Int)).toNat
    let pt := clip (s.reg e w.b 64).toInt (2 ^ 62 - 1)
    let inp := s.reg e w.a 64 != 0
    let st := s.peek a 16 % 2 ^ 64
    let et := s.peek a 16 / 2 ^ 64 % 2 ^ 62
    let pin := bitOf (s.peek a 16) 126
    let run := bitOf (s.peek a 16) 127
    let since := BitVec.ofNat 64 now - BitVec.ofNat 64 st
    let el := clip since.toInt pt
    let post := fun (start value : Nat) (running : Bool) (q : Nat) t =>
      t.reg e w.d 64 = BitVec.ofNat 64 q ∧
      readLE t.mem a 16 = (start + (value + b2n inp * 2 ^ 62 + b2n running * 2 ^ 63) * 2 ^ 64) % 2 ^ 128 ∧ t.flags e = s.flags e ∧
      Advanced e 8 4 s t ∧ StoreFrame e [s.xF e w.d, s.ipF e] a 16 s t
    let size := (s.ib e + 4) % 2 ^ 40
    let fits := off % 8 = 0 ∧ isSram size = true ∧ 16 ≤ off ∧ off + 16 ≤ s.peek size 4
    (fits → (regionOf a = .inst ∨ regionOf a = .retain) →
      Completes (.tmrTon e w x) s (
        if inp = false then post st 0 false 0
        else if run = false then post now 0 true (if pt = 0 then 1 else 0)
        else post st el true (if el = pt then 1 else 0)) ∧
      Completes (.tmrTof e w x) s (
        if inp then post st 0 false 1
        else if pin then post now 0 true (if 0 < pt then 1 else 0)
        else if run then post st el (decide (el ≠ pt)) (if el < pt then 1 else 0)
        else post st et false 0) ∧
      Completes (.tmrTp e w x) s (
        if inp && !pin && !run then post now 0 (decide (0 < pt)) (if 0 < pt then 1 else 0)
        else if run then post st el (decide (el ≠ pt)) (if el < pt then 1 else 0)
        else post st (if inp then et else 0) false 0) ∧
      Completes (.tmrElapsed e w x) s (post (if inp then now else st) (clip since.toInt (2 ^ 62 - 1)) run since.toNat)) ∧
    (∀ i : FmtI,
     let off := (i.imm.extractLsb' 0 14).toNat
     let a := (s.ib e + off) % 2 ^ 40
     let cur := s.reg e i.a 64 != 0
     let prev := s.peek a 4 != 0
     let out := match (i.imm.extractLsb' 14 2).toNat with
       | 0 => cur && !prev
       | 1 => prev && !cur
       | _ => cur != prev
     off % 4 = 0 → isSram size = true → 16 ≤ off → off + 4 ≤ s.peek size 4 → (regionOf a = .inst ∨ regionOf a = .retain) →
       Completes (.edge e i) s (fun t =>
         t.reg e i.d 64 = (if out then 1 else 0) ∧ readLE t.mem a 4 = (if cur then 1 else 0) ∧ t.flags e = s.flags e ∧
         Advanced e 4 2 s t ∧ StoreFrame e [s.xF e i.d, s.ipF e] a 4 s t))

/-- WIN (R153): n lines between the task's window and the instance store, in the order of its checks, 40 + 96 n ticks; the lines
are charged to the claim. That FBE_TADDR of faults 0x0521 and 0x0522 is xd is the model's choice (log entry 54). -/
def Obligations.WinResult : Prop :=
  ∀ (e : Eng) (w : FmtA) (dir : Bool) (z : BitVec 15) (bound : BitVec 16) (s : State), Running e s →
    let n := s.x e w.a
    let a := s.x e w.d
    let wb := s.rd (R.FBE_BANK_WB_WB e (s.bank e))
    let far := wb + 64 * s.x e w.b
    let k := s.curTask e
    let src := if dir then a else far
    let dst := if dir then far else a
    let trap := fun code addr => Completes (.win e w dir z bound) s (Trapped e code addr (packA 0xDA w) s)
    let inWindow := 64 * (s.x e w.b + n) ≤ s.rd (R.FBE_BANK_WLIM_WLIM e (s.bank e))
    let inStore := 0x1000000 ≤ a ∧ a + 64 * n ≤ 0x2800000
    (bound.toNat < n → trap 0x0521 a) ∧ (n ≤ bound.toNat → a % 64 ≠ 0 → trap 0x0502 a) ∧
    (n ≤ bound.toNat → a % 64 = 0 → ¬inWindow → trap 0x050C far) ∧
    (n ≤ bound.toNat → a % 64 = 0 → inWindow → ¬inStore → trap 0x0503 a) ∧
    (n ≤ bound.toNat → a % 64 = 0 → inWindow → inStore → s.lineClaim k < (s.task k).lines + n → trap 0x0522 a) ∧
    (n ≤ bound.toNat → a % 64 = 0 → inWindow → inStore → (s.task k).lines + n ≤ s.lineClaim k →
      0x180000000 ≤ wb → far + 64 * n ≤ 0x2FFE00000 → s.canonical = true →
      Completes (.win e w dir z bound) s (fun t =>
        (∀ i < 64 * n, sget 0 t.mem (dst + i) = sget 0 s.mem (src + i)) ∧
        (∀ i, i < dst ∨ dst + 64 * n ≤ i → sget 0 t.mem i = sget 0 s.mem i) ∧
        (t.task k).lines = (s.task k).lines + n ∧ (∀ r, t.x e r = s.x e r) ∧ t.flags e = s.flags e ∧
        Advanced e 8 (40 + 96 * n) s t ∧ OnlyFields [R.MEM_STAT_DIRTY, s.ipF e] s t))

/-- SCH (R157, R54): the slot's four words where the claim admits them, and its traps. The claim is broken where bit 2 or the slice
differs, where one of the two actions is 7 and the other is not, or where a main-word slot's phase, or the clear phase of action 7, lies
outside the claimed range upward modulo 2^32. A once-slot whose C lies behind the turn count of its word is disarmed. The write of a
higher-numbered engine in the same clock stays (R161). -/
def Obligations.SchResult : Prop :=
  ∀ (e : Eng) (w : FmtA) (s : State), Running e s →
    let n := s.x e w.d
    let lo := s.x e w.a
    let hi := s.x e w.b
    let w0 := lo % 2 ^ 32
    let w1 := hi % 2 ^ 32
    let w2 := lo / 2 ^ 32 % 2 ^ 32
    let w3 := hi / 2 ^ 32 % 2 ^ 32
    let word := packA 0x61 w
    let out := fun p low high => (high + 2 ^ 32 - low) % 2 ^ 32 < (p + 2 ^ 32 - low) % 2 ^ 32
    let broken := fun c : SlotClaim =>
      bitOf w1 2 ≠ c.shaft ∨ w1 / 2 ^ 21 % 8 ≠ c.slice ∨ ¬(w1 / 2 ^ 8 % 16 = 7 ↔ c.action = 7) ∨
        c.shaft = false ∧ (out w0 c.lo c.hi ∨ c.action = 7 ∧ out ((w0 + w3) % 2 ^ 32) c.clo c.chi)
    let turn := if bitOf w1 2 then s.rd R.PHS_SHPHASE_TURN else s.rd R.PHS_PHASE_TURN
    let behind := w1 % 4 = 3 ∧ 2 ^ 31 ≤ (w2 + 2 ^ 32 - turn) % 2 ^ 32
    (1024 ≤ n ∨ s.slotClaim n = none → Completes (.sch e w) s (Trapped e 0x0524 n word s)) ∧
    (∀ c, n < 1024 → s.slotClaim n = some c →
      (w1 % 4 ≠ 0 → broken c → Completes (.sch e w) s (Trapped e 0x0523 n word s)) ∧
      (w1 % 4 = 0 ∨ ¬broken c →
        ((∃ x ∈ s.phs.schWrites, x.1 = n ∧ e.val < x.2.1 ∧ x.2.2 = s.clk) →
          Completes (.sch e w) s (fun t => Advanced e 4 8 s t ∧ EngFrame e [s.ipF e] s t)) ∧
        ((∀ x ∈ s.phs.schWrites, x.1 = n → e.val < x.2.1 → x.2.2 ≠ s.clk) →
          Completes (.sch e w) s (fun t =>
            t.rd (R.PHS_SLOT_WORD n 0) = w0 ∧ t.rd (R.PHS_SLOT_WORD n 2) = w2 ∧ t.rd (R.PHS_SLOT_WORD n 3) = w3 ∧
            t.rd (R.PHS_SLOT_WORD n 1) = (if behind then w1 - 3 else w1) ∧
            t.rd R.PHS_STAT_PASTC = (if behind then 1 else s.rd R.PHS_STAT_PASTC) ∧
            Advanced e 4 8 s t ∧ t.mem = s.mem ∧ t.flash = s.flash ∧
            OnlyFields ((List.range 4).map (fun j => R.PHS_SLOT_WORD n j) ++ [R.PHS_STAT_PASTC, s.ipF e]) s t))))

/-- LPW in its four forms, LPR, TLY and FLACON (R158, R187, R159, R162, R161, R388 to R390): a loop write waits for the next frame, behind
those before it but for those of higher-numbered engines in this clock; a form to a loop that is not claimed traps. A tally update is
suppressed at the rate limit, else counted: its value, as f64, goes to the bin of as many edges as lie at or below it, and moves an
extreme on a strict improvement, with its stamp; a NaN sets only its flag. Of two updates in one clock neither is lost, and their order
is that of the engines. FLACON queues the reports of the enabled tenants that are not queued already. -/
def Obligations.LoopTallyResult : Prop :=
  ∀ (e : Eng) (w : FmtA) (s : State), Running e s →
    let n := s.x e w.a
    let claimed := n < 256 ∧ s.rd (R.LPE_LDECL_CL_CLAIMED n) = 1
    let put := fun sel t =>
      (∃ before after, s.lpe.writes = before ++ after ∧
        t.lpe.writes = before ++ ⟨n, sel, s.x e w.b % 2 ^ 32, e.val, s.clk⟩ :: after ∧
        (∀ x ∈ before, x.clk = s.clk → x.eng ≤ e.val) ∧ ∀ x ∈ after.head?, x.clk = s.clk ∧ e.val < x.eng) ∧
      Advanced e 4 4 s t ∧ OnlyFields [s.ipF e] s t ∧ t.mem = s.mem
    (claimed → selWritable w.fn.toNat = true → Completes (.lpw e w) s (put w.fn.toNat)) ∧
    (claimed → Completes (.lpwOwn e w) s (put 4) ∧ Completes (.lpwSwap e w) s (put 5) ∧ Completes (.lpwClr e w) s (put 6)) ∧
    (¬claimed → selWritable w.fn.toNat = true → Completes (.lpw e w) s (Trapped e 0x050F n (packA 0x62 w) s)) ∧
    (¬claimed → ∀ c ∈ [Instr.lpwOwn e w, .lpwSwap e w, .lpwClr e w], Completes c s (Trapped e 0x050F n (packA 0x62 w) s)) ∧
    (selWritable w.fn.toNat = false → Completes (.lpw e w) s (Trapped e 0x0501 n (packA 0x62 w) s)) ∧
    (selDefined w.fn.toNat = true → n < 256 → Completes (.lpr e w) s
      (RegPost e w.d (BitVec.ofNat 64 (if claimed then s.lprValue n w.fn.toNat else 0)) 4 4 s)) ∧
    (selDefined w.fn.toNat = true → 256 ≤ n → Completes (.lpr e w) s (Trapped e 0x050F n (packA 0x63 w) s)) ∧
    (selDefined w.fn.toNat = false → Completes (.lpr e w) s (Trapped e 0x0501 n (packA 0x63 w) s)) ∧
    ((intTy w.ty || floatTy w.ty) = true → (0x100 ≤ n ∧ n ≤ 0x3FF ∧ s.tallyDefined n = true) →
      let k := if w.ty = 2 then 32 else 64
      let v := if w.ty = 4 then f64.ofVal 0 (f32.unpack (s.reg e w.b 32).toNat)
        else if w.ty = 5 then (s.reg e w.b 64).toNat
        else f64.ofInt 0 (if w.sx then (s.reg e w.b k).toInt else (s.reg e w.b k).toNat)
      let stamp := (s.task (s.curTask e)).tstamp
      let l := s.live n
      let edge := fun i => leNat (((sget [] s.tly.defs n).drop (8 + 4 * i)).take 4)
      let bin := ((List.range 15).filter fun i =>
        [some .lt, some .eq].contains ((f32.unpack (edge i)).cmp (f64.unpack v))).length
      let less := fun a b => (f64.unpack a).cmp (f64.unpack b) = some .lt
      let kind := s.rd (R.TLY_DEF_KIND n)
      let nan := f64.unpack v = .nan
      let fresh := { l with updates := l.updates + 1, second := l.second + 1 }
      ((∀ r ∈ s.tly.turns, r.clk ≠ s.clk) → Completes (.tly e w) s (fun t =>
        t.live n = (
          if s.rd (R.TLY_DEF_RATE n) ≠ 0 ∧ s.rd (R.TLY_DEF_RATE n) ≤ l.second then { l with suppressed := l.suppressed + 1 }
          else if nan then { fresh with nan := true }
          else { fresh with
            bins := if kind = 0 ∨ kind = 2 then l.bins.set bin (min 0xFFFFFFFF (l.bins.getD bin 0 + 1)) else l.bins
            min := if (kind = 1 ∨ kind = 2) ∧ less v l.min then v else l.min
            mint := if (kind = 1 ∨ kind = 2) ∧ less v l.min then stamp else l.mint
            max := if (kind = 1 ∨ kind = 2) ∧ less l.max v then v else l.max
            maxt := if (kind = 1 ∨ kind = 2) ∧ less l.max v then stamp else l.maxt }) ∧
        (∀ c, c ≠ n → t.live c = s.live c) ∧ Advanced e 4 6 s t ∧
        OnlyFields [R.TLY_DEF_UPD n, s.ipF e] s t ∧ t.mem = s.mem)) ∧
      ∀ (d : Eng) (x : FmtA), d ≠ e → Running d s → (intTy x.ty || floatTy x.ty) = true → s.x d x.a = n →
        (∀ r ∈ s.tly.turns, r.clk ≠ s.clk) →
        Completes (.tly e w) s (fun t => Completes (.tly d x) t (fun u => Completes (.tly d x) s (fun t' =>
          Completes (.tly e w) t' (fun u' => u.live n = u'.live n ∧
            (u.live n).updates + (u.live n).suppressed = l.updates + l.suppressed + 2))))) ∧
    ((intTy w.ty || floatTy w.ty) = true → ¬(0x100 ≤ n ∧ n ≤ 0x3FF ∧ s.tallyDefined n = true) →
      Completes (.tly e w) s (Trapped e 0x0510 n (packA 0x64 w) s)) ∧
    (∀ d : BitVec 4,
      let en := if s.domOn 9 then s.rd R.KEY_TENEN_EN else 0
      let mask := if n = 0 then en else if n ≤ 64 ∧ bitOf en (n - 1) = true then 2 ^ (n - 1) else 0
      Completes (.flacon e d w.a) s (fun t =>
        t.key.queue = s.key.queue ||| mask &&& (s.key.queue ^^^ (2 ^ 64 - 1)) ∧
        t.reg e d 64 = (if mask &&& (s.key.queue ^^^ (2 ^ 64 - 1)) = 0 then 0 else 1) ∧
        Advanced e 4 6 s t ∧ OnlyFields [s.xF e d, s.ipF e] s t ∧ t.mem = s.mem))

/-- The traps of words, types, alignment and bounds (R120, R121, R131, R139, R162, Tables 5.7 and 5.10): an unassigned opcode, an
undefined service, a type that the instruction does not accept, a misaligned address, an access outside its base's bound, and one
whose address lies in DRAM (R16) or is unmapped (R22). That type, alignment and bound are checked in this order, and that an access by
the instance, loop or constant base in DRAM traps with 0x050C, are the model's choices (log entry 54), as is the trap of an instance
header in DRAM (log entry 18). -/
def Obligations.EngineTraps : Prop :=
  ∀ (e : Eng) (s : State), Running e s →
    let traps := fun c code addr => Completes c s (Trapped e code addr (firstWord c) s)
    (∀ word, traps (.illegalInstruction e word) 0x0501 0) ∧ (∀ d a n, traps (.sysUndefined e d a n) 0x050E 0) ∧
    (∀ w : FmtA, intTy w.ty = false →
      ∀ c ∈ [Instr.add e w, .sub e w, .neg e w, .abs e w, .mul e w, .div e w, .cmp e w, .and e w, .or e w, .xor e w, .not e w,
        .shl e w, .shr e w, .asr e w, .rot e w, .bit e w, .set e w, .clr e w, .lim e w], traps c 0x0501 0) ∧
    (∀ w : FmtA, floatTy w.ty = false →
      ∀ c ∈ [Instr.fadd e w, .fsub e w, .fmul e w, .fdiv e w, .fsqrt e w, .fmin e w, .fmax e w, .fcmp e w], traps c 0x0501 0) ∧
    (∀ w : FmtA, (intTy w.ty || floatTy w.ty) = false → traps (.cvt e w) 0x0501 0 ∧ traps (.tly e w) 0x0501 0) ∧
    (∀ (w : FmtM) (ext : Option (BitVec 31)) (x : RegBase) (i : Fin 3) (j : Fin 2),
      (memTy w.ty = false →
        ∀ c ∈ [Instr.ldi e w ext, .sti e w ext, .ldl e w ext, .stl e w ext, .ldk e w ext, .ld e i w x, .st e j w x], traps c 0x0501 0) ∧
      ∀ n, MemBytes w.ty n →
        let off := (ext.map BitVec.toNat).getD w.off.toNat
        let size := (s.ib e + 4) % 2 ^ 40
        (s.eaIB e w ext % n ≠ 0 → traps (.ldi e w ext) 0x0502 (s.eaIB e w ext) ∧ traps (.sti e w ext) 0x0502 (s.eaIB e w ext)) ∧
        (s.eaLB e w ext % n ≠ 0 → traps (.ldl e w ext) 0x0502 (s.eaLB e w ext) ∧ traps (.stl e w ext) 0x0502 (s.eaLB e w ext)) ∧
        (s.eaK e w ext % n ≠ 0 → traps (.ldk e w ext) 0x0502 (s.eaK e w ext)) ∧
        (s.eaReg e x % n ≠ 0 → traps (.ld e i w x) 0x0502 (s.eaReg e x) ∧ traps (.st e j w x) 0x0502 (s.eaReg e x)) ∧
        (s.eaIB e w ext % n = 0 → isSram size = true → s.peek size 4 < off + n →
          traps (.ldi e w ext) 0x0503 (s.eaIB e w ext) ∧ traps (.sti e w ext) 0x0503 (s.eaIB e w ext)) ∧
        (s.eaIB e w ext % n = 0 → isSram size = true → off < 16 → traps (.sti e w ext) 0x0503 (s.eaIB e w ext)) ∧
        (s.eaLB e w ext % n = 0 → s.x e 14 < s.lb e + off + n →
          traps (.ldl e w ext) 0x0504 (s.eaLB e w ext) ∧ traps (.stl e w ext) 0x0504 (s.eaLB e w ext)) ∧
        (s.eaK e w ext % n = 0 → s.poolSize < off + n → traps (.ldk e w ext) 0x0505 (s.eaK e w ext)) ∧
        (let gone := fun c a => regionOf a = .unmapped →
           Completes c s (fun t => Trapped e 0x0104 a (firstWord c) s t ∧ t.rd R.SYS_STAT_UNMAP = 1)
         let far := fun c a => (isDram a = true → traps c 0x050C a) ∧ gone c a
         (s.eaReg e x % n = 0 → far (.ld e i w x) (s.eaReg e x) ∧ far (.st e j w x) (s.eaReg e x)) ∧
         (s.eaIB e w ext % n = 0 → far (.ldi e w ext) size ∧ far (.sti e w ext) size) ∧
         (s.eaIB e w ext % n = 0 → isSram size = true → off + n ≤ s.peek size 4 →
           gone (.ldi e w ext) (s.eaIB e w ext) ∧ (16 ≤ off → gone (.sti e w ext) (s.eaIB e w ext))) ∧
         (s.eaLB e w ext % n = 0 → s.lb e + off + n ≤ s.x e 14 →
           far (.ldl e w ext) (s.eaLB e w ext) ∧ far (.stl e w ext) (s.eaLB e w ext)) ∧
         (s.eaK e w ext % n = 0 → off + n ≤ s.poolSize → far (.ldk e w ext) (s.eaK e w ext))))

/-- An engine that runs no task executes nothing: an instruction given to it changes nothing, unless a stop has halted the engine in
the clock in which that instruction was under way. The rule is the model's reading of R110 and FBE_STAT (log entry 3). -/
def Obligations.IdleEngineExecutesNothing : Prop :=
  ∀ (c : Instr) (e : Eng) (s : State), engOf c = some e → s.rd (R.FBE_STAT_STATE e) ≠ 1 → s.underway e = false → exec c s = .next s

/-! ## Commands and events -/

/-- The supervisor's inputs (R20, R21, R28, R31, R93, R103): a breach stops the controller where BREACHACT says so and is recorded in any
case; the clock monitor and the safe-state input set their flags, raise their lines, and stop the controller. The supervisor is
interrupted while a line pending in SYS_IRQPEND is enabled in SYS_IRQEN. A stop halts each engine with its registers as they are (R138);
that STATE reads 0 then is the model's choice (log entry 12). -/
def Obligations.SupervisorInputs : Prop :=
  ∀ s : State,
    (s.interrupted = true ↔ ∃ n < 128, s.lineUp n = true ∧ bitOf (s.rd (R.SYS_IRQEN_EN (n / 64))) (n % 64) = true) ∧
    (s.rd R.SYS_STAT_BREACH = 0 → exec .breachStop s = .next s) ∧
    (s.rd R.SYS_STAT_BREACH = 1 → s.rd R.SYS_CFG_BREACHACT = 1 → s.mode ≠ 0 → Completes .breachStop s
      (Stopped 4 0x0101 (s.rd R.SYS_BREACH_INFO_TASK) (s.rd R.SYS_BREACH_INFO_MASTER) s)) ∧
    (s.rd R.SYS_STAT_BREACH = 1 → s.rd R.SYS_CFG_BREACHACT = 0 → Completes .breachStop s (fun t =>
      t.regs = s.regs ∧ t.mem = s.mem ∧ t.tly.events.length = s.tly.events.length + 1)) ∧
    (s.rd R.SYS_STAT_CLKSRC = 0 →
      Completes .tcxoLoss s (fun t => t.rd R.SYS_STAT_CLKSRC = 1 ∧ t.rd R.SYS_STAT_XTFAIL = 1 ∧ t.lineUp 2 = true ∧
        t.phs.xtalLost = true ∧ t.mode = s.mode ∧ t.mem = s.mem) ∧
      exec .clockLossStop s = .next s ∧ exec .tcxoRestored s = .next s) ∧
    (s.rd R.SYS_STAT_CLKSRC = 1 →
      exec .tcxoLoss s = .next s ∧ (s.mode ≠ 0 → Completes .clockLossStop s (Stopped 10 0x0102 0x3F 0xF s)) ∧
      Completes .tcxoRestored s (fun t => t.rd R.SYS_STAT_CLKSRC = 0 ∧ t.rd R.SYS_STAT_XTFAIL = s.rd R.SYS_STAT_XTFAIL ∧
        t.lineUp 2 = true ∧ t.lastReport = 0x0103 ∧ OnlyRegs (R.SYS_STAT_CLKSRC :: lineFlds 2) s t)) ∧
    (s.rd R.SYS_STAT_SAFEIN = 1 → exec .safeInAssert s = .next s) ∧
    (s.rd R.SYS_STAT_SAFEIN = 0 → exec .safeInRelease s = .next s) ∧
    (s.rd R.PWR_STAT_SLEEP = 0 →
      (s.rd R.SYS_STAT_SAFEIN = 0 → s.rd R.TSK_CFG_SAFEINEN = 0 → Completes .safeInAssert s (fun t =>
        t.rd R.SYS_STAT_SAFEIN = 1 ∧ t.lineUp 3 = true ∧ OnlyRegs (R.SYS_STAT_SAFEIN :: lineFlds 3) s t)) ∧
      (s.rd R.SYS_STAT_SAFEIN = 0 → s.rd R.TSK_CFG_SAFEINEN = 1 → s.mode ≠ 0 → Completes .safeInAssert s (fun t =>
        t.rd R.SYS_STAT_SAFEIN = 1 ∧ t.lineUp 3 = true ∧ Stopped 5 0x0405 0x3F 0xF s t)) ∧
      (s.rd R.SYS_STAT_SAFEIN = 1 → Completes .safeInRelease s (fun t =>
        t.rd R.SYS_STAT_SAFEIN = 0 ∧ t.lineUp 3 = true ∧ OnlyRegs (R.SYS_STAT_SAFEIN :: lineFlds 3) s t)))

/-- Accesses on the bus by a master that is no engine, and SYS_STAT (R6, R7, R10, R14, R20, R22, R426): memory takes and gives its
bytes; an unmapped address is latched, once, and counted; a block without power takes no write (its reads are log entry 10's choice). A
write of a whole register that has no action of its own sets each field as its access code says: RW and WO take the value, RWL in STOP
only, W1C clears the bits written as 1, RO and RC keep theirs. A read gives each field its value, a WO field and a reserved bit 0; it
clears the RC fields, in which only what hardware adds in that clock remains. A write of SYS_STAT clears exactly the flags written
as 1. -/
def Obligations.BusAccess : Prop :=
  ∀ (m : BitVec 4) (size : BitVec 2) (a : Addr) (v : DWord) (s : State),
    let n := 2 ^ size.toNat
    (otherMaster m → regionOf a.toNat = .unmapped →
      ∀ c ∈ [Instr.registerWrite m size a v, .readClear m size a v], Completes c s (fun t =>
        t.rd R.SYS_STAT_UNMAP = 1 ∧ t.mem = s.mem ∧
        (s.rd R.SYS_STAT_UNMAP = 0 → t.rd R.SYS_UNMAP_ADDR_ADDR = a.toNat ∧ t.rd R.SYS_UNMAP_INFO_MASTER = m.toNat ∧
          t.rd R.SYS_UNMAP_INFO_COUNT = 1 ∧ t.lineUp 1 = true) ∧
        (s.rd R.SYS_STAT_UNMAP = 1 → t.rd R.SYS_UNMAP_ADDR_ADDR = s.rd R.SYS_UNMAP_ADDR_ADDR ∧
          t.rd R.SYS_UNMAP_INFO_COUNT = min (2 ^ R.SYS_UNMAP_INFO_COUNT.width - 1) (s.rd R.SYS_UNMAP_INFO_COUNT + 1)))) ∧
    (otherMaster m → s.memx.ecc = [] → s.domOn 5 = true → isSram a.toNat = true →
      Completes (.registerWrite m size a v) s (fun t => readLE t.mem a.toNat n = v.toNat % 2 ^ (8 * n) ∧
        (∀ k, k < a.toNat ∨ a.toNat + n ≤ k → sget 0 t.mem k = sget 0 s.mem k) ∧ OnlyFields [R.MEM_STAT_DIRTY] s t) ∧
      Completes (.readClear m size a v) s (fun t => t = { s with busData := readLE s.mem a.toNat n, busPoison := false })) ∧
    (otherMaster m → regionOf a.toNat = .regs →
      (s.domOn (blockDom (regAlias a.toNat)) = false → exec (.registerWrite m size a v) s = .next s) ∧
      Completes (.readClear m size a v) s (fun t => t.busData = (s.readRegs a.toNat n v.toNat).2 ∧ t.mem = s.mem ∧
        ∀ f : Fld, f.key / 512 ≠ regAlias a.toNat / 8 → f.key / 512 ≠ R.TIM_NSF_NS.key / 512 → t.rd f = s.rd f)) ∧
    (∀ r : RegSpec, otherMaster m → regionOf a.toNat = .regs → regAlias a.toNat = a.toNat → regAt a.toNat = some r → 8 * n = r.width →
      a.toNat % n = 0 →
      (s.domOn (blockDom a.toNat) = true → s.plain a.toNat = true → Completes (.registerWrite m size a v) s (fun t =>
        (∀ f ∈ r.fields,
          let old := s.rd (f.fld a.toNat)
          let new := v.toNat / 2 ^ f.lo % 2 ^ f.width
          t.rd (f.fld a.toNat) = match f.acc with
            | .RW => new
            | .WO => new
            | .RWL => if s.mode = 0 then new else old
            | .W1C => old ^^^ (old &&& new)
            | .RO => old
            | .RC => old) ∧
        ((∀ u : State, u.afterSet a.toNat = u) → OnlyFields (r.fields.map fun f => f.fld a.toNat) s t ∧ { t with regs := s.regs } = s))) ∧
      (a.toNat ∉ [0x100C0060, 0x100E0000, 0x100E0010, 0x10120000, 0x10080034] → ¬(0x100D0000 ≤ a.toNat ∧ a.toNat < 0x100E0000 ∧
        a.toNat % 0x4000 = 0x10) →
        Completes (.readClear m size a v) s (fun t =>
          (∀ f ∈ r.fields,
            t.busData / 2 ^ f.lo % 2 ^ f.width = (if f.acc = .WO then 0 else s.rd (f.fld a.toNat)) ∧
            t.rd (f.fld a.toNat) = if f.acc = .RC then v.toNat / 2 ^ f.lo % 2 ^ f.width else s.rd (f.fld a.toNat)) ∧
          ∀ i, (∀ f ∈ r.fields, i < f.lo ∨ f.lo + f.width ≤ i) → bitOf t.busData i = false))) ∧
    (∀ w : Word, Completes (.sysStatClear w) s (fun t =>
      t.rd R.SYS_STAT_XTFAIL = (if w.getLsbD 1 then 0 else s.rd R.SYS_STAT_XTFAIL) ∧
      t.rd R.SYS_STAT_BREACH = (if w.getLsbD 2 then 0 else s.rd R.SYS_STAT_BREACH) ∧
      t.rd R.SYS_STAT_UNMAP = (if w.getLsbD 3 then 0 else s.rd R.SYS_STAT_UNMAP) ∧
      t.rd R.SYS_BREACH_INFO_COUNT = (if w.getLsbD 2 then 0 else s.rd R.SYS_BREACH_INFO_COUNT) ∧
      t.rd R.SYS_UNMAP_INFO_COUNT = (if w.getLsbD 3 then 0 else s.rd R.SYS_UNMAP_INFO_COUNT) ∧
      OnlyRegs [R.SYS_STAT_XTFAIL, R.SYS_STAT_BREACH, R.SYS_STAT_UNMAP, R.SYS_BREACH_INFO_MASTER, R.SYS_BREACH_INFO_COUNT,
        R.SYS_BREACH_INFO_TASK, R.SYS_UNMAP_INFO_MASTER, R.SYS_UNMAP_INFO_WRITE, R.SYS_UNMAP_INFO_COUNT] s t))

/-- The references of the main word (R41, R43 to R46, R48). A loss counts the reference as lost; where it is the active one, LOST is set
with line 16 and 0x0303, a slew ends and the word runs on at the increment held; where it is not, no register changes but WLOST of a
witness. A return is taken once the cause that a register shows is over; it clears LOST with line 16. The band shows in BANDX with
line 17 on each change, the end of a slew raises line 22. That the detection window of a lost MAINS is three of its nominal half-periods,
whose increment the word then holds, is the model's choice (log entry 28). -/
def Obligations.ReferenceEvents : Prop :=
  ∀ s : State,
    let witness := fun (r : Nat) (v : Nat) (t : State) => s.rd R.PHS_CFG_WIT = r → t.rd R.PHS_STAT_WLOST = v
    let others := fun (r : Nat) (t : State) => ∀ q < 3, q ≠ r → t.refLost q = s.refLost q
    (∀ which : Fin 3, Completes (.referenceLost which) s (fun t =>
      t.refLost which = true ∧ others which t ∧ witness which 1 t ∧ t.mem = s.mem ∧
      (s.rd R.PHS_CFG_REF ≠ which → OnlyRegs [R.PHS_STAT_WLOST] s t) ∧
      (s.rd R.PHS_CFG_REF = which → s.domOn 10 = true → s.rd R.PHS_STAT_LOST = 0 →
        t.rd R.PHS_STAT_LOST = 1 ∧ t.rd R.PHS_STAT_SLEWING = 0 ∧ t.rd R.PHS_LASTFAULT_FAULT = 0x0303 ∧ t.lineUp 16 = true ∧
        t.phs.trackInc = s.clampInc (s.heldInc which) ∧
        OnlyRegs (R.PHS_STAT_WLOST :: R.PHS_STAT_LOST :: R.PHS_STAT_SLEWING :: R.PHS_INC_INC :: R.PHS_LASTFAULT_FAULT ::
          lineFlds 16 ++ lineFlds 22) s t))) ∧
    (s.rd R.PHS_STAT_SHLOST = 0 → s.domOn 10 = true → Completes .shaftLost s (fun t =>
      t.rd R.PHS_STAT_SHLOST = 1 ∧ t.rd R.PHS_LASTFAULT_FAULT = 0x0305 ∧ t.lineUp 18 = true ∧
      OnlyRegs (R.PHS_STAT_SHLOST :: R.PHS_LASTFAULT_FAULT :: lineFlds 18) s t)) ∧
    (s.rd R.PHS_STAT_SHLOST = 1 → exec .shaftLost s = .next s) ∧
    (∀ phase mHz : Word,
      (s.rd R.PHS_STAT_SHLOST = 1 → Completes (.referenceReturn 3 phase mHz) s (fun t =>
        t.rd R.PHS_STAT_SHLOST = 0 ∧ t.phs.shRelock = true ∧ t.lineUp 18 = true ∧
        OnlyRegs (R.PHS_STAT_SHLOST :: lineFlds 18) s t)) ∧
      (s.rd R.PHS_STAT_SHLOST = 0 → exec (.referenceReturn 3 phase mHz) s = .next s) ∧
      (∀ which : Fin 4, which.val < 3 →
        (s.refFaulty which = true → exec (.referenceReturn which phase mHz) s = .next s) ∧
        (s.refFaulty which = false → Completes (.referenceReturn which phase mHz) s (fun t =>
          t.refLost which = false ∧ others which t ∧ witness which 0 t ∧ t.mem = s.mem ∧
          (s.rd R.PHS_CFG_REF = which → s.rd R.PHS_STAT_LOST = 1 → t.rd R.PHS_STAT_LOST = 0 ∧ t.lineUp 16 = true) ∧
          (s.rd R.PHS_CFG_REF ≠ which ∨ s.rd R.PHS_STAT_LOST = 0 → OnlyRegs [R.PHS_STAT_WLOST] s t) ∧
          OnlyRegs (R.PHS_STAT_WLOST :: R.PHS_STAT_LOST :: R.PHS_STAT_BANDX :: R.PHS_STAT_SLEWING :: R.PHS_INC_INC ::
            R.PHS_PHASE_PHASE :: lineFlds 16 ++ lineFlds 17 ++ lineFlds 22) s t))) ∧
      (let out := mHz.toNat < s.rd R.PHS_FMIN_F ∨ s.rd R.PHS_FMAX_F < mHz.toNat
       let fed := s.rd R.PHS_CFG_REF ≠ 0 ∨ s.mainsFed = true
       Completes (.bandExcursion phase mHz) s (fun t => t.mem = s.mem ∧
        (s.rd R.PHS_STAT_LOST = 1 ∨ ¬fed → t.regs = s.regs) ∧
        (s.rd R.PHS_STAT_LOST = 0 → fed → (t.rd R.PHS_STAT_BANDX = 1 ↔ out) ∧
          (t.rd R.PHS_STAT_BANDX ≠ s.rd R.PHS_STAT_BANDX → t.lineUp 17 = true) ∧
          OnlyRegs (R.PHS_STAT_BANDX :: R.PHS_STAT_SLEWING :: R.PHS_INC_INC :: R.PHS_PHASE_PHASE :: lineFlds 17 ++ lineFlds 22)
            s t)))) ∧
    (s.rd R.PHS_STAT_SLEWING = 1 → Completes .slewEnd s (fun t =>
      t.rd R.PHS_STAT_SLEWING = 0 ∧ t.lineUp 22 = true ∧ t.phs.slewOfs = 0 ∧
      OnlyRegs (R.PHS_STAT_SLEWING :: R.PHS_INC_INC :: lineFlds 22) s t)) ∧
    (s.rd R.PHS_STAT_SLEWING = 0 → exec .slewEnd s = .next s)

/-- The shaft and the witness (R35, R37, R40, R43 to R45, R48, R54), and the SYNC output (R448). An edge moves the word by one count and
gives the rate of its interval; an index steps the turn count, restarts the count and sets the word to PHS_SHOFS where it is a forward
one, the first since enable, or one that a returned shaft waits for, else leaves it at its count; it disarms once-slots that the turn has
passed; a lost shaft's word runs on by itself. That a lost shaft still counts edges and index without moving the word, and that an edge
brings the rate of its interval, are the model's choices (log entry 28). The witness's difference is compared with the threshold while it
is neither none nor lost. -/
def Obligations.ShaftWitnessEvents : Prop :=
  ∀ s : State,
    let slots := (List.range 1024).map fun n => R.PHS_SLOT_WORD n 1
    (∀ (b : Bool) (cps : Word),
      (s.rd R.PHS_CFG_SHEN = 0 → exec (.shaftEdge b cps) s = .next s ∧ exec (.shaftIndex b) s = .next s) ∧
      (s.rd R.PHS_CFG_SHEN = 1 → s.rd R.PHS_STAT_SHLOST = 1 →
        Completes (.shaftEdge b cps) s (fun t => t.regs = s.regs ∧ t.mem = s.mem ∧
          t.phs.shCount = s.phs.shCount + if b = s.on R.PHS_SHCFG_DIRINV then 1 else -1) ∧
        Completes (.shaftIndex b) s (fun t => t.rd R.PHS_STAT_SHREF = 1 ∧ t.phs.shCount = 0 ∧ OnlyRegs [R.PHS_STAT_SHREF] s t)) ∧
      (s.rd R.PHS_CFG_SHEN = 1 → s.rd R.PHS_STAT_SHLOST = 0 →
        let fwd := b = s.on R.PHS_SHCFG_DIRINV
        let k := 2 ^ 32 / (4 * (s.rd R.PHS_SHCFG_LINES + 1))
        Completes (.shaftEdge b cps) s (fun t =>
          (fwd → t.rd R.PHS_SHPHASE_PHASE = (s.phs.shBase + k) % 2 ^ 32 ∧ t.phs.shCount = s.phs.shCount + 1) ∧
          (¬fwd → t.rd R.PHS_SHPHASE_PHASE = (s.phs.shBase + 2 ^ 32 - k) % 2 ^ 32 ∧ t.phs.shCount = s.phs.shCount - 1) ∧
          t.phs.shRate = cps.toNat ∧ OnlyRegs [R.PHS_SHPHASE_PHASE] s t) ∧
        Completes (.shaftIndex b) s (fun t =>
          t.rd R.PHS_STAT_SHREF = 1 ∧ t.phs.shCount = 0 ∧ t.phs.shRelock = false ∧
          t.rd R.PHS_SHPHASE_TURN = (s.rd R.PHS_SHPHASE_TURN + if fwd then 1 else 2 ^ 32 - 1) % 2 ^ 32 ∧
          t.rd R.PHS_SHPHASE_PHASE = (if fwd ∨ s.phs.shRelock = true ∨ s.rd R.PHS_STAT_SHREF = 0 then s.rd R.PHS_SHOFS_OFS
            else s.phs.shBase % 2 ^ 32) ∧
          (s.rd R.PHS_SHCFG_IDXCHK = 0 →
            OnlyRegs ([R.PHS_STAT_SHREF, R.PHS_SHPHASE_PHASE, R.PHS_SHPHASE_TURN, R.PHS_STAT_PASTC] ++ slots) s t) ∧
          (s.rd R.PHS_SHCFG_IDXCHK = 1 → s.rd R.PHS_STAT_SHREF = 1 → s.domOn 10 = true →
            (let n := s.phs.shCount.natAbs
             let l4 := 4 * (s.rd R.PHS_SHCFG_LINES + 1)
             n + 1 < l4 ∨ l4 + 1 < n) → t.rd R.PHS_STAT_SHLOST = 1 ∧ t.lineUp 18 = true)))) ∧
    (∀ diff foff : Word,
      (s.rd R.PHS_CFG_WIT = 3 ∨ s.rd R.PHS_STAT_WLOST = 1 → exec (.witnessUpdate diff foff) s = .next s) ∧
      (s.rd R.PHS_CFG_WIT ≠ 3 → s.rd R.PHS_STAT_WLOST = 0 → Completes (.witnessUpdate diff foff) s (fun t =>
        t.rd R.PHS_WDIFF_DIFF = diff.toNat ∧ t.rd R.PHS_WFOFF_FOFF = foff.toNat ∧
        (s.rd R.PHS_WTHR_THR < diff.toInt.natAbs → t.rd R.PHS_STAT_WDIS = 1 ∧ t.lineUp 19 = true) ∧
        OnlyRegs (R.PHS_WDIFF_DIFF :: R.PHS_WFOFF_FOFF :: R.PHS_STAT_WDIS :: lineFlds 19) s t))) ∧
    (let w := s.rd R.PHS_CFG_WIT
     (w = 3 → exec .witnessLost s = .next s ∧ exec .witnessReturn s = .next s) ∧
     (w ≠ 3 → Completes .witnessLost s (fun t => t.rd R.PHS_STAT_WLOST = 1 ∧ t.refLost w = true ∧ t.mem = s.mem ∧
       (s.rd R.PHS_CFG_REF ≠ w → OnlyRegs [R.PHS_STAT_WLOST] s t))) ∧
     (w ≠ 3 → s.refFaulty w = true → exec .witnessReturn s = .next s) ∧
     (w ≠ 3 → s.refFaulty w = false → Completes .witnessReturn s (fun t =>
       t.rd R.PHS_STAT_WLOST = 0 ∧ t.refLost w = false ∧ OnlyRegs [R.PHS_STAT_WLOST] s t))) ∧
    (s.domOn 10 = true → Completes .syncPulse s (fun t => t.phs.syncUntil = s.clk + 4000 ∧ t.regs = s.regs ∧ t.mem = s.mem)) ∧
    (s.domOn 10 = false → exec .syncPulse s = .next s)

/-- The configuration of PHS, a requested switch, and the event slots (R47, R48, R54). PHS_CFG is written in STOP only: its six
fields take the value; enabling the shaft clears SHREF, WLOST shows the new witness, and a changed reference becomes active at once:
one that is lost, or none, leaves the word lost, else LOST clears and the word takes the reference's phase. A request is kept for
the next boundary; that it takes the place of one that waits is the model's choice (log entry 28). A word of a slot is set, and a
once-slot whose time has passed is disarmed with PASTC. -/
def Obligations.PhaseConfigAndSlots : Prop :=
  ∀ (v : Word) (s : State),
    (s.mode ≠ 0 → exec (.phsCfgWrite v) s = .next s) ∧
    (s.mode = 0 → Completes (.phsCfgWrite v) s (fun t =>
      let ref := v.toNat % 4
      let wit := v.toNat / 2 ^ 4 % 4
      let cfg := [R.PHS_CFG_REF, R.PHS_CFG_WIT, R.PHS_CFG_N, R.PHS_CFG_MBW, R.PHS_CFG_MNOM, R.PHS_CFG_SHEN, R.PHS_STAT_SHREF,
        R.PHS_STAT_WLOST]
      t.rd R.PHS_CFG_REF = ref ∧ t.rd R.PHS_CFG_WIT = wit ∧ t.rd R.PHS_CFG_N = v.toNat / 2 ^ 8 % 2 ^ R.PHS_CFG_N.width ∧
      t.rd R.PHS_CFG_MBW = v.toNat / 2 ^ 16 % 2 ^ R.PHS_CFG_MBW.width ∧ t.rd R.PHS_CFG_MNOM = v.toNat / 2 ^ 18 % 2 ∧
      t.rd R.PHS_CFG_SHEN = v.toNat / 2 ^ 20 % 2 ∧ t.mode = 0 ∧ t.mem = s.mem ∧
      t.rd R.PHS_STAT_SHREF = (if s.rd R.PHS_CFG_SHEN = 0 ∧ v.getLsbD 20 = true then 0 else s.rd R.PHS_STAT_SHREF) ∧
      t.rd R.PHS_STAT_WLOST = (if wit ≠ 3 ∧ s.refLost wit = true then 1 else 0) ∧
      (ref = s.rd R.PHS_CFG_REF → OnlyRegs cfg s t) ∧
      (ref ≠ s.rd R.PHS_CFG_REF → ref = 3 ∨ s.refLost ref = true → s.domOn 10 = true → t.rd R.PHS_STAT_LOST = 1) ∧
      (ref ≠ s.rd R.PHS_CFG_REF → ref ≠ 3 → s.refLost ref = false →
        t.rd R.PHS_STAT_LOST = 0 ∧ t.rd R.PHS_STAT_SLEWING = 0 ∧ (ref ≠ 2 → t.rd R.PHS_PHASE_PHASE = s.refPhase ref)) ∧
      OnlyRegs (cfg ++ [R.PHS_STAT_LOST, R.PHS_STAT_SLEWING, R.PHS_STAT_BANDX, R.PHS_INC_INC, R.PHS_PHASE_PHASE, R.PHS_LASTFAULT_FAULT] ++
        lineFlds 16 ++ lineFlds 17 ++ lineFlds 22) s t)) ∧
    (v.getLsbD 0 = true → Completes (.phsSwitchRequest v) s (fun t =>
      t.phs.switchTo = some (v.extractLsb' 4 2).toNat ∧ t.regs = s.regs ∧ t.mem = s.mem)) ∧
    (v.getLsbD 0 = false → exec (.phsSwitchRequest v) s = .next s) ∧
    (∀ (n : BitVec 10) (j : BitVec 2),
      let w := fun k => R.PHS_SLOT_WORD n.toNat k
      let new := fun k => if k = j.toNat then v.toNat else s.rd (w k)
      let turn := if bitOf (new 1) 2 = true then s.rd R.PHS_SHPHASE_TURN else s.rd R.PHS_PHASE_TURN
      let past := new 1 % 4 = 3 ∧ 2 ^ 31 ≤ (new 2 + 2 ^ 32 - turn) % 2 ^ 32
      Completes (.slotWrite n j v) s (fun t =>
        (∀ k < 4, k ≠ 1 → t.rd (w k) = new k) ∧
        (past → t.rd (w 1) = new 1 - 3 ∧ t.rd R.PHS_STAT_PASTC = 1) ∧
        (¬past → t.rd (w 1) = new 1 ∧ t.rd R.PHS_STAT_PASTC = s.rd R.PHS_STAT_PASTC) ∧
        OnlyRegs [w 0, w 1, w 2, w 3, R.PHS_STAT_PASTC] s t))

/-- The mode commands (Table 4.7, R31, R94, R97, R171, R175, R177), with no load and no gap in progress: accepted in the modes that
the table allows, where STOP, HOLD, STEP and RUN from HOLD wait for a boundary and an admitted RUN begins its restart; else refused
with a fault and no change. While the clock runs on the RC oscillator every command for RUN is refused with its own fault; which
fault a request takes that several checks refuse is the model's choice (log entry 72). CLEAR_FAULT clears the latched fault, and the
FAULT output with it where the supervisor runs (R448). -/
def Obligations.ModeCommands : Prop :=
  ∀ s : State, s.loadBusy = false → s.inGap = false →
    let waits := fun r t => t.tsk.requests = s.tsk.requests ++ [r] ∧ t.rd R.TSK_STAT_PEND = 1 ∧
      OnlyRegs [R.TSK_STAT_PEND] s t ∧ t.tly.events.length = s.tly.events.length + 1
    let refused := fun t => t = { s with lastReport := 0x0403 }
    (s.mode ≠ 0 → Completes .cmdStop s (waits (.stop 1))) ∧ (s.mode = 0 → Completes .cmdStop s refused) ∧
    (s.mode = 1 → Completes .cmdHold s (waits .hold)) ∧ (s.mode ≠ 1 → Completes .cmdHold s refused) ∧
    (s.rd R.SYS_STAT_CLKSRC = 1 → ∀ c ∈ [Instr.cmdRunWarm, .cmdRunCold, .cmdRunFromHold],
      Completes c s (fun t => t = { s with lastReport := 0x0102 })) ∧
    (s.rd R.SYS_STAT_CLKSRC = 0 → s.mode = 2 → Completes .cmdRunFromHold s (waits .runFromHold)) ∧
    (s.rd R.SYS_STAT_CLKSRC = 0 → s.mode ≠ 2 → Completes .cmdRunFromHold s refused) ∧
    (s.mode = 2 → Completes .cmdStep s (waits .step)) ∧ (s.mode ≠ 2 → Completes .cmdStep s refused) ∧
    (s.rd R.SYS_STAT_CLKSRC = 0 → s.mode ≠ 0 ∨ s.rd R.TSK_STAT_FLT = 1 → Completes .cmdRunWarm s refused ∧
      Completes .cmdRunCold s refused) ∧
    (∀ (im : Image) (led : List LedgerEntry), s.runBlocked = none → s.tsk.save = none → s.nvsComing = false → s.rd R.UPD_STAT_STATE ≠ 5 →
      s.upd.fallDue = none → s.img = some im → s.controlDomains = true → s.phsOk = true → s.taskTableOk = true → s.domOn 4 = true →
      (∀ u : State, u.regs = s.regs → u.img = s.img → admitImage u im.view im = .inr led) →
        Completes .cmdRunCold s (fun t =>
          t.tsk.entry = .restarting ∧ t.rd R.TSK_RSTAT_KIND = 1 ∧ t.ledger = led ∧ t.tsk.tasks = [] ∧ t.mode = 0) ∧
        Completes .cmdRunWarm s (fun t =>
          t.tsk.entry = .restarting ∧ (t.rd R.TSK_RSTAT_KIND = 2 ∨ t.rd R.TSK_RSTAT_KIND = 3) ∧ t.ledger = led ∧ t.mode = 0)) ∧
    Completes .clearFault s (fun t => t.rd R.TSK_FAULT_FAULT = 0 ∧ t.rd R.TSK_STAT_FLT = 0 ∧ t.mode = s.mode ∧
      (s.pwr.held = false → s.domOn 1 = true → t.faultOut = false) ∧
      OnlyRegs [R.TSK_FAULT_FAULT, R.TSK_STAT_FLT] s t)

/-- The cycle (R49, R82, R83, R84, R92, R93, R96, R107, R138, R172, R173, R177). A deadline commits a finished run's output: an on-module
one goes to the gateway with its instant, a remote one to its station where the station has been heard, else Q_UNDELIVERED is set; of
an unfinished run it counts a lenient overrun and stops the controller at a strict one. A boundary moves the word to its phase,
counts the cycle, takes the latch's stamp and releases the tasks whose countdown has run out. A restart ends with the engines idle.
A retain save ends with the rest of the retain store, its header and COMPLETE in flash. That a halted engine reads STATE 0 (log entry 12),
the layout of BIND (log entry 20), and the frame and the instant of a commit (log entry 22) are the model's choices. -/
def Obligations.CycleEvents : Prop :=
  ∀ s : State,
    (∀ (t : Fin 32) (heard : List Word),
      let k := s.task t
      (s.deadlineDue t = false → exec (.taskDeadline t heard) s = .next s) ∧
      (s.deadlineDue t = true → k.running = false →
        let done := s.setTask t { k with armed := false, streak := 0 }
        (s.taskOutputs t = [] → exec (.taskDeadline t heard) s = .next done) ∧
        ∀ p, s.taskOutputs t = [p] → s.forceEntry p.point = none → sget 0 s.tsk.qualWait p.point = 0 → s.memx.ecc = [] →
          let sl := p.bind / 256 % 16
          let chan := p.bind % 256 + if p.bind / 4096 = 3 then 8 else 0
          let there := (heard.map (·.toNat) ++ s.tsk.heard).contains p.bind
          (p.src = 1 → (∀ c ∈ s.ring.commits, ¬(c.frame = s.ring.frame + 1 ∧ c.slice = sl)) →
            Completes (.taskDeadline t heard) s (fun u =>
              u = { done with ring := { s.ring with commits := s.ring.commits ++
                [⟨s.ring.frame + 1, sl, min 1249 ((s.clk - s.ring.frameClk) / 8), [(chan, s.ptValue p.point)]⟩] } })) ∧
          (p.src = 2 ∨ p.src = 3 → Completes (.taskDeadline t heard) s (fun u =>
            u.task t = done.task t ∧ u.regs = s.regs ∧
            (∀ i < 16, bitOf (u.ptQual p.point) i = if i = 5 then !there else bitOf (s.ptQual p.point) i) ∧
            (∀ a, a < pointAddr p.point + 8 ∨ pointAddr p.point + 10 ≤ a → sget 0 u.mem a = sget 0 s.mem a) ∧
            (there = true → sget 0 u.tsk.stationSent p.point = s.ptValue p.point + 1) ∧
            (there = false → u.tsk.stationSent = s.tsk.stationSent)))) ∧
      (s.deadlineDue t = true → k.running = true → s.canaryAside t = true → exec (.taskDeadline t heard) s = .next s) ∧
      (s.deadlineDue t = true → k.running = true → s.canaryAside t = false →
        let ovr := R.TSK_TSTAT_CNT_OVR t
        (s.judgedLenient t = false →
          Completes (.taskDeadline t heard) s (Stopped 2 0x0401 t (2 + s.taskEng t) s)) ∧
        (s.judgedLenient t = true → s.rd R.TSK_CFG_LENESC = 0 ∨ k.streak + 1 < s.rd R.TSK_CFG_LENESC →
          Completes (.taskDeadline t heard) s (fun u =>
            u.task t = { k with streak := k.streak + 1, armed := false } ∧ u.rd R.TSK_STAT_LENW = 1 ∧ u.lineUp 26 = true ∧
            u.rd ovr = min (2 ^ ovr.width - 1) (s.rd ovr + 1) ∧ u.lastReport = 0x0402 ∧ u.mode = s.mode ∧
            OnlyRegs (R.TSK_STAT_LENW :: ovr :: lineFlds 26) s u)) ∧
        (s.judgedLenient t = true → s.rd R.TSK_CFG_LENESC ≠ 0 → s.rd R.TSK_CFG_LENESC ≤ k.streak + 1 →
          Completes (.taskDeadline t heard) s (fun u => Stopped 7 0x0404 t (2 + s.taskEng t) s u ∧ u.rd R.TSK_STAT_LENW = 1)))) ∧
    (s.domOn 10 = false → exec .cycleBoundary s = .next s) ∧
    (s.domOn 10 = true → s.rd R.TSK_STAT_STEP = 0 → s.tsk.requests = [] → s.tsk.entry = .none → s.phs.switchTo = none →
      s.upd.fallDue = none → s.upd.ended = none → s.rd R.UPD_STAT_STATE ≠ 3 → s.memx.ecc = [] →
      Completes .cycleBoundary s (fun t =>
        let n := s.cycles
        let j := cycleOf n (s.rd R.PHS_PHASE_PHASE) + 1
        t.rd R.PHS_PHASE_PHASE = (if n ≤ j then 0 else boundaryPhase n j % 2 ^ 32) ∧ t.phs.frac = 0 ∧
        t.rd R.PHS_PHASE_TURN = (s.rd R.PHS_PHASE_TURN + if n ≤ j then 1 else 0) % 2 ^ 32 ∧ t.mode = s.mode ∧
        (s.mode ≤ 1 → t.rd R.TSK_CYCCNT_COUNT = (s.rd R.TSK_CYCCNT_COUNT + 1) % 2 ^ R.TSK_CYCCNT_COUNT.width ∧
          t.tsk.latchCyc = t.rd R.TSK_CYCCNT_COUNT ∧ t.tsk.latchTime = s.tstampNow) ∧
        (s.mode = 1 → ∀ k < 32, s.taskEn k = true → (s.task k).countdown = 0 → (s.task k).running = false →
          (t.task k).running = true ∧ (t.task k).armed = true ∧ (t.task k).tstamp = s.tstampNow ∧
          t.rd (R.TSK_TSTAT_RELCNT_RELCNT k) =
            (s.rd (R.TSK_TSTAT_RELCNT_RELCNT k) + 1) % 2 ^ (R.TSK_TSTAT_RELCNT_RELCNT k).width) ∧
        (s.mode = 2 → t.rd R.TSK_CYCCNT_COUNT = s.rd R.TSK_CYCCNT_COUNT ∧ t.mem = s.mem))) ∧
    (s.memx.init ≠ 0 ∨ s.tsk.entry ≠ .restarting ∧ s.rd R.MEM_STAT_ZEROING = 0 → exec .restartComplete s = .next s) ∧
    (s.tsk.entry ≠ .restarting → s.memx.init = 0 → s.memx.waiting = [] → s.rd R.MEM_STAT_ZEROING = 1 →
      Completes .restartComplete s (fun t =>
      t.tsk = s.tsk ∧ t.rd R.MEM_STAT_ZEROING = 0 ∧ t.rd R.MEM_FRONT_ADDR = 0x300000000 ∧
      OnlyRegs [R.MEM_STAT_ZEROING, R.MEM_FRONT_ADDR] s t)) ∧
    (s.tsk.entry = .restarting → s.memx.init = 0 → s.memx.waiting = [] → Completes .restartComplete s (fun t =>
      t.tsk.entry = .ready ∧ t.rd R.MEM_STAT_ZEROING = 0 ∧ (s.rd R.MEM_STAT_ZEROING = 1 → t.rd R.MEM_FRONT_ADDR = 0x300000000) ∧
      (∀ e : Eng, t.rd (R.FBE_STAT_STATE e) = 2 ∧ t.rd (R.FBE_STAT_TASK e) = 0x3F) ∧
      OnlyRegs (R.MEM_STAT_ZEROING :: R.MEM_FRONT_ADDR ::
        (List.range 4).flatMap fun e => [R.FBE_STAT_STATE e, R.FBE_STAT_TASK e, R.FBE_STAT_DEPTH e]) s t)) ∧
    (∀ failed : Bool,
      (s.tsk.save = none → exec (.retainSaveComplete failed) s = .next s) ∧
      (∀ slot cause, s.tsk.save = some (slot, cause) → slot < 2 → s.nvsReady = true → s.settled → s.nvs.due = [] →
        s.memx.ecc = [] → s.canonical = true → Completes (.retainSaveComplete failed) s (fun t =>
          t.tsk.save = none ∧ t.rd R.TSK_RSTAT_SAVING = 0 ∧ t.rd R.NVS_STAT_SAVE = 0 ∧ t.lineUp 125 = true ∧ t.mem = s.mem ∧
          (failed = false → readLE t.flash (snapBase slot + 0xFFC) 4 = 0x504D4F43 ∧
            t.rd R.TSK_SNAPSEQ_SEQ = s.nextSnapSeq % 2 ^ 32) ∧
          (failed = true → readLE t.flash (snapBase slot + 0xFFC) 4 = 0 ∧ t.rd R.NVS_LASTFAULT_FAULT = 0x1101 ∧ t.lineUp 126 = true) ∧
          (∀ i, s.tsk.saved ≤ i → i < 0x200000 → sget 0 t.flash (snapBase slot + 4096 + i) = sget 0 s.mem (0x3000000 + i)) ∧
          OnlyFields (R.TSK_RSTAT_SAVING :: R.NVS_STAT_SAVE :: R.TSK_SNAPSEQ_SEQ :: R.NVS_WRERR_COUNT :: R.NVS_LASTFAULT_FAULT ::
            lineFlds 125 ++ lineFlds 126) s t)))

/-- The ring (R53, R56, R213 to R215, R218 to R220, R224, R227, R240, R260, Tables 9.3, 9.6). A frame leaves with what the slices sample at
that moment, and the one that returns good brings the inputs, status, alignment and fast power sampled a frame before; a bad one, or
one marked CORRUPT, is counted. A break and its end; a slice leaves and joins; a placed action executes, after a commit of the same
instant; a burst's header is written. -/
def Obligations.RingEvents : Prop :=
  ∀ s : State,
    (∀ (good : Bool) (sections reached : BitVec 6) (up : FrameUp),
      (s.domOn 10 = false → exec (.ringFrame good sections reached up) s = .next s) ∧
      (s.domOn 10 = true → Completes (.ringFrame good sections reached up) s (fun t =>
        t.ring.frame = s.ring.frame + 1 ∧ t.ring.frameClk = s.clk ∧ t.rd R.SLR_RING_SAFE = b2n s.emitSafe ∧
        (∀ n < 4, (t.sliceOf n).sample.di = (s.sliceOf n).di ∧ (t.sliceOf n).sample.status = (s.sliceOf n).status) ∧
        (good = false ∨ s.ring.corrupt = true →
          t.rd R.SLR_RINGCNT_BADRET = (s.rd R.SLR_RINGCNT_BADRET + 1) % 2 ^ R.SLR_RINGCNT_BADRET.width) ∧
        (good = true → s.ring.corrupt = false → t.rd R.SLR_RINGCNT_BADRET = s.rd R.SLR_RINGCNT_BADRET ∧
          (∀ n < 4, sections.getLsbD n = true → s.sliceUp n = true →
            let p := (s.sliceOf n).sample
            t.rd (R.SLR_DIIN_STATE n) = p.di % 2 ^ (R.SLR_DIIN_STATE n).width ∧
            t.rd (R.SLR_SSTAT_FS_LOW n) = b2n (bitOf p.status 0) ∧ t.rd (R.SLR_SSTAT_FS_MISSING n) = b2n (bitOf p.status 1) ∧
            t.rd (R.SLR_SSTAT_SUMOVER n) = b2n (bitOf p.status 2) ∧
            (p.chan < 8 → t.rd (R.SLR_DOSTAT_STATE n p.chan) = p.code % 2 ^ (R.SLR_DOSTAT_STATE n p.chan).width)) ∧
          (∀ n < 6, sections.getLsbD n = true → s.sliceUp n = true → ∀ x, up.align[n]? = some x →
            t.rd (R.SLR_ALIGN_ERR n) = x.toNat) ∧
          (∀ f < 2, sections.getLsbD (4 + f) = true → s.sliceUp (4 + f) = true → s.domOn 15 = true → 0 < s.ring.frame →
            t.rd (R.MET_FASTP_FASTP f) = (s.feeder f).sentP % 2 ^ 32 ∧ t.rd (R.MET_FSTAT_LOCK f) = b2n (s.feeder f).sentLock))))) ∧
    (s.domOn 10 = true → s.rd R.SLR_RING_BROKEN = 0 → Completes .ringBroken s (fun t =>
      t.rd R.SLR_RING_BROKEN = 1 ∧ t.rd R.SLR_RING_SAFE = 1 ∧ t.rd R.SLR_LASTFAULT_FAULT = 0x0701 ∧ t.lineUp 62 = true ∧
      t.rd R.SLR_RINGCNT_BREAKS = min (2 ^ R.SLR_RINGCNT_BREAKS.width - 1) (s.rd R.SLR_RINGCNT_BREAKS + 1) ∧
      t.refLost 0 = true ∧ (∀ c < 8, t.burstOn c = none) ∧ t.mem = s.mem)) ∧
    (s.rd R.SLR_RING_BROKEN = 1 → exec .ringBroken s = .next s ∧ Completes .ringRestored s (fun t =>
      t.rd R.SLR_RING_BROKEN = 0 ∧ t.lineUp 62 = true ∧ t.ring = s.ring ∧ t.mem = s.mem)) ∧
    (s.rd R.SLR_RING_BROKEN = 0 → exec .ringRestored s = .next s) ∧
    (∀ sl : AnySlice,
      (s.present sl = false → exec (.sliceLeave sl) s = .next s) ∧
      (s.present sl = true → Completes (.sliceLeave sl) s (fun t =>
        t.present sl = false ∧ (∀ n, n ≠ sl.val → t.present n = s.present n) ∧ t.rd (R.SLR_SSTAT_PRESENT sl) = 0 ∧
        t.rd R.SLR_LASTFAULT_FAULT = 0x0702 ∧ t.rd R.SLR_LASTFAULT_SLICE = sl.val ∧ t.lineUp (48 + sl.val) = true ∧
        (sl = 4 → t.refLost 0 = true) ∧ t.mem = s.mem) ∧ exec (.sliceJoin sl) s = .next s) ∧
      (s.present sl = false → s.domOn 10 = true → s.sliceUp sl = true → Completes (.sliceJoin sl) s (fun t =>
        t.present sl = true ∧ (∀ n, n ≠ sl.val → t.present n = s.present n) ∧ t.rd (R.SLR_SSTAT_PRESENT sl) = 1 ∧
        t.rd (R.SLR_ID_KIND sl) = (if sl.val < 4 then 1 else 2) ∧
        t.rd (R.SLR_ID_ISSUE sl) = (s.sliceOf sl).issue % 2 ^ (R.SLR_ID_ISSUE sl).width ∧ t.lineUp (48 + sl.val) = true ∧
        t.ring = s.ring ∧ t.mem = s.mem))) ∧
    (s.phs.placed = [] → exec .slotActionExecute s = .next s) ∧
    (∀ p rest, s.phs.placed = p :: rest →
      (p.action = 6 → Completes .slotActionExecute s (fun t =>
        t.phs.placed = rest ∧ t.rd R.PHS_EVLAST_SLOT = p.slot % 2 ^ R.PHS_EVLAST_SLOT.width ∧
        t.rd R.PHS_EVLAST_CODE = p.arg % 2 ^ R.PHS_EVLAST_CODE.width ∧ t.lineUp 20 = true ∧
        OnlyRegs (R.PHS_EVLAST_SLOT :: R.PHS_EVLAST_CODE :: R.PHS_EVLAST_COUNT :: lineFlds 20) s t)) ∧
      (p.action = 5 → p.target / 32 = 7 → Completes .slotActionExecute s (fun t =>
        t.phs.placed = rest ∧ t.rd R.PHS_SHLATCH_VALUE = s.shPhase64 ∧ OnlyRegs [R.PHS_SHLATCH_VALUE] s t)) ∧
      (p.action ≠ 6 → p.target / 32 < 4 →
        let sl := p.target / 32
        let v := s.sliceOf sl
        (v.up = true → v.cur.good = false → Completes .slotActionExecute s (fun t =>
          t.rd (R.SLR_ERRCNT_BAD sl) = (s.rd (R.SLR_ERRCNT_BAD sl) + 1) % 2 ^ (R.SLR_ERRCNT_BAD sl).width ∧ t.ring = s.ring)) ∧
        (v.up = true → v.cur.good = true → p.action = 5 → Completes .slotActionExecute s (fun t =>
          (t.sliceOf sl).latch = v.latch ++ [(s.tstampNow, v.counts)] ∧ t.regs = s.regs ∧ t.mem = s.mem)) ∧
        (v.up = true → v.cur.good = true → p.action = 4 → p.target % 32 = 16 → Completes .slotActionExecute s (fun t =>
          t.regs = s.regs ∧ ∃ b, t.burstOn (2 * sl) = some b ∧ b.count = p.arg ∧ b.done = 0)) ∧
        (v.up = true → v.cur.good = true → 1 ≤ p.action → p.action ≤ 3 → p.target % 32 < 8 → v.safe = false →
          s.suppressDo = false → bitOf v.cur.forced (p.target % 32) = false → s.isPwm sl (p.target % 32) = false →
          let m := if v.cur.instant ≤ p.instant then v.cur.commit &&& (1023 - v.cur.forced) else 0
          let level := fun c => if bitOf m c then bitOf v.cur.levels c else bitOf v.levels c
          Completes .slotActionExecute s (fun t =>
            bitOf (t.sliceOf sl).levels (p.target % 32) = (p.action == 1 || (p.action == 3 && !level (p.target % 32))) ∧
            (∀ c < 8, c ≠ p.target % 32 → bitOf (t.sliceOf sl).levels c = level c) ∧ t.regs = s.regs ∧ t.mem = s.mem)))) ∧
    (∀ (sl : FieldSlice) (ch : Fin 2),
      let c := 2 * sl.val + ch.val
      let a := s.burstAddr c
      ((s.ring.ended.find? fun b => b.chan == c) = none → exec (.burstEnd sl ch) s = .next s) ∧
      (∀ b, (s.ring.ended.find? fun b => b.chan == c) = some b → s.memx.ecc = [] → 0x100000000 ≤ a → a + 64 ≤ 0x2FFE00000 →
        a + 64 ≤ s.rd R.MEM_FRONT_ADDR → Completes (.burstEnd sl ch) s (fun t =>
          readLE t.mem a 4 = (sget 0 s.ring.burstSeq c + 1) % 2 ^ 32 ∧ readLE t.mem (a + 4) 4 = b.count % 2 ^ 32 ∧
          readLE t.mem (a + 8) 4 = b.done % 2 ^ 32 ∧ readLE t.mem (a + 12) 4 = b.status % 2 ^ 32 ∧
          readLE t.mem (a + 16) 8 = b.time % 2 ^ 64 ∧ readLE t.mem (a + 24) 8 = b.main % 2 ^ 64 ∧
          readLE t.mem (a + 32) 8 = b.shaft % 2 ^ 64 ∧ readLE t.mem (a + 40) 4 = b.ofs % 2 ^ 32 ∧
          (∀ k, k < a ∨ a + 64 ≤ k → sget 0 t.mem k = sget 0 s.mem k) ∧ t.ring.ended = s.ring.ended.erase b ∧
          t.lineUp 63 = true ∧ OnlyFields (R.MEM_STAT_DIRTY :: lineFlds 63) s t)))

/-- A slice on its own side (R216, R217, R221, R223, R224, R226, R229, R237, R241, R244, R251, R265): outputs that a commit applies, the
watchdog, the end of safe state after 40 good frames, the boot with the bank, the accumulators restored and the loss to report, an
input edge with its counter and its stamp, a PWM period and an AO fault. In a gap R411 adds two clauses: the watchdog trips a field
slice that has switched banks and is still down, and a boot after a switch keeps the outputs and a trip that came before it. -/
def Obligations.SliceEvents : Prop :=
  ∀ s : State,
    (∀ sl : AnySlice,
      let v := s.sliceOf sl
      let alone := fun t => (∀ n, n ≠ sl.val → t.sliceOf n = s.sliceOf n) ∧ t.mem = s.mem
      let late := v.switching = true ∧ sl.val < 4
      (v.up = false → ∀ err, exec (.sliceSafeExit sl) s = .next s ∧ exec (.timebaseAlignError sl err) s = .next s ∧
        (¬late → exec (.sliceWatchdogTrip sl) s = .next s)) ∧
      (v.up = true ∨ late →
        Completes (.sliceWatchdogTrip sl) s (fun t =>
          (t.sliceOf sl).wdSafe = true ∧ (t.sliceOf sl).tripped = true ∧ t.rd (R.SLR_SSTAT_SAFE sl) = 1 ∧
          t.rd (R.SLR_ERRCNT_WDTRIPS sl) = min (2 ^ (R.SLR_ERRCNT_WDTRIPS sl).width - 1) (s.rd (R.SLR_ERRCNT_WDTRIPS sl) + 1) ∧
          bitOf t.ring.tripOwed sl = true ∧ alone t ∧
          (sl.val < 4 → ∀ k < 8, bitOf (t.sliceOf sl).levels k = s.on (R.SLR_DOCFG_SAFE sl k)) ∧
          (4 ≤ sl.val → (t.feeder (sl.val - 4)).holdover = true ∧ t.rd R.MET_LASTFAULT_FAULT = 0x0804 ∧
            t.rd R.MET_LASTFAULT_FEEDER = sl.val - 4))) ∧
      (v.up = true →
        Completes (.sliceSafeExit sl) s (fun t =>
          let w := t.sliceOf sl
          w.bootSafe = (v.bootSafe && decide (v.goodRun < 40)) ∧ w.wdSafe = (v.wdSafe && decide (v.clearRun < 40)) ∧
          w.frameSafe = v.frameSafe ∧ t.rd (R.SLR_SSTAT_SAFE sl) = b2n (w.bootSafe || w.wdSafe || w.frameSafe) ∧ alone t ∧
          (4 ≤ sl.val → 40 ≤ v.goodRun → (t.feeder (sl.val - 4)).holdover = false) ∧
          (v.safe = true → w.safe = false → v.cur.good = true → ∀ k < 8, bitOf w.levels k = bitOf v.cur.levels k) ∧
          (v.safe = false ∨ w.safe = true → w.levels = v.levels ∧ w.ao = v.ao)) ∧
        ∀ err, Completes (.timebaseAlignError sl err) s (fun t =>
          t.rd (R.SLR_ALIGN_ERR sl) = err.toNat ∧ t.rd (R.SLR_SSTAT_SYNCERR sl) = 1 ∧ t.rd R.SLR_LASTFAULT_FAULT = 0x0708 ∧
          t.rd R.SLR_LASTFAULT_SLICE = sl.val ∧
          OnlyRegs [R.SLR_ALIGN_ERR sl, R.SLR_SSTAT_SYNCERR sl, R.SLR_LASTFAULT_FAULT, R.SLR_LASTFAULT_SLICE,
            R.SLR_LASTFAULT_CHAN] s t)) ∧
      ∀ (issue : Byte) (version : BitVec 16) (bank : Bool) (lost : DWord) (bad : Fin 3),
        let boot := Instr.sliceBoot sl issue version bank lost bad
        ((s.domOn 10 && s.domOn (sliceDom sl)) = false → exec boot s = .next s) ∧
        ((s.domOn 10 && s.domOn (sliceDom sl)) = true → Completes boot s (fun t =>
          (t.sliceOf sl).up = true ∧ (t.sliceOf sl).issue = issue.toNat ∧
          (t.sliceOf sl).version = (if v.known then v.version else version.toNat) ∧
          (t.sliceOf sl).bank = (if v.known then v.bank else b2n bank) ∧ (t.sliceOf sl).staged = v.staged ∧
            (t.sliceOf sl).counts = List.replicate 12 0 ∧ (t.sliceOf sl).fifo = [] ∧ alone t ∧
          (t.sliceOf sl).switching = false ∧ t.rd (R.SLR_SSTAT_SAFE sl) = b2n (t.sliceOf sl).safe ∧
          (v.switching = false → (t.sliceOf sl).bootSafe = true ∧ t.rd (R.SLR_SSTAT_SAFE sl) = 1 ∧
            (sl.val < 4 → ∀ k < 8, bitOf (t.sliceOf sl).levels k = s.on (R.SLR_DOCFG_SAFE sl k))) ∧
          (v.switching = true → (t.sliceOf sl).levels = v.levels ∧ (t.sliceOf sl).ao = v.ao ∧ (t.sliceOf sl).bootSafe = v.bootSafe ∧
            (t.sliceOf sl).wdSafe = v.wdSafe ∧ (t.sliceOf sl).tripped = v.tripped) ∧
          (4 ≤ sl.val →
            (t.feeder (sl.val - 4)).acc = (match bad with
              | 0 => (s.feeder (sl.val - 4)).saved
              | 1 => (s.feeder (sl.val - 4)).savedOld
              | _ => []) ∧
            (t.feeder (sl.val - 4)).saved = (t.feeder (sl.val - 4)).acc ∧
            (t.feeder (sl.val - 4)).unmetNs = (s.feeder (sl.val - 4)).unmetNs + lost.toNat * 1000 ∧
            (t.feeder (sl.val - 4)).report = (if lost = 0 then 0 else 1) + (if bad = 2 then 2 else 0))))) ∧
    ∀ (sl : FieldSlice) (ch : Fin 12) (level : Bool) (do_ : Fin 8) (fault : Bool) (an : Fin 2),
      let v := s.sliceOf sl
      let alone := fun t => (∀ n, n ≠ sl.val → t.sliceOf n = s.sliceOf n) ∧ t.mem = s.mem
      (v.up = false → exec (.sliceOutputApply sl) s = .next s ∧ exec (.diDebouncedEdge sl ch level) s = .next s ∧
        exec (.pwmPeriodStart sl do_) s = .next s ∧ exec (.aoFault sl an fault) s = .next s) ∧
      (v.safe = true ∨ v.cur.good = false → exec (.sliceOutputApply sl) s = .next s) ∧
      (v.up = true → v.safe = false → v.cur.good = true → Completes (.sliceOutputApply sl) s (fun t =>
        let m := v.cur.commit &&& (1023 - v.cur.forced)
        (∀ k < 8, bitOf (t.sliceOf sl).levels k = if bitOf m k then bitOf v.cur.levels k else bitOf v.levels k) ∧
        (t.sliceOf sl).ao = [(if bitOf m 8 then v.cur.ao else v.ao).getD 0 0, (if bitOf m 9 then v.cur.ao else v.ao).getD 1 0] ∧
        (t.sliceOf sl).cur.commit = 0 ∧ t.regs = s.regs ∧ alone t)) ∧
      (v.up = true → bitOf v.di ch = level → exec (.diDebouncedEdge sl ch level) s = .next s) ∧
      (v.up = true → bitOf v.di ch ≠ level → v.counts.length = 12 → Completes (.diDebouncedEdge sl ch level) s (fun t =>
        let w := t.sliceOf sl
        bitOf w.di ch = level ∧ (∀ k, k ≠ ch.val → bitOf w.di k = bitOf v.di k) ∧ alone t ∧
        (∀ k, w.counts.getD k 0 = if k = ch.val ∧ countsEdge (s.rd (R.SLR_DICFG_CNTEDGE sl ch)) level then
          (v.counts.getD k 0 + 1) % 2 ^ 32 else v.counts.getD k 0) ∧
        (let stamps := stampsEdge (s.rd (R.SLR_DICFG_STAMP sl ch)) level
         (stamps = false → w.fifo = v.fifo ∧ t.regs = s.regs) ∧
         (stamps = true → v.fifo.length < 64 → w.fifo.length = v.fifo.length + 1 ∧ t.regs = s.regs) ∧
         (stamps = true → 64 ≤ v.fifo.length → w.fifo = v.fifo ∧ t.rd R.SLR_LASTFAULT_FAULT = 0x0707 ∧
           t.rd (R.SLR_STAMPDROP_COUNT sl) = (s.rd (R.SLR_STAMPDROP_COUNT sl) + 1) % 2 ^ (R.SLR_STAMPDROP_COUNT sl).width)))) ∧
      (v.safe = true ∨ s.isPwm sl do_ = false → exec (.pwmPeriodStart sl do_) s = .next s) ∧
      (v.up = true → v.safe = false → s.isPwm sl do_ = true → v.onTime.length = 8 → Completes (.pwmPeriodStart sl do_) s (fun t =>
        (t.sliceOf sl).onTime = v.onTime.set do_ (s.pwmOn sl do_ (v.duty.getD do_ 0)) ∧ (t.sliceOf sl).levels = v.levels ∧
        t.regs = s.regs ∧ alone t)) ∧
      (v.up = true → Completes (.aoFault sl an fault) s (fun t =>
        (∀ i, bitOf (t.sliceOf sl).aoFault i = if i = an.val then fault && s.on (R.SLR_AOCFG_MODE sl an) else bitOf v.aoFault i) ∧
        t.regs = s.regs ∧ alone t))

/-- The DO conditions of a field slice and its supply (R231 to R235, Tables 9.3, 9.5): a shutdown latches with THERM, a recovery, a
current limit, an open load, a release, the sum over its limit, and the field supply; a channel that the safe state keeps on stays LATCHED
(R243). The states that SLR_DOSTAT and SLR_SSTAT then
show come with the next status (RingEvents). -/
def Obligations.OutputConditionEvents : Prop :=
  ∀ (sl : FieldSlice) (ch : Fin 8) (b : Bool) (volts : BitVec 16) (w : Word) (s : State),
    let v := s.sliceOf sl
    let all : List Instr := [.doThermalShutdown sl ch, .doThermalRecover sl ch, .doCurrentLimit sl ch b, .doOpenLoad sl ch b,
      .doRelease sl w, .sumoverChange sl b, .fieldSupplyLow sl b volts, .fieldSupplyMissing sl volts, .fieldSupplyRestored sl volts]
    let alone := fun (t : State) => t.mem = s.mem ∧ (∀ n, n ≠ sl.val → t.sliceOf n = s.sliceOf n) ∧ (t.sliceOf sl).levels = v.levels
    let post := fun (P : State → SliceState → Prop) (t : State) => P t (t.sliceOf sl) ∧ alone t ∧ t.regs = s.regs
    (v.up = false → ∀ c ∈ all, exec c s = .next s) ∧
    (v.up = true →
      Completes (.doThermalShutdown sl ch) s (fun t => alone t ∧
        t.rd (R.SLR_DOSTAT_SHUTCNT sl ch) = min (2 ^ 16 - 1) (s.rd (R.SLR_DOSTAT_SHUTCNT sl ch) + 1) ∧
        t.rd R.SLR_LASTFAULT_SLICE = sl.val ∧ t.rd R.SLR_LASTFAULT_CHAN = ch.val ∧
        (s.rd (R.SLR_DOCFG_THERM sl ch) = 1 → bitOf (t.sliceOf sl).latched ch = true ∧ t.rd R.SLR_LASTFAULT_FAULT = 0x0705 ∧
          (v.fsMissing = false → t.doState sl ch = 5)) ∧
        (s.rd (R.SLR_DOCFG_THERM sl ch) = 0 → bitOf (t.sliceOf sl).thermal ch = true ∧ t.rd R.SLR_LASTFAULT_FAULT = 0x0704 ∧
          (v.fsMissing = false → bitOf v.latched ch = false → t.doState sl ch = 4)) ∧
        OnlyRegs [R.SLR_DOSTAT_SHUTCNT sl ch, R.SLR_LASTFAULT_FAULT, R.SLR_LASTFAULT_SLICE, R.SLR_LASTFAULT_CHAN] s t) ∧
      Completes (.doThermalRecover sl ch) s (post fun _ u => bitOf u.thermal ch = false ∧
        ∀ k, k ≠ ch.val → bitOf u.thermal k = bitOf v.thermal k) ∧
      Completes (.doCurrentLimit sl ch b) s (post fun t u => bitOf u.limit ch = b ∧
        (∀ k, k ≠ ch.val → bitOf u.limit k = bitOf v.limit k) ∧
        (b = true → v.fsMissing = false → bitOf v.latched ch = false → bitOf v.thermal ch = false → t.doState sl ch = 3)) ∧
      Completes (.doOpenLoad sl ch b) s (post fun _ u =>
        (b = false → bitOf u.openLoad ch = false) ∧
        (b = true → s.rd (R.SLR_DOCFG_OLDET sl ch) = 1 → s.doOn sl ch = true → bitOf u.openLoad ch = true)) ∧
      Completes (.doRelease sl w) s (post fun _ u => ∀ k < 8, bitOf u.latched k =
        (bitOf v.latched k && (!w.getLsbD k || v.safe && s.on (R.SLR_DOCFG_SAFE sl k)))) ∧
      Completes (.sumoverChange sl b) s (post fun _ u => u = { v with sumover := b }) ∧
      Completes (.fieldSupplyLow sl b volts) s (post fun _ u => u = { v with fsLow := b, volts := volts.toNat }) ∧
      Completes (.fieldSupplyMissing sl volts) s (post fun t u =>
        u = { v with fsMissing := true, volts := volts.toNat } ∧ ∀ k < 8, t.doState sl k = 2) ∧
      Completes (.fieldSupplyRestored sl volts) s (post fun _ u => u.fsMissing = false ∧ u.volts = volts.toNat))

/-- A feeder and the pulse channels (R247, R250, R252, R254 to R256, R258, R259, R265, R267, R268): a sample, a cycle, a block, the lock
after 50 good cycles with Nc that of the latest cycle, the rotation's snapshot and the saved accumulators; an accumulator never falls;
a pulse begins and ends. The fixed-point arithmetic (energyOf, fxMul, f32Of) and what is accrued at which row are the model's choice
(log entries 23, 24). -/
def Obligations.MeteringEvents : Prop :=
  ∀ (f : Feeder) (s : State),
    let d := s.feeder f
    let on := s.metering f
    let alone := fun (t : State) => t.mem = s.mem ∧ ∀ g : Feeder, g ≠ f → t.feeder g = s.feeder g
    let grows := fun (t : State) => ∀ i, sget 0 d.acc i ≤ sget 0 (t.feeder f).acc i
    (∀ (v vh i : List Int) (c : CycleData) (gs : List HarmGroup),
      (on = false → ∀ x ∈ [Instr.meteringSample f v vh i, .feederCycle f c, .feederBlock f gs, .feederUnlock f, .feederLock f,
        .rotationSnapshot f, .accumulatorSave f], exec x s = .next s) ∧
      (on = true →
        Completes (.meteringSample f v vh i) s (fun t =>
          let d' := t.feeder f
          d'.samples = d.samples + 1 ∧ d'.blockLen = d.blockLen + 1 ∧ grows t ∧ alone t ∧ d'.gapClk = none ∧
          d'.unmetNs = d.unmetNs + (if d.holdover then 31250 else 0) + (match d.gapClk with
            | some c => (s.clk - c) * 5 / 2
            | none => 0) ∧
          t.rd (R.MET_UNMET_UNMET f) = min (2 ^ 32 - 1) (d'.unmetNs / 1000000000) ∧ OnlyRegs [R.MET_UNMET_UNMET f] s t ∧
          (∀ k < 3, d.noLoad.getD k true = true → ∀ num < 256, sget 0 d'.acc (256 * k + num) = sget 0 d.acc (256 * k + num)) ∧
          (0 < d.nc → d.locked = true ∨ d.nc ≤ 640 →
            (∀ k < 3, d.nc ≤ (d.winP.getD k []).length + 1 ∧ d.nc ≤ (d.winQ.getD k []).length + 1) →
            ∀ k < 3, d.noLoad.getD k true = false →
              let p := d'.p.getD k 0
              let num := if 0 ≤ p then 0 else 1
              sget 0 d'.acc (256 * k + num) = sget 0 d.acc (256 * k + num) + energyOf p 1)) ∧
        Completes (.feederCycle f c) s (fun t =>
          let d' := t.feeder f
          d'.samples = 0 ∧ d'.sumV = [0, 0, 0, 0] ∧ d'.sumI = [0, 0, 0, 0] ∧ d'.clip = d.clipNow ∧ d'.clipNow = 0 ∧ grows t ∧ alone t ∧
          d'.ncLatest = (if c.mHz = 0 then d.ncLatest else (32000000 + c.mHz.toNat / 2) / c.mHz.toNat) ∧
          d'.nc = (if d.locked then d'.ncLatest else d.nc) ∧
          d'.blockCycles = d.blockCycles + 1 ∧
          (c.mHz.toNat < 42000 ∨ 70000 < c.mHz.toNat → d'.goodCycles = 0) ∧
          sget 0 d'.vals (256 * 4 + 0xA2) = f32Of ((c.mHz.toNat : Int) * 2 ^ 40 / 1000) ∧ t.regs = s.regs) ∧
        (let enough := (if d.calOf (R.MET_FCFG_NOM f) = 1 then 12 else 10) ≤ d.blockCycles
         (¬enough → exec (.feederBlock f gs) s = .next s) ∧
         (enough → Completes (.feederBlock f gs) s (fun t =>
          let d' := t.feeder f
          d'.blockLen = 0 ∧ d'.blockCycles = 0 ∧ grows t ∧ alone t ∧ t.regs = s.regs ∧ (d.locked = false → d'.acc = d.acc) ∧
          (d.locked = true → ∀ k < 3, ∀ g, groupAt gs k 1 = some g →
            let ratio := fxMul (fxOf (d.calOf (R.MET_FCFG_VTR_VTR f))) (fxOf (d.calOf (R.MET_FCFG_CTR_CTR f)))
            let p := g.power * ratio / 1000000
            let num := if 0 ≤ p then 7 else 8
            sget 0 d'.acc (256 * k + num) = sget 0 d.acc (256 * k + num) + energyOf p d.blockLen)))) ∧
        (d.locked = false → exec (.feederUnlock f) s = .next s) ∧
        (d.locked = true ∨ d.goodCycles ≠ 50 → exec (.feederLock f) s = .next s) ∧
        (d.locked = true → Completes (.feederUnlock f) s (fun t => t.regs = s.regs ∧ alone t ∧ t.feeder f =
          { d with locked := false, goodCycles := 0, nc := if d.calOf (R.MET_FCFG_NOM f) = 1 then 533 else 640 })) ∧
        (d.locked = false → d.goodCycles = 50 → Completes (.feederLock f) s (fun t => t.regs = s.regs ∧ alone t ∧
          t.feeder f = { d with locked := true, nc := d.ncLatest, winP := [[], [], []], winQ := [[], [], []] })) ∧
        Completes (.rotationSnapshot f) s (fun t =>
          (t.feeder f).seq = (d.seq + 1) % 65536 ∧ (t.feeder f).setAcc = d.acc ∧ (t.feeder f).setVals = d.vals ∧
          (t.feeder f).acc = d.acc ∧ (t.feeder f).calOf (R.MET_FCFG_NOM f) % 2 ^ (R.MET_FCFG_NOM f).width = s.rd (R.MET_FCFG_NOM f) ∧
            t.regs = s.regs ∧ alone t) ∧
        Completes (.accumulatorSave f) s (fun t =>
          t.feeder f = { d with saved := d.acc, savedOld := d.saved } ∧ t.regs = s.regs ∧ alone t))) ∧
    ∀ ch : Fin 8,
      (s.pulseReady ch = false → exec (.pulseStart ch) s = .next s) ∧
      (s.pulseReady ch = true → Completes (.pulseStart ch) s (fun t =>
        t.rd (R.MET_PSTAT_ACTIVE ch) = 1 ∧ t.rd (R.MET_PENDING_PENDING ch) + 1 = s.rd (R.MET_PENDING_PENDING ch) ∧
        t.rd (R.MET_EMITTED_EMITTED ch) = (s.rd (R.MET_EMITTED_EMITTED ch) + 1) % 2 ^ 32 ∧
        OnlyRegs [R.MET_PSTAT_ACTIVE ch, R.MET_PENDING_PENDING ch, R.MET_EMITTED_EMITTED ch] s t)) ∧
      Completes (.pulseEnd ch) s (fun t => t.rd (R.MET_PSTAT_ACTIVE ch) = 0 ∧ OnlyRegs [R.MET_PSTAT_ACTIVE ch] s t)

/-- The loop engine (R186, R187, R192 to R195, R200, R210, R212): a frame steps its index and takes the writes that wait; a loop
that is not written, not due and in no due loop's group stays as it is; the supervisor's access; a request for ownership or for a
swap as the frame's start takes it; a sample of a disabled loop; and an enabled sample in full: the set-point, the bank swap (R197),
the cascade, the held destination (R199), a handover from the old owner with its slew (R203, R204), the clamp, and a sample that is
not finite (R200). The order of the operations is the model's choice where the rules leave it open (log entry 30). -/
def Obligations.LoopEngineEvents : Prop :=
  ∀ s : State,
    (s.domOn 4 = false → exec .loopFrame s = .next s) ∧
    (s.domOn 4 = true → Completes .loopFrame s (fun t =>
      let idx := if s.lpe.fresh then 0 else (s.rd R.LPE_HIDX_IDX + 1) % max 1 (s.rd R.LPE_HYPER_H)
      let due := if s.inGap then [] else s.claimed.filter fun n => idx % max 1 (s.ldecl n 2 % 65536) == s.ldecl n 2 / 65536
      t.rd R.LPE_HIDX_IDX = idx % 2 ^ 24 ∧ t.rd R.LPE_FRAME_COUNT = (s.rd R.LPE_FRAME_COUNT + 1) % 2 ^ 64 ∧
      t.lpe.writes = [] ∧ t.lpe.fresh = false ∧
      ∀ n, (∀ w ∈ s.lpe.writes, w.loop ≠ n) → (∀ m ∈ due, m ≠ n ∧ (s.groupOf m = 0 ∨ s.groupOf m ≠ s.groupOf n)) →
        t.loop n = s.loop n)) ∧
    (∀ (n : Fin 256) (w : BitVec 4) (v : Word),
      (s.mode ≠ 0 → exec (.lpeLdeclWrite n w v) s = .next s) ∧
      (s.mode = 0 → 5 ≤ w.toNat → w.toNat ≤ 10 → Completes (.lpeLdeclWrite n w v) s (fun t =>
        t.ldecl n w.toNat = v.toNat ∧ OnlyRegs [R.LPE_LDECL_WORD n w.toNat] s t)) ∧
      (s.mode = 0 → w = 3 → Completes (.lpeLdeclWrite n w v) s (fun t =>
        (∀ i < 32, bitOf (t.ldecl n 3) i = bitOf (if (8 ≤ i ∧ i ≤ 11) ∨ 24 ≤ i then v.toNat else s.ldecl n 3) i) ∧
        OnlyRegs [R.LPE_LDECL_WORD n 3] s t)) ∧
      (s.mode = 0 → w.toNat < 5 ∨ 10 < w.toNat → w ≠ 3 → exec (.lpeLdeclWrite n w v) s = .next s)) ∧
    Completes (.lpeCdataAccess none) s (fun t => t = { s with busData := s.readCdata }) ∧
    (80 ≤ s.rd R.LPE_CADDR_INDEX → s.readCdata = 0) ∧
    (∀ v : Word,
      (s.mode ≠ 0 ∨ 80 ≤ s.rd R.LPE_CADDR_INDEX → exec (.lpeCdataAccess (some v)) s = .next s) ∧
      (s.mode = 0 → s.rd R.LPE_CADDR_INDEX < 80 → Completes (.lpeCdataAccess (some v)) s (fun t =>
        t.readCdata = v.toNat ∧ t.regs = s.regs ∧ t.lpe.loops = s.lpe.loops ∧ t.mem = s.mem))) ∧
    (∀ (w : LoopWrite),
      let l := s.loop w.loop
      let ignored := fun (t : State) => (∀ m, t.loop m = s.loop m) ∧ t.rd R.LPE_LASTFAULT_FAULT = 0x0602 ∧ t.lineUp 42 = true
      let put := fun (u : LoopState) (t : State) => t.loop w.loop = u ∧ (∀ m, m ≠ w.loop → t.loop m = s.loop m) ∧ t.regs = s.regs
      (w.sel = 0x04 → w.value % 2 = 0 → s.takeWrite w = s) ∧
      (w.sel = 0x04 → w.value % 2 = 1 → s.groupOf w.loop ≠ 0 → l.own = true → s.takeWrite w = s) ∧
      (w.sel = 0x04 → w.value % 2 = 1 → (s.groupOf w.loop = 0 ∨ (l.own = false ∧ l.en = false)) → ignored (s.takeWrite w)) ∧
      (w.sel = 0x04 → w.value % 2 = 1 → s.groupOf w.loop ≠ 0 → l.own = false → l.en = true →
        put { l with ownReq := true } (s.takeWrite w)) ∧
      (w.sel = 0x05 → put { l with swap := some (decide (w.value % 2 ^ 32 ≠ 0)) } (s.takeWrite w)) ∧
      (w.sel = 0x00 → w.value % 2 = 0 → l.slew.isSome = true → (s.takeWrite w).lineUp 41 = true) ∧
      (w.sel = 0x00 → w.value % 2 = 0 → (s.takeWrite w).loop w.loop = { l with en := false, enPend := false, slew := none })) ∧
    (∀ (n : Nat) (l : LoopState),
      let held := if l.own then s.heldValue n else none
      let t := s.disabledSample n l
      (∀ m, m ≠ n → t.loop m = s.loop m) ∧
      t.loop n = { l with
        out := held.getD (if s.dstKind n < 2 then s.dstSafe n else l.out), held := held.isSome, ownReq := false, slew := none } ∧
      (l.ownReq = true → t.rd R.LPE_LASTFAULT_FAULT = 0x0602 ∧ t.lineUp 42 = true) ∧ (l.slew.isSome = true → t.lineUp 41 = true)) ∧
    ∀ (n : Nat) (l : LoopState) (old : Option Nat),
      (old = none → l.own = true ∨ l.ownReq = false ∨
        ∀ k ∈ s.claimed, k ≠ n → s.groupOf n ≠ 0 → s.groupOf k = s.groupOf n → (s.loop k).own = false) →
      (∀ m, old = some m → l.own = false ∧ l.ownReq = true ∧ m ≠ n ∧ m ∈ s.claimed ∧ s.groupOf n ≠ 0 ∧ s.groupOf m = s.groupOf n ∧
        (s.loop m).own = true ∧ ∀ k ∈ s.claimed, k ≠ n → s.groupOf k = s.groupOf n → (s.loop k).own = true → k = m) →
      let ts := tsOf (s.ldecl n 2 % 65536)
      let spw := if l.enPend || (l.sptPend && l.ramp) then l.pv else if l.sptPend then l.spt
        else if l.spw = l.spt then l.spw else stepToward l.spw l.spt l.rate ts
      let x := if l.dir then f32.sub l.pv spw else f32.sub spw l.pv
      let actb := if l.swap = none then l.actb else !l.actb
      let co := s.coef n actb
      let s1 := if l.swap = some true then rescale co (s.nsec n) l.out l.xl l.yl else l.s1
      let s2 := if l.swap = some true then [] else l.s2
      let c := cascade co s1 s2 (List.range (s.nsec n)) x
      let t := s.enabledSample n l
      let own := l.own || old.isSome
      let held := if own then s.heldValue n else none
      let g := if l.man then l.lim l.mv else l.lim c.raw
      let slew : Option (Nat × Nat) := if own = true ∧ held = none then
          (match old, l.slew with
           | some m, _ => some ((s.loop m).out, g)
           | none, some goal => some (l.out, goal)
           | none, none => none)
        else none
      let d := (slew.map fun p => stepToward p.1 p.2 l.hslew ts).getD 0
      let goal := (slew.map (·.2)).getD 0
      let slews := slew.isSome && d != goal
      let keeps := l.enPend && own
      let out := match held, slew with
        | some v, _ => v
        | none, some _ => d
        | none, none => if keeps then l.out else g
      let track := held.isSome || slew.isSome || keeps || l.man
      let hi := !track && flt l.omax c.raw
      let lo := !track && flt c.raw l.omin
      let ok := fin l.pv && fin spw && fin x && c.ok && fin c.raw && (!l.man || fin l.mv) && fin out && (!slews || fin goal)
      let ended := (held.isSome && (l.slew.isSome || (old.any fun m => (s.loop m).slew.isSome))) || (slew.isSome && d == goal)
      (∀ m, m ≠ n → old ≠ some m → t.loop m = s.loop m) ∧
      (ok = true →
        t.loop n = { l with
          spw := spw, err := x, raw := c.raw, out := out, track := track, clhi := hi, cllo := lo, actb := actb, held := held.isSome
          own := own, slew := if slews then some goal else none, xl := c.xs, yl := c.ys, s1 := (t.loop n).s1, s2 := (t.loop n).s2
          cltime := if hi || lo then min (2 ^ 32 - 1) (l.cltime + 1) else l.cltime
          clrun := if hi || lo then min (2 ^ 32 - 1) (l.clrun + 1) else 0
          nsamp := (l.nsamp + 1) % 2 ^ 32, enPend := false, sptPend := false, swap := none, ownReq := false } ∧
        ((track || hi || lo) = false → (t.loop n).s1 = c.n1 ∧ (t.loop n).s2 = c.n2) ∧
        (track = true → (t.loop n).s1 = rescale co (s.nsec n) out c.xs c.ys ∧ (t.loop n).s2 = []) ∧
        (∀ k, (hi || lo) = true → k < s.nsec n →
          (t.loop n).s1.getD k 0 = (if k = l.frz then s1.getD k 0 else c.n1.getD k 0) ∧
          (t.loop n).s2.getD k 0 = if k = l.frz then s2.getD k 0 else c.n2.getD k 0) ∧
        (∀ m, old = some m → t.loop m = { s.loop m with own := false, slew := none }) ∧
        (ended = true → t.lineUp 41 = true ∧ OnlyRegs (lineFlds 41) s t) ∧ (ended = false → t.regs = s.regs)) ∧
      (ok = false → (∀ m, m ≠ n → t.loop m = s.loop m) ∧
        t.loop n = { l with nanSeen := true } ∧ t.rd R.LPE_NANLAST_COUNT = min 255 (s.rd R.LPE_NANLAST_COUNT + 1) ∧
        (s.rd R.LPE_STAT_NAN = 0 → t.rd R.LPE_STAT_NAN = 1 ∧ t.rd R.LPE_NANLAST_LOOP = n % 2 ^ R.LPE_NANLAST_LOOP.width ∧
          t.rd R.LPE_LASTFAULT_FAULT = 0x0601 ∧ t.lineUp 40 = true))

/-- Memory integrity (R273 to R278, R280, R281, R283 to R285): a bucket leaks and is cleared; a scrubber leaves alone what is not
initialised, lies above the front or was retired in the spare pool, and reads a codeword that is clean, has one bit in error, or
two; the front moves and an access that waited completes; a retirement is refused for its reason or begins, and ends; the
initialisers end. That a retirement in a gap is refused with reason 4 is Table 20.4 (R465), and that reason 4 goes before 1, 2 and 3
where several apply is the model's choice (log entry 69). -/
def Obligations.MemoryIntegrity : Prop :=
  ∀ s : State,
    (∀ a, s.domOn 5 = false ∨ (isDram a = false ∧ isSram a = false) ∨ (isSram a = true ∧ isDram a = false ∧ s.memx.init = 1) ∨
      (isDram a = true ∧ (s.rd R.MEM_STAT_INITDONE = 0 ∨ s.rd R.MEM_FRONT_ADDR ≤ a)) ∨
      (regionOf a = .spare ∧ s.rd (R.MEM_REMAP_BAD ((a - 0x2FFE00000) / 4096)) = 1) → s.scrubs a = false) ∧
    (∀ b : Fin 4,
      Completes (.bucketLeak b) s (fun t => t.rd (R.MEM_BKT_LEVEL b) = s.rd (R.MEM_BKT_LEVEL b) - 1 ∧
        OnlyRegs [R.MEM_BKT_LEVEL b] s t) ∧
      Completes (.bucketClear b) s (fun t => t.rd (R.MEM_BKT_LEVEL b) = 0 ∧ OnlyRegs [R.MEM_BKT_LEVEL b] s t)) ∧
    (∀ (addr : Addr) (pass : Bool),
      let a := addr.toNat
      let cw := cwBase (s.logical a)
      (∀ fl st, s.scrubs a = false → exec (.scrubRead addr fl st pass) s = .next s) ∧
      (s.scrubs a = true → s.memx.ecc = [] →
        Completes (.scrubRead addr [] [] pass) s (fun t => t.mem = s.mem ∧ t.memx = s.memx ∧
          t.rd R.MEM_SCRUBSTAT_DPASS = (s.rd R.MEM_SCRUBSTAT_DPASS + b2n (pass && isDram a)) % 65536 ∧
          t.rd R.MEM_SCRUBSTAT_SPASS = (s.rd R.MEM_SCRUBSTAT_SPASS + b2n (pass && !isDram a)) % 65536 ∧
          OnlyRegs [R.MEM_SCRUBSTAT_DPASS, R.MEM_SCRUBSTAT_SPASS] s t) ∧
        ∀ b c : BitVec 7, b.toNat < cwBits cw → c.toNat < cwBits cw → b ≠ c →
          Completes (.scrubRead addr [b] [] false) s (fun t =>
            let k := bucketOf cw
            t.mem = s.mem ∧ t.memx.ecc = [] ∧
            t.rd (R.MEM_BKT_CECNT_CECNT k) = min (2 ^ 32 - 1) (s.rd (R.MEM_BKT_CECNT_CECNT k) + 1) ∧
            t.rd R.MEM_UECNT_COUNT = s.rd R.MEM_UECNT_COUNT) ∧
          Completes (.scrubRead addr [b, c] [] false) s (fun t =>
            t.rd R.MEM_UECNT_COUNT = min (2 ^ 32 - 1) (s.rd R.MEM_UECNT_COUNT + 1) ∧ t.rd R.MEM_UELAST_ADDR = cw ∧
            t.rd R.MEM_LASTFAULT_FAULT = 0x0901 ∧ t.lineUp 76 = true ∧ (t.cwErr cw).poison = true ∧
            ∀ k, k < cw ∨ cw + cwSize cw ≤ k → sget 0 t.mem k = sget 0 s.mem k))) ∧
    (∀ front : Addr,
      let f := front.toNat / 64 * 64
      let moves := s.rd R.MEM_STAT_ZEROING = 1 ∧ s.rd R.MEM_FRONT_ADDR ≤ f ∧ f ≤ 0x300000000
      (¬moves → exec (.frontWaitRelease front) s = .next s) ∧
      (moves → (∀ w ∈ s.memx.waiting, f < w.addr + w.size) → Completes (.frontWaitRelease front) s (fun t =>
        t.rd R.MEM_FRONT_ADDR = f ∧ OnlyRegs [R.MEM_FRONT_ADDR] s t ∧ t.memx = s.memx)) ∧
      (∀ m n a v, moves → s.memx.waiting = [⟨m, n, a, some v⟩] → s.memx.ecc = [] → a + n ≤ f → regionOf a = .dramProg →
        Completes (.frontWaitRelease front) s (fun t => t.memx.waiting = [] ∧ readLE t.mem a n = v % 2 ^ (8 * n) ∧
          ∀ k, k < a ∨ a + n ≤ k → sget 0 t.mem k = sget 0 s.mem k))) ∧
    (∀ v : DWord,
      let a := (v.extractLsb' 0 40).toNat
      let idle := s.domOn 5 = false ∨ v.getLsbD 41 = false
      let go := s.domOn 5 = true ∧ v.getLsbD 41 = true
      let turned := fun reason t => t.rd R.MEM_SPOILSTAT_REASON = reason ∧ t.rd R.MEM_LASTFAULT_FAULT = 0x0903 ∧
        t.lineUp 77 = true ∧ OnlyRegs (R.MEM_SPOILSTAT_REASON :: R.MEM_LASTFAULT_FAULT :: lineFlds 77) s t ∧ t.memx = s.memx
      let free := go ∧ s.memx.retiring = none ∧ s.inGap = false
      let spare := fun n => s.rd (R.MEM_REMAP_VALID n) = 0 ∧ s.rd (R.MEM_REMAP_BAD n) = 0
      (idle → exec (.spoilDramPage v) s = .next s ∧ exec (.spoilSramBank v) s = .next s) ∧
      (go → s.memx.retiring ≠ none ∨ s.inGap = true →
        Completes (.spoilDramPage v) s (turned 4) ∧ Completes (.spoilSramBank v) s (turned 4)) ∧
      (free → isDram a = false ∨ regionOf a = .spare → Completes (.spoilDramPage v) s (turned 2)) ∧
      (free → isDram a = true → regionOf a ≠ .spare → (∀ n < 512, ¬spare n) → Completes (.spoilDramPage v) s (turned 3)) ∧
      (∀ n < 512, free → isDram a = true → regionOf a ≠ .spare → spare n → (∀ m < n, ¬spare m) →
        Completes (.spoilDramPage v) s (fun t => t.rd R.MEM_STAT_RETBUSY = 1 ∧ OnlyRegs [R.MEM_STAT_RETBUSY] s t ∧
          t.memx = { s.memx with retiring := some (false, (a - 0x100000000) / 4096, n) })) ∧
      (free → s.mode = 1 → Completes (.spoilSramBank v) s (turned 1)) ∧
      (free → s.mode ≠ 1 → 544 < a → Completes (.spoilSramBank v) s (turned 2)) ∧
      (free → s.mode ≠ 1 → a ≤ 544 → (∀ n < 4, s.rd (R.MEM_BANKMAP_VALID n) = 1) → Completes (.spoilSramBank v) s (turned 3)) ∧
      (∀ n < 4, free → s.mode ≠ 1 → a ≤ 544 → s.rd (R.MEM_BANKMAP_VALID n) = 0 → (∀ m < n, s.rd (R.MEM_BANKMAP_VALID m) = 1) →
        Completes (.spoilSramBank v) s (fun t => t.rd R.MEM_STAT_RETBUSY = 1 ∧ OnlyRegs [R.MEM_STAT_RETBUSY] s t ∧
          t.memx = { s.memx with retiring := some (true, a, n) }))) ∧
    (s.memx.retiring = none → exec .retirementDone s = .next s) ∧
    (∀ sram unit n, s.memx.retiring = some (sram, unit, n) → s.memx.ecc = [] → n < (if sram then 4 else 512) →
      Completes .retirementDone s (fun t =>
        t.memx.retiring = none ∧ t.rd R.MEM_STAT_RETBUSY = 0 ∧ t.rd R.MEM_SPOILSTAT_REASON = 0 ∧ t.lineUp 77 = true ∧ t.mem = s.mem ∧
        (sram = true → t.rd (R.MEM_BANKMAP_BANK n) = unit % 1024 ∧ t.rd (R.MEM_BANKMAP_VALID n) = 1) ∧
        (sram = false → t.rd (R.MEM_REMAP_PAGE n) = unit % 2 ^ 21 ∧ t.rd (R.MEM_REMAP_VALID n) = 1 ∧
          ∀ k < 512, k ≠ n → s.rd (R.MEM_REMAP_VALID k) = 1 → s.rd (R.MEM_REMAP_PAGE k) = unit →
            t.rd (R.MEM_REMAP_VALID k) = 0 ∧ t.rd (R.MEM_REMAP_BAD k) = 1))) ∧
    (s.memx.init ≠ 1 → exec .sramInitDone s = .next s) ∧ (s.memx.init ≠ 2 → exec .dramInitDone s = .next s) ∧
    (s.memx.init = 1 → Completes .sramInitDone s (fun t =>
      t.memx.init = 2 ∧ (∀ a, isSram a = true ∨ isDram a = true → sget 0 t.mem a = 0) ∧ t.rd R.MEM_STAT_DIRTY = 0 ∧
      t.rd R.MEM_STAT_ZEROING = 1 ∧ t.rd R.MEM_FRONT_ADDR = 0x100000000 ∧
      OnlyFields [R.MEM_STAT_DIRTY, R.MEM_STAT_ZEROING, R.MEM_FRONT_ADDR] s t)) ∧
    (s.memx.init = 2 → s.memx.waiting = [] → Completes .dramInitDone s (fun t =>
      t.memx.init = 0 ∧ t.rd R.MEM_STAT_INITDONE = 1 ∧ t.rd R.MEM_STAT_ZEROING = 0 ∧ t.rd R.MEM_FRONT_ADDR = 0x300000000 ∧
      t.lineUp 78 = true ∧
      OnlyRegs (R.MEM_STAT_INITDONE :: R.MEM_STAT_ZEROING :: R.MEM_FRONT_ADDR :: lineFlds 78) s t))

/-- The flash store (R290 to R294, Table 11.9): a command is refused for its reason with its STATUS, waits behind a save, a seal, the
front or a power-fail warning, copies the blocks between flash and memory, or trims; its end sets NVS_RESULT with line 124;
readiness serves what waited, in its order (log entry 33); health. That a command moves its data at its own row, while BUSY = 1, is the
model's choice (log entry 51). -/
def Obligations.FlashStore : Prop :=
  ∀ s : State,
    let lba := s.rd R.NVS_LBA_LBA
    let count := s.rd R.NVS_COUNT_COUNT
    let a := s.rd R.NVS_ADDR_ADDR
    let src := lba * 4096
    let n := 4096 * count
    let ready := s.domOn 6 = true ∧ s.rd R.NVS_STAT_BUSY = 0 ∧ s.rd R.NVS_STAT_READY = 1
    let first := s.rd R.NVS_STAT_SAVE = 0 ∧ s.rd R.NVS_STAT_SEAL = 0 ∧ s.tallyWaits = false
    let ended := fun op status t => t.rd R.NVS_RESULT_STATUS = status ∧ t.rd R.NVS_RESULT_OP = op ∧ t.rd R.NVS_STAT_BUSY = 0 ∧
      t.lineUp 124 = true ∧ t.mem = s.mem ∧ t.flash = s.flash
    (∀ bad : List (BitVec 21), ∀ c ∈ [(Instr.nvsRead bad, 1, bad.map (·.toNat)), (.nvsWrite bad, 2, bad.map (·.toNat)), (.nvsTrim, 3, [])],
      (s.domOn 6 = false → exec c.1 s = .next s) ∧
      (s.domOn 6 = true → s.rd R.NVS_STAT_BUSY = 1 → Completes c.1 s (fun t =>
        t.rd R.NVS_RESULT_STATUS = 5 ∧ t.rd R.NVS_RESULT_OP = c.2.1 ∧ t.lineUp 124 = true ∧ t.nvs = s.nvs ∧
        OnlyRegs (R.NVS_RESULT_STATUS :: R.NVS_RESULT_OP :: lineFlds 124) s t)) ∧
      (s.domOn 6 = true → s.rd R.NVS_STAT_BUSY = 0 → s.rd R.NVS_STAT_READY = 0 → Completes c.1 s (ended c.2.1 4)) ∧
      (ready → blocksOk lba count = false → Completes c.1 s (fun t => ended c.2.1 1 t ∧ t.rd R.NVS_LASTFAULT_FAULT = 0x1105)) ∧
      (ready → blocksOk lba count = true → c.2.1 ≠ 3 → a % 64 ≠ 0 ∨ supBuffer a n = false →
        Completes c.1 s (fun t => ended c.2.1 6 t ∧ t.rd R.NVS_LASTFAULT_FAULT = 0x1104)) ∧
      (ready → blocksOk lba count = true → c.2.1 = 3 ∨ (a % 64 = 0 ∧ supBuffer a n = true) →
        s.rd R.NVS_STAT_SAVE = 1 ∨ s.rd R.NVS_STAT_SEAL = 1 ∨ s.tallyWaits = true ∨ (c.2.1 ≠ 3 ∧ s.rd R.MEM_FRONT_ADDR < a + n) ∨
          (c.2.1 ≠ 1 ∧ s.rd R.NVS_STAT_PFWORDER = 1) →
        Completes c.1 s (fun t => t.rd R.NVS_STAT_BUSY = 1 ∧ OnlyRegs [R.NVS_STAT_BUSY] s t ∧
          t.nvs = { s.nvs with cmd := some ⟨c.2.1, lba, count, a, c.2.2, none⟩ }))) ∧
    (ready → first → blocksOk lba count = true → s.canonical = true →
      (a % 64 = 0 → supBuffer a n = true → a + n ≤ s.rd R.MEM_FRONT_ADDR →
        (s.nvs.unreadable = [] → Completes (.nvsRead []) s (fun t =>
          (∀ i < n, sget 0 t.mem (a + i) = sget 0 s.flashView (src + i)) ∧ (∀ k, k < a ∨ a + n ≤ k → sget 0 t.mem k = sget 0 s.mem k) ∧
          t.flash = s.flash ∧ t.rd R.NVS_STAT_BUSY = 1 ∧ t.nvs = { s.nvs with cmd := some ⟨1, lba, count, a, [], some 0⟩ } ∧
          OnlyFields [R.NVS_STAT_BUSY] s t)) ∧
        (s.memx.ecc = [] → s.rd R.NVS_STAT_PFWORDER = 0 → Completes (.nvsWrite []) s (fun t =>
          (∀ i < n, sget 0 t.flash (src + i) = sget 0 s.mem (a + i)) ∧
          (∀ k, k < src ∨ src + n ≤ k → sget 0 t.flash k = sget 0 s.flash k) ∧ t.mem = s.mem ∧ t.rd R.NVS_STAT_BUSY = 1 ∧
          (∀ l ∈ t.nvs.unreadable, l ∈ s.nvs.unreadable ∧ (l < lba ∨ lba + count ≤ l)) ∧
          t.nvs.cmd = some ⟨2, lba, count, a, [], some 0⟩ ∧ OnlyFields [R.NVS_STAT_BUSY] s t)) ∧
        (s.nvs.unreadable = [] → ∀ b : BitVec 21, lba ≤ b.toNat → b.toNat < lba + count →
          Completes (.nvsRead [b]) s (fun t => t.rd R.NVS_BADLBA_LBA = b.toNat ∧ t.rd R.NVS_LASTFAULT_FAULT = 0x1102 ∧
            t.lineUp 126 = true ∧ t.nvs.cmd = some ⟨1, lba, count, a, [b.toNat], some 2⟩ ∧
            ∀ i < 4096, sget 0 t.mem (a + 4096 * (b.toNat - lba) + i) = 0))) ∧
      (s.rd R.NVS_STAT_PFWORDER = 0 → Completes .nvsTrim s (fun t =>
        (∀ i < n, sget 0 t.flash (src + i) = 0) ∧ (∀ k, k < src ∨ src + n ≤ k → sget 0 t.flash k = sget 0 s.flash k) ∧
        t.mem = s.mem ∧ t.rd R.NVS_STAT_BUSY = 1 ∧ t.nvs.cmd = some ⟨3, lba, count, a, [], some 0⟩ ∧
        OnlyFields [R.NVS_STAT_BUSY] s t))) ∧
    (s.nvs.cmd = none → exec .nvsCommandEnd s = .next s) ∧
    (∀ c, s.nvs.cmd = some c → c.status = none → s.nvsWaits c = true → exec .nvsCommandEnd s = .next s) ∧
    (∀ c status, s.nvs.cmd = some c → c.status = some status → Completes .nvsCommandEnd s (fun t =>
      ended (c.op % 16) (status % 8) t ∧ t.nvs = { s.nvs with cmd := none } ∧
      OnlyRegs (R.NVS_RESULT_STATUS :: R.NVS_RESULT_OP :: R.NVS_STAT_BUSY :: lineFlds 124) s t)) ∧
    (s.domOn 6 = false ∨ s.rd R.NVS_STAT_READY = 1 → exec .nvsReady s = .next s ∧ exec .nvsReadyTimeout s = .next s) ∧
    (s.domOn 6 = true → s.rd R.NVS_STAT_READY = 0 →
      (s.settled → s.tsk.save = none → s.nvs.worn = [] → Completes .nvsReady s (fun t =>
        t.rd R.NVS_STAT_READY = 1 ∧ bitOf (t.rd R.PWR_DOMSTAT_READY) 6 = true ∧ t.lineUp 11 = true ∧
        OnlyFields (R.NVS_STAT_READY :: R.PWR_DOMSTAT_READY :: lineFlds 11) s t ∧ t.mem = s.mem ∧
        (s.nvs.due = [] → t.flash = s.flash) ∧
        ∀ a bs n, first → s.rd R.NVS_STAT_PFWORDER = 0 →
          (s.nvs.due = [.put a bs] → t.nvs.due = [] ∧ t.flash = writeBytes s.flash a bs) ∧
          (s.nvs.due = [.put a bs, .trim a n] → t.nvs.due = [] ∧ t.flash = sclear (writeBytes s.flash a bs) a (a + n)))) ∧
      Completes .nvsReadyTimeout s (fun t => t.lineUp 127 = true ∧ t.nvs.notReady = true ∧ t.rd R.NVS_STAT_READY = 0)) ∧
    ∀ spare wear : Byte,
      (s.domOn 6 = false → exec (.nvsHealthLow spare wear) s = .next s) ∧
      (s.domOn 6 = true → Completes (.nvsHealthLow spare wear) s (fun t =>
        let low := decide (spare.toNat < 10)
        t.rd R.NVS_HEALTH_SPARE = spare.toNat ∧ t.rd R.NVS_HEALTH_WEAR = wear.toNat ∧ t.rd R.NVS_STAT_HEALTHLOW = b2n low ∧
        (s.rd R.NVS_STAT_HEALTHLOW ≠ b2n low → t.lineUp 127 = true ∧ (low = true → t.rd R.NVS_LASTFAULT_FAULT = 0x1103)) ∧
        t.mem = s.mem ∧ t.flash = s.flash))

/-- The riser switch (R297 to R300, R308, R309, R313): a frame is learned from and leaves by the port of its address, by every other
port where the address is unknown or a group's; a bad one leaves nowhere, but for cut-through, which ends it with a wrong FCS; an
address ages out; a link; pause frames taken and sent. The source of a pause frame is a free value (log entry 1). -/
def Obligations.SwitchEvents : Prop :=
  ∀ s : State,
    let clear := fun p => s.portUp p = true ∧ s.rd (State.holdFld p) = 0 ∧ ∀ e ∈ s.net.held, e.port ≠ p
    let learned := fun a p t => (t.net.table.find? fun e => e.addr == a) = some ⟨a, p, s.clk⟩ ∨
      t.rd R.NET_STAT_TBLFULL = 1 ∧ t.net.table = s.net.table
    (∀ (port : Fin 2) (f : List Byte) (al sy : Bool) (age : Word) (res : BitVec 48) (full : BitVec 2),
      let p := port.val
      let cmd := Instr.switchForward port f al sy age res full
      let src := srcAddr f
      let dst := dstAddr f
      let found := fun a => s.net.table.find? fun e => e.addr == a
      (s.portUp p = false → exec cmd s = .next s.netBegin) ∧
      (s.portUp p = true → fcsGood f = true → Completes cmd s (fun t =>
        t.mem = s.mem ∧ learned src p t)) ∧
      (s.portUp p = true → frameGood f al sy = false → s.rd R.NET_SWCFG_CUT = 0 → Completes cmd s (fun t =>
        t.net.sent = [] ∧ t.net.fifo = s.net.fifo ∧ t.mem = s.mem ∧ (fcsGood f = false → t.net.table = s.net.table))) ∧
      (s.portUp p = true → frameGood f al sy = false → s.rd R.NET_SWCFG_CUT = 1 → dst ≠ src → 64 ≤ f.length → f.length ≤ 65536 →
        ∀ q < 2, q ≠ p → clear q → bitOf full.toNat q = false → ptpEvent f = none → s.portSpeed p = s.portSpeed q →
          (groupAddr dst = true ∨ found dst = none ∨ ∃ e, found dst = some e ∧ e.port = q) →
            Completes cmd s (fun t => t.net.sent = [⟨q, s.queueOf f, withBadFcs (bodyOf f)⟩] ∧ t.mem = s.mem)) ∧
      (s.portUp p = true → frameGood f al sy = true → isPause f = false → dst ≠ src →
        (∀ e, groupAddr dst = false → found dst = some e → e.port = p → Completes cmd s (fun t =>
          t.net.sent = [] ∧ t.net.fifo = s.net.fifo)) ∧
        (∀ q < 2, q ≠ p → clear q → bitOf full.toNat q = false → ptpEvent f = none →
          (groupAddr dst = true ∨ found dst = none ∨ ∃ e, found dst = some e ∧ e.port = q) →
            Completes cmd s (fun t => t.net.sent = [⟨q, s.queueOf f, f⟩])) ∧
        ((groupAddr dst = true ∨ found dst = none ∨ ∃ e, found dst = some e ∧ e.port = 2) → s.vlanOk f = true →
          (s.net.fifo.map fun g => g.bytes.length).sum + f.length ≤ 32768 → Completes cmd s (fun t =>
            ∃ sec ns, t.net.fifo = s.net.fifo ++ [⟨f, p, al, sy, sec, ns⟩])))) ∧
    (∀ addr : BitVec 48,
      let known := s.domOn 7 && s.net.table.any fun e =>
        e.addr == addr.toNat && decide (e.seen + max 1 (s.rd R.NET_SWAGE_SEC) * 400000000 ≤ s.clk)
      (known = false → exec (.addressAgeOut addr) s = .next s) ∧
      (known = true → Completes (.addressAgeOut addr) s (fun t =>
        t.net.table = s.net.table.filter (fun e => e.addr != addr.toNat) ∧ t.rd R.NET_STAT_TBLFULL = 0 ∧
        OnlyRegs [R.NET_STAT_TBLFULL] s t))) ∧
    (∀ (port : Fin 2) (up : Bool) (speed : Fin 3) (q : BitVec 16),
      let p := port.val
      let link := s.rd (State.linkFld p)
      let held := s.rd (State.holdFld p)
      (s.domOn 7 = false → exec (.linkChange port up speed) s = .next s.netBegin) ∧
      (s.domOn 7 = true → link = 0 → s.rd (R.NET_PORTCFG_EN p) = 1 → bitOf (s.rd (R.NET_PORTCFG_ADV p)) speed = true →
        Completes (.linkChange port true speed) s (fun t => t.rd (State.linkFld p) = 1 ∧ t.portSpeed p = speed.val ∧
          t.lineUp (89 + p) = true ∧ t.mem = s.mem)) ∧
      (s.domOn 7 = true → link = 1 → Completes (.linkChange port false speed) s (fun t => t.rd (State.linkFld p) = 0 ∧
        t.rd (State.holdFld p) = 0 ∧ t.rd R.NET_LASTFAULT_FAULT = 0x0A06 ∧ t.lineUp (89 + p) = true ∧
        t.net.held = s.net.held.filter (fun e => e.port != p) ∧ t.net.sent = [] ∧ t.mem = s.mem)) ∧
      (s.portUp p = false → exec (.pauseFrameReceived port q) s = .next s.netBegin) ∧
      (s.portUp p = true → Completes (.pauseFrameReceived port q) s (fun t =>
        t.rd (R.NET_CNT_COUNT p 5) = (s.rd (R.NET_CNT_COUNT p 5) + 1) % 2 ^ 32 ∧ t.mem = s.mem ∧ (∃ src, learned src p t) ∧
        (s.rd (R.NET_PORTCFG_RXPAUSE p) = 0 → t.rd (State.holdFld p) = held) ∧
        (s.rd (R.NET_PORTCFG_RXPAUSE p) = 1 → t.rd (State.holdFld p) = if q = 0 then 0 else 1))) ∧
      (held = 0 → exec (.pauseHoldoffEnd port) s = .next s.netBegin) ∧
      (held = 1 → Completes (.pauseHoldoffEnd port) s (fun t =>
        t.rd (State.holdFld p) = 0 ∧ t.net.held = s.net.held.filter (fun e => e.port != p) ∧ t.mem = s.mem ∧
        t.net.sent = [4, 3, 2, 1, 0].flatMap fun q => (s.net.held.filter fun e => e.port == p).filter fun e => e.queue == q))) ∧
    (let can := fun p => s.on (R.NET_PORTCFG_TXPAUSE p) && s.portUp p
     let quanta := s.rd R.NET_PAUSECFG_QUANTA
     let level := (s.net.fifo.map fun g => g.bytes.length).sum
     let past := fun kib : Nat => 1024 * kib < level
     let out := fun quanta t => t.mem = s.mem ∧ t.net.fifo = s.net.fifo ∧ t.net.held = s.net.held ∧
       t.net.sent = ([0, 1].filter can).map fun p => ⟨p, 4, pauseFrame quanta⟩
     (s.rd R.NET_STAT_XOFF = 1 → exec .pauseXoff s = .next s.netBegin ∧
       (past (s.rd R.NET_PAUSECFG_XON) → exec .pauseXon s = .next s.netBegin ∧
         Completes .pauseRepeat s (fun t => t.rd R.NET_STAT_XOFF = 1 ∧ out quanta t)) ∧
       (¬past (s.rd R.NET_PAUSECFG_XON) → exec .pauseRepeat s = .next s.netBegin ∧
         Completes .pauseXon s (fun t => t.rd R.NET_STAT_XOFF = 0 ∧ out 0 t))) ∧
     (s.rd R.NET_STAT_XOFF = 0 → exec .pauseRepeat s = .next s.netBegin ∧ exec .pauseXon s = .next s.netBegin ∧
       (¬past (s.rd R.NET_PAUSECFG_XOFF) ∨ (can 0 || can 1) = false → exec .pauseXoff s = .next s.netBegin) ∧
       (past (s.rd R.NET_PAUSECFG_XOFF) → (can 0 || can 1) = true →
         Completes .pauseXoff s (fun t => t.rd R.NET_STAT_XOFF = 1 ∧ out quanta t))))

/-- The MAC (R303 to R307, R310, R312, Table 12.1): a ring is enabled; a kicked ring's frame of one descriptor is taken and its
end written back, with its stamp where it asks for one, or it underruns, which a frame no longer than NET_TXTHR cannot; a received
frame reaches its buffer, or is dropped for want of one; the stamp queue. That a frame that asks for a stamp waits for a held port, that
the FCS counts in a delivered length, and the least length of 60 bytes that a port takes are the model's choice (log entry 41). -/
def Obligations.MacEvents : Prop :=
  ∀ s : State,
    (∀ r : Fin 6,
      (s.domOn 7 = false → exec (.ringEnable r) s = .next s) ∧
      (s.domOn 7 = true → Completes (.ringEnable r) s (fun t =>
        t.rd (R.NET_RING_CTL_EN r) = 1 ∧ t.rd (R.NET_RING_HEAD_HEAD r) = 0 ∧ t.rd (R.NET_RING_STAT_ERR r) = 0 ∧
        OnlyRegs [R.NET_RING_CTL_EN r, R.NET_RING_HEAD_HEAD r, R.NET_RING_STAT_ERR r] s t))) ∧
    (∀ r : Fin 4,
      let head := s.rd (R.NET_RING_HEAD_HEAD r)
      let a := s.descAddr r head
      let buf := s.peek a 5
      let len := s.peek (a + 8) 2 % 16384
      let ctl := s.peek (a + 10) 2
      let front := s.rd R.MEM_FRONT_ADDR
      s.domOn 7 = true → s.domOn 5 = true → s.memx.ecc = [] → s.net.tx = none →
      (∀ q < 4, q ≠ r.val → s.rd (R.NET_RING_CTL_EN q) = 0) → s.ringLive r = true → s.ringOk r = true →
      a + 32 ≤ front → buf + len ≤ front → inSup buf len = true → ctl / 2 ^ 13 = 7 → len + 4 ≤ maxFrame (s.bytes buf len) →
        Completes (.txKick r) s (fun t =>
          t.net.tx = some ⟨r, head, 1, ctl / 512 % 4, bitOf ctl 12, ctl / 128 % 4, s.bytes buf len, false⟩ ∧ OnlyRegs [] s t)) ∧
    (∀ (how : TxEnd) (age : Word),
      (s.net.tx = none → exec (.txFrameComplete how age) s = .next s.netBegin) ∧
      (∀ f, s.net.tx = some f → f.ring < 4 → f.count = 1 → f.poison = false → s.domOn 7 = true →
        s.domOn 5 = true → s.memx.ecc = [] → s.ringOk f.ring = true → (∀ q < 4, s.rd (R.NET_RING_CTL_EN q) = 0) →
        let underrun := how.underrun && decide (s.rd R.NET_TXTHR_BYTES < f.bytes.length)
        let toA := f.ports = 1 ∧ bitOf how.full.toNat 0 = false ∧ s.portUp 0 = true ∧ s.net.held = [] ∧ 60 ≤ f.bytes.length ∧
          f.bytes.length ≤ 9018
        (f.tsreq = true → underrun = false → f.ports = 1 → s.rd R.NET_STAT_HOLDA = 1 →
          exec (.txFrameComplete how age) s = .next s.netBegin) ∧
        (f.tsreq = true → underrun = false → toA → s.rd R.NET_STAT_HOLDA = 0 → s.net.stamps.length < 32 →
          Completes (.txFrameComplete how age) s (fun t =>
            let st := s.netStamp age.toNat (s.latTx (s.portSpeed 0) : Int)
            t.net.tx = none ∧ t.net.stamps = s.net.stamps ++ [⟨f.ring, f.first % s.descCount f.ring, 0, st.2.1, st.2.2⟩] ∧
            t.net.sent.map (fun e => (e.port, e.bytes)) = [(0, withFcs f.bytes)] ∧ (s.net.stamps = [] → t.lineUp 86 = true))) ∧
        (f.tsreq = false → Completes (.txFrameComplete how age) s (fun t =>
          let a := s.descAddr f.ring f.first
          t.net.tx = none ∧ readLE t.mem (a + 12) 4 = 1 + 2 * b2n underrun ∧
          readLE t.mem (a + 10) 2 = s.peek (a + 10) 2 % 32768 ∧ (∀ k, k < a ∨ a + 32 ≤ k → sget 0 t.mem k = sget 0 s.mem k) ∧
          t.rd (R.NET_RING_HEAD_HEAD f.ring) = (s.rd (R.NET_RING_HEAD_HEAD f.ring) + 1) % s.descCount f.ring % 4096 ∧
          t.lineUp (82 + f.ring) = true ∧
          (underrun = true → t.net.sent = [] ∧ t.lineUp 92 = true ∧
            t.rd R.NET_TXTHR_BYTES = min 9216 (s.rd R.NET_TXTHR_BYTES + 256)) ∧
          (underrun = false → toA → s.rd R.NET_STAT_HOLDA = 0 →
            t.net.sent.map (fun e => (e.port, e.bytes)) = [(0, withFcs f.bytes)]))))) ∧
    (s.net.fifo = [] → exec .macReceive s = .next s.netBegin) ∧
    (∀ f rest, s.net.fifo = f :: rest → s.wakeHits f.bytes = [] →
      let r := if isPtp f.bytes then 5 else 4
      let good := frameGood f.bytes f.align f.symbol
      (s.ringLive r = false ∨ s.domOn 5 = false → good = true → Completes .macReceive s (fun t =>
        t.net.fifo = rest ∧ t.rd (R.NET_CNT_COUNT 2 37) = (s.rd (R.NET_CNT_COUNT 2 37) + 1) % 2 ^ 32 ∧ t.lineUp 91 = true ∧
        t.mem = s.mem)) ∧
      (s.ringLive r = false ∨ s.domOn 5 = false → good = false → s.rd R.NET_RXCFG_KEEPBAD = 0 → Completes .macReceive s (fun t =>
        t.net.fifo = rest ∧ t.mem = s.mem)) ∧
      (let head := s.rd (R.NET_RING_HEAD_HEAD r)
       let a := s.descAddr r head
       let buf := s.peek a 5
       let len := s.peek (a + 8) 2 % 16384
       let n := f.bytes.length
       let front := s.rd R.MEM_FRONT_ADDR
       s.domOn 5 = true → s.memx.ecc = [] → s.ringLive r = true → s.ringOk r = true → a + 32 ≤ front → buf + len ≤ front →
       inSup buf len = true → bitOf (s.peek (a + 10) 2) 15 = true → n ≤ len → good = true → buf + len ≤ a ∨ a + 32 ≤ buf →
         Completes .macReceive s (fun t =>
           t.net.fifo = rest ∧ readBytes t.mem buf n = f.bytes ∧ readLE t.mem (a + 8) 2 = n ∧
           readLE t.mem (a + 10) 2 = (24576 + 512 * f.port) % 65536 ∧ readLE t.mem (a + 26) 2 = n ∧
           t.rd (R.NET_RING_HEAD_HEAD r) = (head + 1) % s.descCount r % 4096 ∧ t.lineUp (76 + r) = true))) ∧
    (s.domOn 7 = false → exec .timestampPop s = .next s) ∧
    (s.domOn 7 = true → Completes .timestampPop s (fun t =>
      let q := s.net.stamps.tail
      t.net.stamps = q ∧ t.rd R.NET_TSQ_CNT_LEVEL = q.length % 64 ∧ t.rd R.NET_TSQ_ID_VALID = b2n !q.isEmpty ∧
      t.rd R.NET_TSQ_SEC_SEC = ((q.head?.map TxStamp.sec).getD 0) % 2 ^ 48 ∧
      t.rd R.NET_TSQ_NS_NS = ((q.head?.map TxStamp.ns).getD 0) % 2 ^ 32 ∧ t.mem = s.mem))

/-- Sessions, scopes and refusals on the host channel and the adit port (R294, R316 to R318, R320, R403, R435, R437): who may
connect, the handshake proved by the key that the identity's node gives; a session that times out, or breaks the limit of sixteen
requests, closes; the requests that a closed port, sleep, pit mode and a tenant's scope turn away with every state kept but the
reply, which waits behind an outstanding one. The conditions under which a session opens, the close at the seventeenth outstanding
request, and that of LEN only the length of a chunk is tested are the model's choice (log entry 39). -/
def Obligations.HostSessions : Prop :=
  ∀ s : State,
    (∀ id psk : List Byte,
      let ready := s.domOn 7 && s.domOn 5 && s.domOn 9 && !s.on R.PWR_STAT_SLEEP && s.pskReady
      let keyed := fun t => t.rd R.KEY_RESULT_STATUS = 0 ∧ t.rd R.KEY_RESULT_OP = 3 ∧ t.lineUp 112 = true ∧
        OnlyRegs (R.KEY_RESULT_STATUS :: R.KEY_RESULT_OP :: R.KEY_RESULT_BUSY :: lineFlds 112) s t
      (ready = false ∨ s.identityScope id = none ∨ (∀ i < 8, s.scope i ≠ 0) → exec (.hostConnect id psk) s = .next s) ∧
      (∀ sc, ∀ i < 8, ready = true → s.identityScope id = some sc → s.scope i = 0 → (∀ j < i, s.scope j ≠ 0) →
        (s.pskOf sc = some psk → Completes (.hostConnect id psk) s (fun t =>
          t.scope i = sc ∧ (∀ j, j ≠ i → t.scope j = s.scope j) ∧ keyed t)) ∧
        (s.pskOf sc ≠ some psk → Completes (.hostConnect id psk) s (fun t => (∀ j, t.scope j = s.scope j) ∧ keyed t)))) ∧
    s.identityScope (asciiOf "own") = (if s.slotHas 1 4 then some 1 else none) ∧
    s.identityScope (asciiOf "t64") = (if s.slotHas 5 4 && bitOf (s.rd R.KEY_TENEN_EN) 63 then some 65 else none) ∧
    (∀ i : Fin 8, Completes (.hostSessionTimeout i) s (fun t =>
      t.scope i = 0 ∧ (∀ j, j ≠ i.val → t.scope j = s.scope j) ∧ OnlyRegs [] s t)) ∧
    ∀ (port : Fin 9) (id w : Word) (p : BitVec 12) (v : DWord) (b : Byte) (n : BitVec 16) (l : Bool) (bs : List Byte)
      (ps : List (BitVec 12)) (ws : List (BitVec 12 × DWord)) (er : Option (Word × List Byte)) (o : ModeOrder) (r : SettingsRec)
      (own : Option (List Byte)),
      ∀ c ∈ [(Instr.status port id, 0x01), (.timeQuery port id, 0x02), (.pointRead port id ps, 0x10), (.pointWrite port id ws, 0x11),
          (.forceSet port id p v, 0x20), (.forceClear port id p, 0x21), (.flaconFetch port id b, 0x30),
          (.tallyExport port id w n er, 0x40), (.modeChange port id o, 0x50), (.load port id w bs l, 0x60),
          (.stage port id b w bs l, 0x70), (.schedule port id v n, 0x71), (.confirm port id, 0x72), (.abort port id n, 0x73),
          (.lock port id b bs, 0x74), (.settingsGet port id, 0x75), (.settingsPut port id r own, 0x76)],
        let sc := s.scope port
        let ahead := (s.owedTo port.val).length
        let no := fun fault t =>
          let r : HostReply := ⟨port, c.2, id.toNat, fault, []⟩
          t.host.sessions = s.host.sessions ∧ t.host.owed = s.host.owed ++ (if ahead = 0 then [] else [⟨r, true⟩]) ∧
            t.host.reply = if ahead = 0 then some r else s.host.reply
        let full := 16 ≤ ahead
        let awake := sc ≠ 0 ∧ s.rd R.PWR_STAT_SLEEP = 0 ∧ ¬full ∧ 16 + bs.length ≤ 1048576
        let served := awake ∧ s.rd R.PWR_STAT_PIT = 0 ∧ s.nvs.notReady = false
        (sc = 0 ∨ s.rd R.PWR_STAT_SLEEP = 1 → exec c.1 s = .next s) ∧
        (sc ≠ 0 → s.rd R.PWR_STAT_SLEEP = 0 → full ∨ (1048576 < 16 + bs.length ∧ (c.2 = 0x60 ∨ c.2 = 0x70)) →
          exec c.1 s = .next (s.closeSession port)) ∧
        (awake → s.rd R.PWR_STAT_PIT = 1 → c.2 ∉ [0x01, 0x02, 0x40, 0x70, 0x75, 0x76] ∨ (port = 8 ∧ c.2 = 0x70 ∧ b ≠ 1) →
          Completes c.1 s (fun t => no 0x0208 t ∧ t.rd R.PWR_LASTFAULT_FAULT = 0x0208 ∧ OnlyRegs [R.PWR_LASTFAULT_FAULT] s t)) ∧
        (awake → s.rd R.PWR_STAT_PIT = 0 → s.nvs.notReady = true → c.2 ∈ [0x40, 0x60, 0x70, 0x75, 0x76] →
          Completes c.1 s (fun t => no 0x0208 t ∧ OnlyRegs [R.PWR_LASTFAULT_FAULT] s t)) ∧
        (served → (sc ≠ 1 ∧ c.2 ∉ [0x01, 0x02, 0x10, 0x30]) ∨ (port ≠ 8 ∧ c.2 ∈ [0x70, 0x75, 0x76]) →
          Completes c.1 s (fun t => no 0x0A10 t ∧ OnlyRegs [] s t))

/-- What the requests of Table 12.4 do (R78, R97, R104, R105, R167 to R169, R317 to R319, R398): status, time, points read and
written, forces, reports, the tally book, modes, and an image loaded and checked; a reply behind an outstanding one waits for it. That a
load in a gap is refused is R461; the 0x0411 of a chunk at a wrong offset, that an entry to RUN whose restart runs or is over gives way
to a load, and that a RUN request which waits is answered at the end of its wait are the model's choice (log entry 39), and the reply
to an image that its slot cannot take is too (log entry 60). -/
def Obligations.HostRequests : Prop :=
  ∀ (port : Fin 9) (id : Word) (s : State), s.scope port ≠ 0 → s.rd R.PWR_STAT_SLEEP = 0 → s.rd R.PWR_STAT_PIT = 0 →
    s.nvs.notReady = false →
    (s.owedTo port.val ≠ [] → (s.owedTo port.val).length < 16 → Completes (.status port id) s (fun t =>
      t.host.reply = s.host.reply ∧ OnlyRegs [] s t ∧
      t.host.owed = s.host.owed ++ [⟨⟨port, 0x01, id.toNat, 0, s.statusBody (s.scope port == 1)⟩, true⟩])) ∧
    (s.owedTo port.val = [] →
    let owner := s.scope port = 1
    let said := fun type fault body t => t.host.reply = some ⟨port, type, id.toNat, fault, body⟩
    let only := fun type fault body t => said type fault body t ∧ OnlyRegs [] s t
    Completes (.status port id) s (only 0x01 0 (s.statusBody (s.scope port == 1))) ∧
    Completes (.timeQuery port id) s (only 0x02 0
      (toLE 8 s.tstampNow ++ toLE 4 (s.regRaw 0x100E0038) ++ toLE 8 (s.rd R.RTC_TIME_TIME))) ∧
    (∀ ps : List (BitVec 12),
      let mine := fun p : BitVec 12 => readLE s.mem (pointAddr p.toNat + 10) 1 = s.scope port - 1
      s.memx.ecc = [] →
      (owner ∨ (∀ p ∈ ps, mine p) → Completes (.pointRead port id ps) s (only 0x10 0
        ((ps.flatMap fun p => readBytes s.mem (pointAddr p.toNat) 16) ++ toLE 4 (s.rd R.TSK_CYCCNT_COUNT)))) ∧
      (¬owner → (∃ p ∈ ps, ¬mine p) → Completes (.pointRead port id ps) s (only 0x10 0x0A10 []))) ∧
    (∀ b : Byte, (¬owner → s.scope port ≠ 1 + b.toNat → Completes (.flaconFetch port id b) s (only 0x30 0x0A10 [])) ∧
      (owner ∨ s.scope port = 1 + b.toNat →
        (b.toNat = 0 ∨ 64 < b.toNat → Completes (.flaconFetch port id b) s (only 0x30 0 [])) ∧
        (1 ≤ b.toNat → b.toNat ≤ 64 → s.memx.ecc = [] →
          let seq := s.rd (R.KEY_TSEQ_SEQ (b.toNat - 1))
          let a := s.flaconAddr b.toNat seq
          Completes (.flaconFetch port id b) s (only 0x30 0
            (if s.peek (a + 0x3C) 4 = 0x4B4F4C46 ∧ s.peek (a + 8) 8 = seq then s.bytes a (80 + 16 * s.peek (a + 0x1C) 2) else []))))) ∧
    (owner →
      (∀ (p : BitVec 12) (v : DWord), let k := p.toNat
        (s.hostPoint k = false → Completes (.pointWrite port id [(p, v)]) s (only 0x11 0x0A11 [])) ∧
        (s.hostPoint k = true → s.memx.ecc = [] → Completes (.pointWrite port id [(p, v)]) s (fun t =>
          said 0x11 0 [] t ∧ t.ptValue k = v.toNat ∧ bitOf (t.ptQual k) 0 = false ∧
          (∀ a, a < pointAddr k ∨ pointAddr k + 10 ≤ a → sget 0 t.mem a = sget 0 s.mem a) ∧
          (∀ d, s.decl k = some d → d.out = true → (k, v.toNat) ∈ t.tsk.hostCommits) ∧ t.regs = s.regs)) ∧
        (s.forceEntry k = none → (∀ n < 256, s.rd (R.TSK_FORCE_CTL_EN n) = 1) → Completes (.forceSet port id p v) s (fun t =>
          said 0x20 0x0406 [] t ∧ t.lineUp 30 = true ∧ OnlyRegs (lineFlds 30) s t)) ∧
        (∀ n < 256, s.forceEntry k = some n ∨ (s.forceEntry k = none ∧ s.rd (R.TSK_FORCE_CTL_EN n) = 0 ∧
            ∀ m < n, s.rd (R.TSK_FORCE_CTL_EN m) = 1) →
          Completes (.forceSet port id p v) s (fun t =>
            said 0x20 0 [] t ∧ t.rd (R.TSK_FORCE_CTL_EN n) = 1 ∧ t.rd (R.TSK_FORCE_CTL_POINT n) = k ∧
            t.rd (R.TSK_FORCE_VALUE_VALUE n) = v.toNat ∧ t.tly.events.length = s.tly.events.length + 1)) ∧
        Completes (.forceClear port id p) s (fun t =>
          said 0x21 0 [] t ∧ ∀ n < 256, t.rd (R.TSK_FORCE_CTL_EN n) =
            if s.rd (R.TSK_FORCE_CTL_EN n) = 1 ∧ s.rd (R.TSK_FORCE_CTL_POINT n) ≠ k then 1 else 0)) ∧
      (∀ (first : Word) (n : BitVec 16), s.nvs.unreadable = [] → Completes (.tallyExport port id first n none) s
        (only 0x40 0 ((s.exportPlaces (min 4095 n.toNat) first.toNat).flatMap fun p => readBytes s.flash (logAddr p) 256))) ∧
      (∀ a, s.nvs.worn = [] → Completes (.modeChange port id (.start a)) s (fun t => said 0x50 0 [] t ∧ t.upd.settings.start = a ∧
        OnlyRegs [] s t)) ∧
      Completes (.modeChange port id .clearFault) s (fun t => said 0x50 0 [] t ∧ t.rd R.TSK_FAULT_FAULT = 0 ∧
        t.rd R.TSK_STAT_FLT = 0 ∧ t.mode = s.mode ∧ OnlyRegs [R.TSK_FAULT_FAULT, R.TSK_STAT_FLT] s t) ∧
      (s.loadBusy = false → s.inGap = false →
        (s.mode = 0 → Completes (.modeChange port id (.command 1)) s (only 0x50 0x0403 [])) ∧
        (s.mode ≠ 0 → Completes (.modeChange port id (.command 1)) s (fun t =>
          said 0x50 0 [] t ∧ t.tsk.requests = s.tsk.requests ++ [.stop 1] ∧ OnlyRegs [R.TSK_STAT_PEND] s t))) ∧
      (s.runBlocked = none → s.tsk.save.isSome = true → s.host.runAsk = none → Completes (.modeChange port id (.command 2)) s (fun t =>
        t.tsk.entry = .waitSave false ∧ t.host.reply = s.host.reply ∧ t.host.runAsk = some (port.val, id.toNat) ∧
        t.host.owed = s.host.owed ++ [⟨⟨port, 0x50, id.toNat, 0, []⟩, false⟩] ∧ OnlyRegs [] s t)) ∧
      (port ≠ 8 → Completes (.modeChange port id .pit) s (only 0x50 0x0403 [])) ∧
      (∀ (ofs : Word) (chunk : List Byte) (last : Bool),
        let may := s.mode = 0 ∧ s.inGap = false
        let fits := fun bs => (s.loading = .idle ∧ ofs = 0 ∧ bs = []) ∨
          (s.loading = .receiving bs ∧ ofs.toNat = bs.length ∧ s.host.loader.1 = port.val)
        16 + chunk.length ≤ 1048576 →
        ((¬may ∨ ¬∃ bs, fits bs) → Completes (.load port id ofs chunk last) s (fun t =>
          only 0x60 0x0411 [] t ∧ t.loading = s.loading)) ∧
        (∀ bs, may → fits bs → s.host.runAsk = none →
          let gives := fun t : State => (s.entering = false → t.tsk = s.tsk ∧ OnlyRegs [] s t) ∧
            (s.entering = true → t.tsk.entry = .none ∧ t.lastReport = 0x0403 ∧ OnlyRegs [R.TSK_STAT_PEND] s t)
          (last = false → Completes (.load port id ofs chunk last) s (fun t =>
            said 0x60 0 [] t ∧ gives t ∧ t.loading = .receiving (bs ++ chunk))) ∧
          (last = true → Completes (.load port id ofs chunk last) s (fun t =>
            t.loading = .checking (bs ++ chunk) ∧ t.host.loader = (port.val, id.toNat) ∧ t.host.reply = s.host.reply ∧
            t.host.owed = s.host.owed ++ [⟨⟨port, 0x60, id.toNat, 0, []⟩, false⟩] ∧ gives t)))))) ∧
    (∀ bs, s.loading = .checking bs →
      (∀ e, loadChecks s bs = .inl e → Completes .loadChecksDone s (fun t =>
        t.loading = .idle ∧ t.img = s.img ∧ OnlyRegs [] s t ∧ t.lastReport = e.fault ∧
        (e.report ≠ [] → t.tly.events = s.tly.events ++ [⟨0x002, e.report, s.tstampNow⟩]) ∧
        ∀ rs : List HostReply, (∀ r ∈ rs, r.sess = s.host.loader.1) →
          s.host.owed = ⟨⟨s.host.loader.1, 0x60, s.host.loader.2, 0, []⟩, false⟩ :: rs.map (⟨·, true⟩) →
          t.host.owed = [] ∧
          t.host.sent = ⟨s.host.loader.1, 0x60, s.host.loader.2, e.fault, toLE 1 e.sect ++ toLE 4 e.ofs ++ e.report⟩ :: rs)) ∧
      (∀ im led, loadChecks s bs = .inr (im, led) →
        (s.tsk.save ≠ none ∨ s.nvsFree = false → Completes .loadChecksDone s (fun t =>
          t.loading = .waitSave bs im led ∧ t.img = s.img ∧ t.host = s.host ∧ OnlyRegs [] s t)) ∧
        (s.tsk.save = none → s.nvsFree = true → s.nvs.worn = [] → Completes .loadChecksDone s (fun t =>
          t.loading = .idle ∧ t.img = some im ∧ t.ledger = led ∧ t.nvs.activeSlot = s.freeSlot ∧ t.nvs.marked = true ∧
          t.rd R.TSK_RSTAT_LOADED = 1 ∧ t.rd R.TSK_IMAGE_ID = im.imageId % 2 ^ 64)) ∧
        (s.tsk.save = none → s.nvsFree = true → s.slotTakes bs = false → Completes .loadChecksDone s (fun t =>
          t.loading = .idle ∧ t.img = s.img ∧ t.ledger = s.ledger ∧ t.nvs.activeSlot = s.nvs.activeSlot ∧
          t.rd R.NVS_LASTFAULT_FAULT = 0x1101 ∧ t.lineUp 126 = true)))) ∧
    ((∀ bs, s.loading ≠ .checking bs) → exec .loadChecksDone s = .next s)

/-- The fieldbus channels (R323 to R337, Table 13.3): enable and disable, buffers requested, selected, sent, cancelled and broken
off, the error states, recovery, a received frame in its ring, which RXWR counts once its entry has been written, and the stamps. That
the first entry after an enable has SEQ 1, that a channel counts as the sender up to the next frame after its own, and that entries
above MEM_FRONT count for the next place and for a full ring are the model's choice (log entry 42). -/
def Obligations.FieldbusEvents : Prop :=
  ∀ (ch : Fin 4) (s : State),
    let n := ch.val
    let c := s.chan n
    let st := s.rd (R.FBS_STAT_STATE n)
    let en := s.rd (R.FBS_CFG_EN n)
    let on := s.domOn 8
    let line := fun t : State => t.lineUp (100 + n) = true
    (∀ (w : Word) (m : BitVec 3) (v : DWord),
      (on = false → ∀ i ∈ [Instr.fbsEnable ch w, .fbsDisable ch w, .txRequest ch m, .txCancel ch m, .fbsRecover ch,
        .fbsRxbaseWrite ch v, .fbsSnapRequest], exec i s = .next s) ∧
      (on = true →
        let u := s.writeFbsCfg n w.toNat
        let latched := (u.fbsLatch n).chan n
        (en = 1 → exec (.fbsEnable ch w) s = .next u) ∧
        u.rd (R.FBS_CFG_FD n) = b2n (w.getLsbD 1) ∧ u.rd (R.FBS_CFG_TERM n) = b2n (w.getLsbD 7) ∧
        latched.fd = w.getLsbD 1 ∧ latched.order = w.getLsbD 2 ∧ latched.autorec = w.getLsbD 3 ∧ latched.listen = w.getLsbD 4 ∧
        latched.selfrx = w.getLsbD 5 ∧ latched.oneshot = w.getLsbD 6 ∧ latched.term = w.getLsbD 7 ∧
        (en = 0 → latched.timingOk = false → Completes (.fbsEnable ch w) s (fun t => t.chan n = latched ∧
          t.rd (R.FBS_CFG_EN n) = 0 ∧ t.rd (R.FBS_LASTFAULT_FAULT n) = 0x0B06 ∧ line t ∧ t.rd (R.FBS_STAT_STATE n) = st ∧ t.mem = s.mem)) ∧
        (en = 0 → latched.timingOk = true → Completes (.fbsEnable ch w) s (fun t =>
          t.rd (R.FBS_CFG_EN n) = 1 ∧ t.rd (R.FBS_ERR_TEC n) = 0 ∧ t.rd (R.FBS_ERR_REC n) = 0 ∧ t.rd (R.FBS_STAT_STATE n) = 3 ∧
          t.chan n = { latched with tx := none, broken := false, seq := 0 } ∧ t.mem = s.mem)) ∧
        Completes (.fbsDisable ch w) s (fun t =>
          t.rd (R.FBS_CFG_EN n) = 0 ∧ t.rd (R.FBS_STAT_STATE n) = 3 ∧ (t.chan n).tx = none ∧
          (∀ b < 3, t.bufState n b = if s.bufState n b = 1 then 3 else s.bufState n b) ∧ t.mem = s.mem) ∧
        Completes (.txRequest ch m) s (fun t => t.mem = s.mem ∧ ∀ b < 3,
          let copy := s.txCopy n b
          (m.getLsbD b = false ∨ s.bufState n b = 1 ∨ (copy.fdf && !c.fd) = true → t.bufState n b = s.bufState n b) ∧
          (m.getLsbD b = true → s.bufState n b ≠ 1 → (copy.fdf && !c.fd) = true → t.rd (R.FBS_LASTFAULT_FAULT n) = 0x0B05) ∧
          (m.getLsbD b = true → s.bufState n b ≠ 1 → (copy.fdf && !c.fd) = false →
            t.bufState n b = 1 ∧ sget {} (t.chan n).copies b = copy)) ∧
        Completes (.txCancel ch m) s (fun t => t.mem = s.mem ∧ ∀ b < 3,
          (m.getLsbD b = false ∨ s.bufState n b ≠ 1 → t.bufState n b = s.bufState n b) ∧
          (m.getLsbD b = true → s.bufState n b = 1 →
            (s.sending n b = false → t.bufState n b = 3 ∧ line t) ∧
            (s.sending n b = true → t.bufState n b = 1 ∧ t.rd (R.FBS_TXB_STAT_CANPEND n b) = 1 ∧
              t.rd (R.FBS_TXB_STAT_TOOLATE n b) = 1 ∧ line t))) ∧
        (st = 2 → Completes (.fbsRecover ch) s (fun t => t.rd (R.FBS_STAT_RECOV n) = 1 ∧ OnlyRegs [R.FBS_STAT_RECOV n] s t)) ∧
        (st ≠ 2 → exec (.fbsRecover ch) s = .next s) ∧
        Completes (.fbsRxbaseWrite ch v) s (fun t =>
          t.rd (R.FBS_RXBASE_ADDR n) = v.toNat % 2 ^ 40 ∧ t.rd (R.FBS_STAT_RINGERR n) = 0 ∧ t.rd (R.FBS_RXWR_COUNT n) = 0 ∧
          t.rd (R.FBS_RXRD_COUNT n) = 0 ∧ (t.chan n).onWay = [] ∧ (s.domOn 5 = true → (t.chan n).full = false) ∧
          OnlyRegs [R.FBS_RXBASE_ADDR n, R.FBS_STAT_RINGERR n, R.FBS_RXWR_COUNT n, R.FBS_RXRD_COUNT n] s t) ∧
        Completes .fbsSnapRequest s (fun t =>
          t.rd (R.FBS_TSSNAP_A_SNAPCNT 0) = s.rd (R.FBS_TSCNT_COUNT 0) ∧ t.rd (R.FBS_TSSNAP_A_SNAPNS 0) = s.tim.ns % 2 ^ 32 ∧
          t.rd (R.FBS_TSSNAP_B_SNAPSEC 0) = s.rd R.TIM_SEC_SEC ∧
          t.rd (R.FBS_TSSNAP_B_NUM 0) = (s.rd (R.FBS_TSSNAP_B_NUM 0) + 1) % 65536 ∧
          OnlyRegs [R.FBS_TSSNAP_A_SNAPCNT 0, R.FBS_TSSNAP_A_SNAPNS 0, R.FBS_TSSNAP_B_SNAPSEC 0, R.FBS_TSSNAP_B_NUM 0] s t))) ∧
    (en = 0 ∨ st ≠ 3 → exec (.fbsIntegrated ch) s = .next s) ∧
    (en = 1 → st = 3 → Completes (.fbsIntegrated ch) s (fun t => t.rd (R.FBS_STAT_STATE n) = 0 ∧ line t ∧
      OnlyRegs (R.FBS_STAT_STATE n :: lineFlds (100 + n)) s t)) ∧
    (s.onBus n = false ∨ c.listen = true ∨ c.tx ≠ none ∨ s.selectBuf n = none → exec (.fbsTxStart ch) s = .next s) ∧
    (∀ b, s.selectBuf n = some b → b ∈ s.pendingBufs n ∧
      (∀ k ∈ s.pendingBufs n, if c.order then b ≤ k else
        (sget {} c.copies b : TxCopy).key ≤ (sget {} c.copies k : TxCopy).key) ∧
      (s.onBus n = true → c.listen = false → c.tx = none → Completes (.fbsTxStart ch) s (fun t =>
        (t.chan n).tx = some (b, s.rd (R.FBS_TSCNT_COUNT 0)) ∧ OnlyRegs [] s t))) ∧
    (c.tx = none → exec (.fbsFrameComplete ch) s = .next s ∧ exec (.fbsArbitrationLost ch) s = .next s) ∧
    (∀ b ts, c.tx = some (b, ts) → b < 3 →
      (c.selfrx = false → Completes (.fbsFrameComplete ch) s (fun t =>
        (t.chan n).tx = none ∧ (t.chan n).broken = true ∧ t.bufState n b = 2 ∧ t.rd (R.FBS_TXB_TS_TS n b) = ts % 2 ^ 32 ∧ line t ∧
        t.rd (R.FBS_TXSENT_COUNT n) = (s.rd (R.FBS_TXSENT_COUNT n) + 1) % 2 ^ 32 ∧
        t.rd (R.FBS_ERR_TEC n) = s.rd (R.FBS_ERR_TEC n) - 1 ∧ t.mem = s.mem)) ∧
      Completes (.fbsArbitrationLost ch) s (fun t => (t.chan n).tx = none ∧ t.mem = s.mem ∧
        t.bufState n b = if s.rd (R.FBS_TXB_STAT_CANPEND n b) = 1 then 3 else if c.oneshot then 4 else s.bufState n b)) ∧
    (∀ (lec : Fin 7) (step : Fin 4),
      (s.onBus n = false → exec (.fbsBusError ch lec step) s = .next s) ∧
      (s.onBus n = true → Completes (.fbsBusError ch lec step) s (fun t =>
        let own := c.tx ≠ none ∨ (step = 3 ∧ c.broken = true)
        let tec := s.rd (R.FBS_ERR_TEC n) + if own ∧ step ≠ 0 then 8 else 0
        let rec' := s.rd (R.FBS_ERR_REC n) + if own ∨ step = 0 ∨ step = 3 then 0 else if step = 1 then 1 else 8
        t.rd (R.FBS_STAT_LEC n) = lec.val ∧ t.rd (R.FBS_ERR_TEC n) = min 511 tec ∧ t.rd (R.FBS_ERR_REC n) = min 511 rec' ∧
        (t.chan n).tx = none ∧ ((t.chan n).broken = true ↔ own) ∧
        t.rd (R.FBS_STAT_STATE n) = (if 255 < tec then 2 else if 127 < tec ∨ 127 < rec' then 1 else 0) ∧
        (255 < tec → t.rd (R.FBS_LASTFAULT_FAULT n) = 0x0B01 ∧ t.rd (R.FBS_STAT_RECOV n) = b2n c.autorec ∧ line t) ∧ t.mem = s.mem))) ∧
    (st ≠ 2 ∨ s.rd (R.FBS_STAT_RECOV n) = 0 → exec (.fbsRecoveryComplete ch) s = .next s) ∧
    (st = 2 → s.rd (R.FBS_STAT_RECOV n) = 1 → Completes (.fbsRecoveryComplete ch) s (fun t =>
      t.rd (R.FBS_ERR_TEC n) = 0 ∧ t.rd (R.FBS_ERR_REC n) = 0 ∧ t.rd (R.FBS_STAT_RECOV n) = 0 ∧ t.rd (R.FBS_STAT_STATE n) = 0 ∧
      line t ∧ t.mem = s.mem)) ∧
    ∀ (f : CanFrame) (age : Word) (mapped : List (BitVec 12 × DWord)),
      let wr := s.rd (R.FBS_RXWR_COUNT n)
      let k := wr + c.onWay.length
      let a := s.rd (R.FBS_RXBASE_ADDR n) / 16 * 16 + 80 * (k % s.ringSize n)
      let stamp := (s.rd (R.FBS_TSCNT_COUNT 0) + 2 ^ 32 - age.toNat) % 2 ^ 32
      let open_ := s.onBus n = true ∧ (f.fdf && !c.fd) = false ∧ s.rd (R.FBS_STAT_RINGERR n) = 0
      (s.onBus n = false → exec (.fbsReceive ch f age mapped) s = .next s) ∧
      (s.onBus n = true → (f.fdf && !c.fd) = true → exec (.fbsReceive ch f age mapped) s = exec (.fbsBusError ch 2 1) s) ∧
      (open_ → s.domOn 5 = true → s.ringFull n = false → 0x100000000 ≤ a → a + 80 ≤ 0x180000000 → s.rd R.MEM_FRONT_ADDR < a + 80 →
        Completes (.fbsReceive ch f age mapped) s (fun t => t.mem = s.mem ∧ t.rd (R.FBS_RXWR_COUNT n) = wr ∧
          (t.chan n).onWay = c.onWay ++ [a] ∧
          t.memx.waiting = s.memx.waiting ++ [⟨8, 80, a, some (leNat (rxEntry stamp ((c.seq + 1) % 65536) f false c.drop))⟩])) ∧
      (open_ → s.domOn 5 = true → s.ringFull n = false → s.memx.ecc = [] → 0x100000000 ≤ a → a + 80 ≤ 0x180000000 →
        a + 80 ≤ s.rd R.MEM_FRONT_ADDR → Completes (.fbsReceive ch f age mapped) s (fun t =>
          readBytes t.mem a 80 = rxEntry stamp ((c.seq + 1) % 65536) f false c.drop ∧
          (∀ i, i < a ∨ a + 80 ≤ i → sget 0 t.mem i = sget 0 s.mem i) ∧ t.rd (R.FBS_RXWR_COUNT n) = (wr + 1) % 2 ^ 32 ∧
          t.lineUp (96 + n) = true ∧ (s.rd (R.FBS_ERR_REC n) ≤ 127 → t.rd (R.FBS_ERR_REC n) = s.rd (R.FBS_ERR_REC n) - 1))) ∧
      (open_ → s.domOn 5 = false ∨ s.ringFull n = true → Completes (.fbsReceive ch f age mapped) s (fun t =>
        t.rd (R.FBS_RXDROP_COUNT n) = (s.rd (R.FBS_RXDROP_COUNT n) + 1) % 2 ^ 32 ∧ t.rd (R.FBS_RXWR_COUNT n) = wr ∧ t.mem = s.mem ∧
        t.tsk = s.tsk))

/-- Network time (R36, R340 to R346, R349, R350, R354, R391): the rate and its clamp, which PHS follows where NET is its reference,
a step, the latched read, the state, a Sync accepted, a change of master or silence, a second, and a load from the calendar asked
for. That TIM_STEP acts at its write (log entry 43) and that PHS_INC follows the new TIM_INCR before NET is lost (log entry 70) are
the model's choice; that a step passes UPD_FALLSLOT is Table 20.4 (R465). -/
def Obligations.NetworkTimeEvents : Prop :=
  ∀ s : State,
    let lo := 0x07FDF3B646
    let hi := 0x08020C49BA
    let st := s.rd R.TIM_STAT_STATE
    let now := s.rd R.TIM_SEC_SEC * 1000000000 + s.tim.ns
    let net := s.domOn 10 && s.rd R.PHS_CFG_REF == 1 && !s.on R.PHS_STAT_LOST
    let stepped := fun (d : Int) t =>
      t.rd R.TIM_LASTSTEP_STEP = ofSigned 64 d ∧ t.lineUp 105 = true ∧ t.rd R.TIM_LASTFAULT_FAULT = 0x0C02 ∧
      t.rd R.TIM_STEPCNT_COUNT = min 65535 (s.rd R.TIM_STEPCNT_COUNT + 1) ∧ t.mem = s.mem ∧ t.rtc.window = none ∧
      (let e := toSigned 64 (ofSigned 64 d)
       ((now : Int) + e < 0 → t.rd R.TIM_SEC_SEC = 0 ∧ t.tim.ns = 0 ∧ t.tim.frac = 0) ∧
       (0 ≤ (now : Int) + e → t.tim.ns = ((now : Int) + e).toNat % 1000000000 ∧ t.tim.frac = s.tim.frac ∧
         t.rd R.TIM_SEC_SEC = ((now : Int) + e).toNat / 1000000000 % 2 ^ 48)) ∧
      (let day := fun sec : Nat => ((sec : Int) - t.utcOfs - (min 86399 (s.rd R.UPD_FALLSLOT_SEC) : Nat)).fdiv 86400
       let passed := day (t.rd R.TIM_SEC_SEC) - day (s.rd R.TIM_SEC_SEC)
       t.upd.slotBack = ((s.upd.slotBack : Int) - passed).toNat ∧
       ((s.upd.slotBack : Int) < passed → s.rd R.UPD_STAT_STATE = 5 → s.rd R.UPD_STAT_FALLPEND = 1 →
         s.moving = false → s.cellLow = false → t.upd.fallDue = some 2))
    let holdover := fun t => t.tim.good = 0 ∧ t.mem = s.mem ∧
      (st = 2 → s.rd R.SYS_STAT_CLKSRC = 0 → t.rd R.TIM_STAT_STATE = 3 ∧ t.rd R.TIM_STAT_SYNC = 0 ∧ t.lineUp 104 = true ∧
        t.rd R.TIM_INCR_INCR = max lo (min hi (s.tim.freq % 2 ^ 40))) ∧
      (st ≠ 2 ∨ s.rd R.SYS_STAT_CLKSRC = 1 → t.rd R.TIM_STAT_STATE = st ∧ t.rd R.TIM_INCR_INCR = s.rd R.TIM_INCR_INCR)
    (∀ v : DWord,
      Completes (.timIncrWrite v) s (fun t =>
        let w := v.toNat % 2 ^ 40
        t.rd R.TIM_INCR_INCR = max lo (min hi w) ∧
        (max lo (min hi w) ≠ w → t.rd R.TIM_STAT_CLAMP = 1 ∧ t.rd R.TIM_LASTFAULT_FAULT = 0x0C04) ∧
        (max lo (min hi w) = w → t.rd R.TIM_STAT_CLAMP = s.rd R.TIM_STAT_CLAMP) ∧
        OnlyRegs (R.TIM_INCR_INCR :: R.TIM_STAT_CLAMP :: R.TIM_LASTFAULT_FAULT :: if net then [R.PHS_INC_INC] else []) s t ∧
        (net = true → s.rd R.PHS_STAT_SLEWING = 0 → t.rd R.PHS_INC_INC =
          s.clampInc (max lo (min hi w) * 5 * 2 ^ 28 / max 1 (s.rd R.PHS_NETPER_PER)) % 2 ^ 48)) ∧
      Completes (.timStepWrite v) s (stepped v.toInt)) ∧
    Completes .timSecRead s (fun t => t.busData = s.rd R.TIM_SEC_SEC ∧ t.rd R.TIM_NSF_NS = s.tim.ns % 2 ^ 32 ∧
      t.rd R.TIM_NSF_FRAC = s.tim.frac % 2 ^ 32 ∧ OnlyRegs [R.TIM_NSF_NS, R.TIM_NSF_FRAC] s t) ∧
    (∀ v : Word,
      let want := (v.extractLsb' 2 2).toNat
      let port := b2n (v.getLsbD 4)
      (want < 2 ∨ want = st → Completes (.timStateWrite v) s (fun t => t.rd R.TIM_STAT_PORT = port ∧ OnlyRegs [R.TIM_STAT_PORT] s t)) ∧
      (2 ≤ want → want ≠ st → Completes (.timStateWrite v) s (fun t =>
        t.rd R.TIM_STAT_STATE = want ∧ t.rd R.TIM_STAT_SYNC = (if want = 2 then 1 else 0) ∧ t.rd R.TIM_STAT_PORT = port ∧
        t.lineUp 104 = true ∧ (want = 2 → t.tim.everLocked = true ∧ (s.tim.everLocked = false → t.rtc.sync = true)) ∧ (want = 3 →
          t.rd R.TIM_LASTFAULT_FAULT = 0x0C01 ∧ t.refLost 1 = true) ∧ t.mem = s.mem))) ∧
    (∀ (offset : DWord) (port : Bool) (utc : Option (BitVec 16)),
      let e := offset.toInt
      (s.rd R.SYS_STAT_CLKSRC = 1 ∨ s.domOn 7 = false → exec (.ptpSync offset port utc) s = .next s) ∧
      (s.rd R.SYS_STAT_CLKSRC = 0 → s.domOn 7 = true →
        Completes (.ptpSync offset port utc) s (fun t =>
          t.rd R.TIM_STAT_PORT = b2n port ∧ (∀ u, utc = some u → t.rd R.RTC_UTCOFS_OFS = u.toNat ∧
            toSigned 32 (t.rd R.TLY_ALIGN_OFS) = u.toInt) ∧
          (1000000 < e.natAbs → t.tim.good = 0 ∧ stepped (-e) t) ∧
          (e.natAbs ≤ 1000000 → t.rd R.TIM_SEC_SEC = s.rd R.TIM_SEC_SEC ∧ t.tim.ns = s.tim.ns ∧
            (st ≠ 3 → lo ≤ t.rd R.TIM_INCR_INCR ∧ t.rd R.TIM_INCR_INCR ≤ hi) ∧
            (st = 3 → t.rd R.TIM_INCR_INCR = s.rd R.TIM_INCR_INCR) ∧
            (1000 < e.natAbs → t.tim.good = 0) ∧ (e.natAbs ≤ 1000 → t.tim.good = min 16 (s.tim.good + 1)) ∧
            (e.natAbs ≤ 1000 → 15 ≤ s.tim.good → t.rd R.TIM_STAT_STATE = 2 ∧ (st ≠ 2 → t.rd R.TIM_STAT_SYNC = 1 ∧
              (s.tim.everLocked = false → t.rtc.sync = true))))))) ∧
    (∀ port : Bool, Completes (.ptpMasterChange port) s (fun t => t.rd R.TIM_STAT_PORT = b2n port ∧ holdover t)) ∧
    Completes .ptpSyncTimeout s holdover ∧
    (lo ≤ s.rd R.TIM_INCR_INCR → s.rd R.TIM_INCR_INCR ≤ hi → s.tim.ns < 1000000000 → s.tim.frac < 2 ^ 32 →
      Completes .timSecondBoundary s (fun t =>
        t.rd R.TIM_SEC_SEC = (s.rd R.TIM_SEC_SEC + 1) % 2 ^ 48 ∧ t.tim.ns ≤ 8 ∧ t.lineUp 107 = true)) ∧
    (2 ≤ st → exec .loadrtc s = .next s) ∧
    (st < 2 → s.rd R.RTC_STAT_OSF = 1 ∨ s.cal.inRange = false → Completes .loadrtc s (fun t =>
      t.rd R.TIM_STAT_RTCBAD = 1 ∧ t.rd R.TIM_LASTFAULT_FAULT = 0x0C03 ∧ t.lineUp 106 = true ∧ t.tim = s.tim ∧
      OnlyRegs (R.TIM_STAT_RTCBAD :: R.TIM_LASTFAULT_FAULT :: lineFlds 106) s t)) ∧
    (st < 2 → s.rd R.RTC_STAT_OSF = 0 → s.cal.inRange = true → Completes .loadrtc s (fun t =>
      t.tim = { s.tim with loading := true } ∧ OnlyRegs [] s t))

/-- The calendar (R349, R351, R352, R354 to R358, R360): a time written and taken at the second edge after it, a second with its
carries, a load that completes, a wake, the transfer asked for, the switchover record, the oscillator, the trim, and a reset of
AON. -/
def Obligations.CalendarEvents : Prop :=
  ∀ s : State,
    (∀ v : DWord, Completes (.rtcTimeWrite v) s (fun t =>
      t.rd R.RTC_STAT_WBUSY = 1 ∧ t.rtc = { s.rtc with write := some (v.toNat % 2 ^ 56), edges := 0 } ∧ OnlyRegs [R.RTC_STAT_WBUSY] s t)) ∧
    (s.rtc.write = none → exec .rtcWriteApply s = .next s) ∧
    (∀ v, s.rtc.write = some v → Completes .rtcWriteApply s (fun t =>
      t.rd R.RTC_TIME_TIME = v % 2 ^ 56 ∧ t.rd R.RTC_STAT_OSF = 0 ∧ t.rd R.RTC_STAT_WBUSY = 0 ∧ t.rtc.write = none ∧
      t.rd R.RTC_RAW_COUNT = (s.rd R.RTC_RAW_COUNT + if s.rtc.edges = 0 then 2 else 1) % 2 ^ 48 ∧
      (s.rtc.edges ≠ 0 ∨ (s.rd R.RTC_WAKE_EN = 0 ∧ s.tim.loading = false) →
        OnlyRegs [R.RTC_TIME_TIME, R.RTC_STAT_OSF, R.RTC_STAT_WBUSY, R.RTC_RAW_COUNT, R.RTC_W256_COUNT] s t))) ∧
    (s.rtc.write = none → Completes .rtcSecond s (fun t =>
      t.cal = s.cal.second ∧ t.rd R.RTC_W256_COUNT = (s.rd R.RTC_W256_COUNT + 256 - s.cal.sub / 128) % 2 ^ 32)) ∧
    (∀ v, s.rtc.write = some v →
      let edges := s.rtc.edges + s.periodsOf (32768 - s.cal.sub)
      (2 ≤ edges → Completes .rtcSecond s (fun t =>
        t.cal = (calOf (v % 2 ^ 56)).second ∧ t.rtc.write = none ∧ t.rd R.RTC_STAT_WBUSY = 0)) ∧
      (edges < 2 → Completes .rtcSecond s (fun t =>
        t.cal = s.cal.second ∧ t.rtc.write = some v ∧ t.rtc.edges = edges ∧ t.rd R.RTC_STAT_WBUSY = s.rd R.RTC_STAT_WBUSY))) ∧
    (let c := s.cal
     c.inRange = true → c.sec < 59 → c.second = { c with sub := 0, sec := c.sec + 1 }) ∧
    (let c := s.cal
     c.inRange = true → c.sec = 59 → c.min = 59 → c.hour = 23 → c.month = 12 → c.day = 31 → c.second =
      ⟨0, 0, 0, 0, 1, 1, if c.wd = 0 || c.wd = 7 then 1 else c.wd + 1, (c.year + 1) % 4096⟩) ∧
    (s.tim.loading = false → exec .rtcLoadComplete s = .next s) ∧
    (s.tim.loading = true → s.rtc.write = none → s.cal.second.inRange = true → Completes .rtcLoadComplete s (fun t =>
      let c := s.cal.second
      t.cal = c ∧ t.tim.ns = 0 ∧ t.tim.loading = false ∧ t.rd R.TIM_STAT_STATE = 1 ∧ t.lineUp 106 = true ∧
      t.rd R.TIM_SEC_SEC = ofSigned 48
        (((daysSince c.year c.month c.day * 86400 + c.hour * 3600 + c.min * 60 + c.sec : Nat) : Int) + s.utcOfs))) ∧
    (s.rd R.RTC_WAKE_EN = 0 → exec .rtcWake s = .next s) ∧
    (s.rd R.RTC_WAKE_EN = 1 → s.rtc.write = none → Completes .rtcWake s (fun t =>
      let k := 2 ^ min 24 (s.rd R.RTC_WAKE_K)
      t.rd R.RTC_W256_COUNT = (s.rd R.RTC_W256_COUNT / k + 1) * k % 2 ^ 32 ∧ (s.pwr.held = false → t.lineUp 108 = true))) ∧
    Completes .synctim s (fun t => t.rtc.sync = true ∧ OnlyRegs [] s t) ∧
    Completes .clrsw s (fun t => t.rd R.RTC_FIRSTSW_TIME = 0 ∧ t.rd R.RTC_FIRSTSW_VALID = 0 ∧ t.rd R.RTC_SWCOUNT_COUNT = 0 ∧
      OnlyRegs [R.RTC_FIRSTSW_TIME, R.RTC_FIRSTSW_VALID, R.RTC_SWCOUNT_COUNT] s t) ∧
    Completes .aonSwitchover s (fun t =>
      t.rd R.RTC_SWCOUNT_COUNT = min 65535 (s.rd R.RTC_SWCOUNT_COUNT + 1) ∧ t.rd R.RTC_FIRSTSW_VALID = 1 ∧
      t.rd R.RTC_FIRSTSW_TIME = (if s.rd R.RTC_FIRSTSW_VALID = 1 then s.rd R.RTC_FIRSTSW_TIME else s.rd R.RTC_TIME_TIME) ∧
      OnlyRegs [R.RTC_SWCOUNT_COUNT, R.RTC_FIRSTSW_VALID, R.RTC_FIRSTSW_TIME] s t) ∧
    Completes .rtcOscStop s (fun t => t.rd R.RTC_STAT_OSF = 1 ∧ t.mem = s.mem ∧
      (s.pwr.held = false → t.lineUp 109 = true ∧ t.rd R.RTC_LASTFAULT_FAULT = 0x0D01) ∧
      (s.pwr.held = true → OnlyRegs [R.RTC_STAT_OSF] s t)) ∧
    (∀ temp : BitVec 16, Completes (.rtcTrimUpdate temp) s (fun t =>
      let d := (temp.toInt - toSigned 16 (s.rd R.RTC_TRIM_T0)).natAbs
      let c : Int := nearest (s.rd R.RTC_TRIM_CURV * d * d) 10000 - toSigned 16 (s.rd R.RTC_TRIMOFS_OFS) +
        toSigned 16 (s.rd R.RTC_TRIMOFS_RCORR)
      t.rd R.RTC_TRIMNOW_TEMP = temp.toNat ∧ toSigned 16 (t.rd R.RTC_TRIMNOW_C) = max (-2000) (min 2000 c) ∧
      (c ≤ -2000 ∨ 2000 ≤ c → t.rd R.RTC_LASTFAULT_FAULT = 0x0D03) ∧
      OnlyRegs [R.RTC_TRIMNOW_TEMP, R.RTC_TRIMNOW_C, R.RTC_LASTFAULT_FAULT] s t)) ∧
    Completes .aonReset s (fun t =>
      (∀ f : Fld, 0x100F0000 * 64 ≤ f.key → f.key < 0x10100000 * 64 → f.key ≠ R.RTC_STAT_OSF.key →
        t.rd f = f.reset % 2 ^ f.width) ∧ t.rd R.RTC_STAT_OSF = 1 ∧ t.rtc = {} ∧ t.mem = s.mem ∧
      ∀ f : Fld, (f.key < 0x100F0000 * 64 ∨ 0x10100000 * 64 ≤ f.key) → (f.key < 0x1001003C * 64 ∨ 0x1001003D * 64 ≤ f.key) →
        (∀ g ∈ lineFlds 109, f.key ≠ g.key) → t.rd f = s.rd f)

/-- KEY and the tally book's records (R279, R291, R292, R365 to R371, R374 to R381, R384, R395 to R397): an operation refused, waiting
or performed, its end, a flacon asked for, built and completed, a record written, lost, failed or given up, and the module's
statistics. That an operation acts at its own row, while BUSY = 1 (log entry 31), the functions behind the operations (log entry 32,
PRESUMED) and that waiting events are sealed before the sealing bank (log entry 35) are the model's choice. -/
def Obligations.KeyTallyEvents : Prop :=
  ∀ s : State,
    (∀ cmd : DWord, ∀ o ∈ [(Instr.keyDerive cmd, 1), (.keyLoadclear cmd, 2), (.keyErase cmd, 3), (.keyWrap cmd, 4),
        (.keyUnwrap cmd, 5), (.keyGcmenc cmd, 6), (.keyGcmdec cmd, 7), (.keyHmacgen cmd, 8), (.keyHmacver cmd, 9),
        (.keyTenant cmd, 10)],
      let v := keyRow o.2 cmd
      let c := keyCmd v
      let a0 := s.rd (R.KEY_ARG_ADDR 0)
      let a1 := s.rd (R.KEY_ARG_ADDR 1)
      let len := s.rd R.KEY_LEN_LEN
      let aux := s.rd R.KEY_LEN_AUX
      let held := s.key.build.isSome = true ∨ (s.keyRefused c = false ∧ s.keyWaits c = true)
      let inside := (s.keyBuffers o.2).1 ++ (s.keyBuffers o.2).2 |>.all keyBufferOk
      let begun := fun status (t : State) => t.rd R.KEY_RESULT_BUSY = 1 ∧ t.key.op = some ⟨o.2, v, status⟩
      let slot := fun (t : State) k attr ex depth origin =>
        t.slotKey c.dst = k ∧ t.rd (R.KEY_SLOT_ATTR c.dst) = attr ∧ t.rd (R.KEY_SLOT_EXPORT c.dst) = b2n ex ∧
        t.rd (R.KEY_SLOT_DEPTH c.dst) = depth ∧ t.rd (R.KEY_SLOT_ORIGIN c.dst) = origin ∧ t.mem = s.mem ∧
        ∀ n, n ≠ c.dst → t.slotKey n = s.slotKey n
      let wrote := fun a (bs : List Byte) (t : State) => readBytes t.mem a bs.length = bs ∧ t.key.keys = s.key.keys ∧
        ∀ k, k < a ∨ a + bs.length ≤ k → sget 0 t.mem k = sget 0 s.mem k
      let key := s.slotKey c.src
      let data := readBytes s.mem a0
      c.op = o.2 ∧
      (s.domOn 9 = false → exec o.1 s = .next s) ∧
      (s.domOn 9 = true → s.rd R.KEY_RESULT_BUSY = 1 → Completes o.1 s (fun t =>
        t.rd R.KEY_RESULT_STATUS = 5 ∧ OnlyRegs [R.KEY_RESULT_STATUS] s t)) ∧
      (s.domOn 9 = true → s.rd R.KEY_RESULT_BUSY = 0 →
        (held → Completes o.1 s (fun t =>
          begun none t ∧ t.key.keys = s.key.keys ∧ OnlyRegs [R.KEY_RESULT_BUSY] s t)) ∧
        (¬held → s.keyRefused c = true → Completes o.1 s (fun t =>
          begun (some 1) t ∧ t.key.keys = s.key.keys ∧ OnlyRegs [R.KEY_RESULT_BUSY] s t)) ∧
        (¬held → s.keyRefused c = false →
          (inside = false → Completes o.1 s (fun t =>
            begun (some 3) t ∧ t.key.keys = s.key.keys ∧ OnlyRegs [R.KEY_RESULT_BUSY] s t)) ∧
          (inside = true → s.memx.ecc = [] → Completes o.1 s (fun t =>
            (o.2 = 1 → ∀ p d, s.parentOf c.src = some (p, d) → begun (some 0) t ∧
              slot t (deriveKey p (s.labelOf c.lablen) c.attr c.exportable (d + 1)) c.attr c.exportable (d + 1) 1) ∧
            (o.2 = 2 → begun (some 0) t ∧ (∀ i < 8, t.rd (R.KEY_KDATA_BYTES i) = 0) ∧
              slot t ((List.range 8).map fun i => toLE 4 (s.rd (R.KEY_KDATA_BYTES i))).flatten c.attr c.exportable c.depth 2) ∧
            (o.2 = 3 → begun (some 0) t ∧ slot t [] 0 false 0 0) ∧
            (o.2 = 4 → begun (some 0) t ∧ wrote a1 (s.wrapped c) t) ∧
            (o.2 = 5 → ∀ iv k, Aes.unwrap key (data 40) = (iv, k) →
              (ivGood iv = false → begun (some 4) t ∧ t.key.keys = s.key.keys ∧ t.mem = s.mem) ∧
              (ivGood iv = true → begun (some 0) t ∧
                slot t k (iv.getD 5 0).toNat ((iv.getD 6 0).getLsbD 7) ((iv.getD 6 0).toNat % 128) 3)) ∧
            (o.2 = 6 → let d := data (12 + aux + len)
              let ct := Aes.gcmText key (d.take 12) (d.drop (12 + aux))
              begun (some 0) t ∧ wrote a1 (ct ++ Aes.gcmTag key (d.take 12) ((d.drop 12).take aux) ct) t) ∧
            (o.2 = 7 → let d := data (12 + aux + len + 16)
              let ct := (d.drop (12 + aux)).take len
              let tag := Aes.gcmTag key (d.take 12) ((d.drop 12).take aux) ct
              (tag = (d.drop (12 + aux + len)).take 16 → begun (some 0) t ∧ wrote a1 (Aes.gcmText key (d.take 12) ct) t) ∧
              (tag ≠ (d.drop (12 + aux + len)).take 16 → begun (some 2) t ∧ t.mem = s.mem ∧ t.key.keys = s.key.keys)) ∧
            (o.2 = 8 → begun (some 0) t ∧ wrote a1 (hmac256 key (data len)) t) ∧
            (o.2 = 9 → t.mem = s.mem ∧ t.key.keys = s.key.keys ∧
              begun (some (if (hmac256 key (data len)).take aux = readBytes s.mem a1 aux then 0 else 2)) t) ∧
            (o.2 = 10 → begun (some 0) t ∧ t.mem = s.mem ∧ t.key.keys = s.key.keys ∧
              sget [] t.key.tenants c.dst = deriveKey (deriveKey key (s.labelOf c.lablen) 4 false 4)
                (asciiOf "flacon" ++ macBytes ++ toLE 1 (s.rd R.KEY_STAT_GEN)) 1 false 5)))))) ∧
    (s.key.op = none → exec .keyOperationEnd s = .next s) ∧
    (∀ op v status, s.key.op = some ⟨op, v, some status⟩ → s.key.due = [] → Completes .keyOperationEnd s (fun t =>
      t.rd R.KEY_RESULT_STATUS = status % 8 ∧ t.rd R.KEY_RESULT_OP = op % 16 ∧ t.rd R.KEY_RESULT_BUSY = 0 ∧ t.key.op = none ∧
      t.lineUp 112 = true ∧ (status = 1 → t.rd R.KEY_LASTFAULT_FAULT = 0x0E02) ∧ (status = 3 → t.rd R.KEY_LASTFAULT_FAULT = 0x0E07) ∧
      (status = 4 → t.rd R.KEY_LASTFAULT_FAULT = 0x0E03) ∧
      OnlyRegs (R.KEY_RESULT_STATUS :: R.KEY_RESULT_OP :: R.KEY_RESULT_BUSY :: R.KEY_LASTFAULT_FAULT :: lineFlds 112) s t)) ∧
    (∀ op v, s.key.op = some ⟨op, v, none⟩ →
      (s.keyHeld (keyCmd v) = true → exec .keyOperationEnd s = .next s) ∧
      (s.keyHeld (keyCmd v) = false → s.key.due = [] → Completes .keyOperationEnd s (fun t =>
        t.rd R.KEY_RESULT_BUSY = 0 ∧ t.key.op = none ∧ t.lineUp 112 = true ∧
        t.rd R.KEY_RESULT_STATUS = (s.keyPerform (keyCmd v)).2 % 8))) ∧
    (∀ m : DWord,
      (s.domOn 9 = false → exec (.flaconRequest m) s = .next s) ∧
      (s.domOn 9 = true → Completes (.flaconRequest m) s (fun t => OnlyRegs [] s t ∧ ∀ i < 64,
        bitOf t.key.queue i = (bitOf s.key.queue i || m.getLsbD i) ∧
        bitOf t.key.byReq i = (bitOf s.key.byReq i || (m.getLsbD i && !bitOf s.key.queue i))))) ∧
    (let base := s.rd R.KEY_FLBASE_ADDR
     let idle := s.domOn 9 = true ∧ bitOf (s.rd R.PWR_DOMSTAT_READY) 9 = true ∧ s.key.bootDue = false ∧ s.key.due = [] ∧ s.inGap = false ∧
       s.rd R.KEY_STAT_SEQLOST = 0 ∧ s.key.build = none ∧ s.rd R.KEY_RESULT_BUSY = 0
     let low := fun i => min 0x180000000 (base + 131328 * (i + 1)) ≤ s.rd R.MEM_FRONT_ADDR
     let due := fun i => bitOf s.key.queue i && bitOf (s.rd R.KEY_TENEN_EN) i
     ∀ latched : Bool,
      (¬idle → exec (.flaconBuild latched) s = .next s) ∧
      (idle → (∀ i < 64, due i = false) → Completes (.flaconBuild latched) s (fun t =>
        (∀ i < 64, bitOf t.key.queue i = false) ∧ t.key.build = none ∧ OnlyRegs [] s t)) ∧
      (∀ i < 64, idle → due i = true → (∀ j < i, due j = false) →
        let k := sget [] s.key.tenants (i + 1)
        let count := sget 0 s.key.counts (i + 1)
        (¬low i → Completes (.flaconBuild latched) s (fun t =>
          (∀ j < 64, bitOf t.key.queue j = due j) ∧ t.key.build = none ∧ OnlyRegs [] s t)) ∧
        (low i → count = 2 ^ 32 - 1 → s.nvsFree = false → Completes (.flaconBuild latched) s (fun t =>
          t.key.bootDue = true ∧ (∀ j < 64, bitOf t.key.queue j = due j) ∧ t.key.build = none ∧ OnlyRegs [] s t)) ∧
        (low i → k = [] → count < 2 ^ 32 - 1 → Completes (.flaconBuild latched) s (fun t =>
          t.rd R.KEY_LASTFAULT_FAULT = 0x0E06 ∧ (∀ j < 64, bitOf t.key.queue j = (due j && j != i)) ∧ t.key.build = none ∧
          OnlyRegs [R.KEY_LASTFAULT_FAULT] s t)) ∧
        (low i → k.length = 32 → s.memx.ecc = [] → count < 2 ^ 32 - 1 →
          let seq := s.rd R.KEY_BOOT_BOOT * 2 ^ 32 + (count + 1)
          let a := base + 131328 * i + 65664 * (seq % 2)
          let pts := s.tenantPoints (i + 1)
          let hdr := s.flaconHeader (i + 1) seq pts.length (bitOf s.key.byReq i) latched
          let nonce := zeros 3 ++ toLE 1 (i + 1) ++ toBE 8 seq
          let ct := Aes.gcmText k nonce (pts.map s.flaconRecord).flatten
          (base % 64 ≠ 0 ∨ supBuffer a 65664 = false → Completes (.flaconBuild latched) s (fun t =>
            t.rd R.KEY_LASTFAULT_FAULT = 0x0E07 ∧ t.key.build = none ∧
            t.rd R.KEY_FLSTAT_ABANDON = min 255 (s.rd R.KEY_FLSTAT_ABANDON + 1) ∧
            OnlyRegs [R.KEY_LASTFAULT_FAULT, R.KEY_FLSTAT_ABANDON] s t)) ∧
          (base % 64 = 0 → supBuffer a 65664 = true → Completes (.flaconBuild latched) s (fun t =>
            t.rd R.KEY_STAT_BUILDING = 1 ∧ t.key.build = some ⟨i + 1, seq, a⟩ ∧
            (∀ j < 64, bitOf t.key.queue j = (due j && j != i)) ∧ sget 0 t.key.counts (i + 1) = count + 1 ∧
            readBytes t.mem a 64 = hdr ++ zeros 4 ∧
            readBytes t.mem (a + 64) (16 * pts.length + 16) = ct ++ Aes.gcmTag k nonce hdr ct ∧
            ∀ m, m < a ∨ a + 65664 ≤ m → sget 0 t.mem m = sget 0 s.mem m))))) ∧
    (s.key.build = none ∨ s.inGap = true → exec .flaconComplete s = .next s) ∧
    (∀ b, s.key.build = some b → s.inGap = false → 1 ≤ b.tenant → b.tenant ≤ 64 → s.memx.ecc = [] → supBuffer (b.addr + 0x3C) 4 = true →
      Completes .flaconComplete s (fun t =>
        readLE t.mem (b.addr + 0x3C) 4 = 0x4B4F4C46 ∧ t.rd (R.KEY_TSEQ_SEQ (b.tenant - 1)) = b.seq % 2 ^ 64 ∧
        t.rd R.KEY_FLSTAT_BUILT = (s.rd R.KEY_FLSTAT_BUILT + 1) % 65536 ∧ t.rd R.KEY_STAT_BUILDING = 0 ∧ t.key.build = none ∧
        (s.key.queue = 0 → t.lineUp 113 = true) ∧
        ∀ k, k < b.addr + 0x3C ∨ b.addr + 0x40 ≤ k → sget 0 t.mem k = sget 0 s.mem k)) ∧
    (∀ done : SealEnd,
      let cmd := Instr.tallyRecordWrite done
      let evs := if s.rd R.NVS_STAT_PFWORDER = 1 then [] else s.tly.events
      let ready := s.tallyReady = true ∧ s.nvsReady = true ∧ s.rd R.NVS_STAT_SAVE = 0
      let idle := s.key.bootDue = false ∧ s.upd.setDue = false ∧ s.nvs.due = []
      let p := s.nextPlace
      (¬ready ∨ (evs = [] ∧ s.tly.sealing = []) → exec cmd s = .next s) ∧
      (∀ e es, ready → evs = e :: es → s.tallyDefined e.code = false → es ≠ [] ∨ idle → Completes cmd s (fun t =>
        t.tly = { s.tly with events := es } ∧ OnlyRegs [] s t)) ∧
      (∀ e es, ready → evs = e :: es → s.tallyDefined e.code = true → s.tallyRoom = 0 → es ≠ [] ∨ idle → Completes cmd s (fun t =>
        t.tly.events = es ∧ t.rd R.TLY_EVLOST_COUNT = min (2 ^ 32 - 1) (s.rd R.TLY_EVLOST_COUNT + 1) ∧
        t.rd R.TLY_LASTFAULT_FAULT = 0x0F03 ∧ t.lineUp 119 = true ∧
        OnlyRegs (R.TLY_EVLOST_COUNT :: R.TLY_LASTFAULT_FAULT :: lineFlds 119) s t)) ∧
      (∀ r rs, ready → evs = [] → s.tly.sealing = r :: rs → done.poison = true → r.kind ≠ 3 → Completes cmd s (fun t =>
        t.tly.next = s.tly.next ∧ t.rd R.MEM_LASTFAULT_FAULT = 0x0904 ∧ (rs ≠ [] ∨ idle → t.flash = s.flash) ∧ t.mem = s.mem ∧
        ((∀ q ∈ rs, q.code ≠ r.code) → t.tly.sealing = rs ∧ (t.live r.code).marred = true) ∧
        (∀ q qs, rs = q :: qs → q.code = r.code → t.tly.sealing = { q with flags := withBit q.flags 1 true } :: qs))) ∧
      (∀ r, ready → (∃ e es, evs = e :: es ∧ s.tallyDefined e.code = true ∧ s.tallyRoom ≠ 0 ∧ r = s.eventRecord e) ∨
          (evs = [] ∧ (∃ rs, s.tly.sealing = r :: rs) ∧ (done.poison = false ∨ r.kind = 3)) →
        (done.failed = true → Completes cmd s (fun t =>
          t.rd R.TLY_LASTFAULT_FAULT = 0x0F02 ∧ t.rd R.NVS_LASTFAULT_FAULT = 0x1101 ∧ t.lineUp 126 = true ∧
          t.tly = { s.tly with place := (p + 1) % logCapacity } ∧
          OnlyRegs (R.TLY_LASTFAULT_FAULT :: R.NVS_LASTFAULT_FAULT :: R.NVS_WRERR_COUNT :: lineFlds 126) s t)) ∧
        (done.failed = false → 1 < evs.length ∨ (evs = [] ∧ s.tly.sealing.tail ≠ []) ∨ idle → Completes cmd s (fun t =>
          readBytes t.flash (logAddr p) 256 = s.recordBytes r s.tly.next ∧
          (∀ k, k < logAddr p ∨ logAddr p + 256 ≤ k → sget 0 t.flash k = sget 0 s.flash k) ∧
          t.tly.next = (s.tly.next + 1) % 2 ^ 32 ∧ t.rd R.TLY_NEXTSEQ_SEQ = t.tly.next ∧ t.tly.used = s.tly.used + 1 ∧
          sget 0 t.tly.index s.tly.next = p + 1 ∧ t.tly.place = (p + 1) % logCapacity ∧ t.mem = s.mem ∧
          (evs = [] → t.tly.sealing = s.tly.sealing.tail ∧ t.tly.events = s.tly.events ∧
            (s.tly.sealing.tail = [] → t.rd R.TLY_STAT_SEALING = 0 ∧ t.rd R.NVS_STAT_SEAL = 0 ∧ t.lineUp 116 = true)) ∧
          (evs ≠ [] → t.tly.events = evs.tail ∧ t.tly.sealing = s.tly.sealing))))) ∧
    (s.tly.index.length < logCapacity → ∀ q ∈ s.tly.index, q.2 ≠ s.nextPlace + 1) ∧
    ∀ vin vhu : BitVec 16, Completes (.moduleStatUpdate vin vhu) s (fun t =>
      t.rd R.PWR_VIN_VIN = vin.toNat ∧ t.rd R.PWR_VIN_VHU = vhu.toNat ∧ t.mem = s.mem ∧ t.flash = s.flash ∧
      (∀ k < 32, s.tallyDefined (0x80 + k) = true → t.rd (R.TSK_TSTAT_MAXRUN_MAXRUN k) = 0) ∧
      ∀ c, c ∈ [0xA0, 0xA1, 0xA2, 0xA3, 0xA4] ∨ (∃ k < 32, c = 0x80 + k) →
        (s.tallyDefined c = false → t.live c = s.live c) ∧
        (s.tallyDefined c = true →
          let full := s.rd (R.TLY_DEF_RATE c) ≠ 0 ∧ s.rd (R.TLY_DEF_RATE c) ≤ (s.live c).second
          (full → t.live c = { s.live c with suppressed := (s.live c).suppressed + 1 }) ∧
          (¬full → (t.live c).updates = (s.live c).updates + 1 ∧ (t.live c).second = (s.live c).second + 1 ∧
            (t.live c).suppressed = (s.live c).suppressed)))

/-- The power-fail sequence (R422, R423, R427 to R433, R463): a warning and its end, the power-down stop and its shedding, the reset by
the logic supply and what it keeps, the reset path, and what is measured of the supplies. The payload bytes of record 0x006 (log entry
13), HUREADY that clears at the trip, a warning in pit mode or in sleep (log entry 38), and an aborted fallback that returns to TRIAL
(log entry 45) are the model's choice; the abort of a gap before its step 3 is R464. -/
def Obligations.PowerFailEvents : Prop :=
  ∀ s : State,
    let pfw := s.rd R.PWR_STAT_PFW
    let pd := s.rd R.PWR_STAT_PDSTOP
    let aon := fun f : Fld => (0x1001003C * 64 ≤ f.key ∧ f.key < 0x1001003D * 64) ∨ (0x100F0000 * 64 ≤ f.key ∧ f.key < 0x10100000 * 64)
    let awake := s.rd R.PWR_STAT_PIT = 0 ∧ s.rd R.PWR_STAT_SLEEP = 0
    let warned := fun t : State => t.pwr.pfhold = true ∧ t.pwr.tripClk = s.clk ∧ t.pwr.tripTime = s.tstampNow ∧ t.mem = s.mem ∧
      (s.domOn 6 = true → t.rd R.NVS_STAT_PFWORDER = 1) ∧
      (¬awake → t.flash = s.flash ∧ t.tly = s.tly ∧ t.upd.gap = s.upd.gap ∧
        (s.domOn 6 = true → t.upd.record = (if s.rd R.NVS_STAT_PFWORDER = 1 then s.upd.record else s.updRecord))) ∧
      (awake →
        (∀ slot, s.domOn 5 = true → s.domOn 6 = true → s.tsk.save = none ∨ s.tsk.save = some (slot, 2) →
          t.rd R.TSK_RSTAT_SAVING = 1 ∧ ∃ k, t.tsk.save = some (k, 1)) ∧
        (s.rd R.TLY_STAT_FULL = 0 → s.tallyReady = true → s.sealedCodes.length ≤ s.tallyRoom →
          (∀ c, { t.live c with second := 0 } = ({} : TallyLive)) ∧ t.tly.missed = 0 ∧
            t.tly.sealing.length = s.tly.sealing.length + s.sealedCodes.length) ∧
        (∀ g, s.upd.gap = some g → g.marked = false → g.aborted = false →
          t.upd.gap = some { g with aborted := true, closed := true } ∧ t.lineUp 121 = true ∧
          t.rd R.UPD_LASTFAULT_FAULT = 0x1005 ∧ t.rd R.UPD_STAT_STATE = if g.fallback then 5 else 2) ∧
        (∀ g, s.upd.gap = some g → g.marked = true ∨ g.aborted = true → t.upd.gap = some g ∧ t.rd R.UPD_STAT_STATE = s.rd R.UPD_STAT_STATE))
    let down := fun t : State => t.mode = 0 ∧ t.rd R.PWR_STAT_PDSTOP = 1 ∧ t.lineUp 9 = true ∧ t.rd R.PWR_LASTFAULT_FAULT = 0x0202 ∧
      t.rd R.TSK_FAULT_FAULT = 0x0202 ∧ t.rd R.TSK_STAT_FLT = 1 ∧ (s.mode ≠ 0 → t.rd R.TSK_STAT_CAUSE = 6) ∧
      (∀ d < 16, t.domOn d = (s.domOn d && !([2, 3, 4, 9, 15].contains d))) ∧ t.pwr.pfhold = false ∧ t.pwr.shed = true ∧
      t.pwr.returned = false ∧ t.mem = s.mem ∧
      (∀ g, s.upd.gap = some g → g.aborted = true → t.upd.gap = none ∧ t.lineUp 122 = true)
    let reset := fun t : State => t.pwr = { held := true, cause := if s.pwr.path = 0 then 1 else s.pwr.path } ∧ t.mem = [] ∧
      t.flash = s.flash ∧ t.rtc = { s.rtc with window := none } ∧ t.tly.next = s.tly.next ∧ t.tly.live = [] ∧ t.key.keys = [] ∧
        t.key.root = s.key.root ∧
      (∀ f, aon f → t.rd f = s.rd f) ∧ (∀ f, ¬aon f → t.rd f = f.reset % 2 ^ f.width) ∧ t.pending = s.pending ∧
      (s.upd.gap = none → s.rd R.NVS_STAT_PFWORDER = 0 → t.upd.settings = s.upd.settings ∧ t.upd.marked = s.upd.marked ∧
        t.upd.bankA = s.upd.bankA ∧
        t.upd.bankB = s.upd.bankB ∧
        (let st := s.rd R.UPD_STAT_STATE
         st ≤ 5 → sget 0 t.upd.record R.UPD_STAT_STATE.key = if st ≤ 1 then 0 else if st ≤ 4 then 2 else 5))
    (pfw = 1 → exec .pfwTrip s = .next s) ∧
    (pfw = 0 → Completes .pfwTrip s (fun t => t.rd R.PWR_STAT_PFW = 1 ∧ t.lineUp 8 = true ∧ t.rd R.PWR_LASTFAULT_FAULT = 0x0201 ∧
      t.rd R.PWR_STAT_HUREADY = 0 ∧ (s.pwr.pfhold = true ∨ s.pwr.path ≠ 0 → t.pwr = s.pwr ∧ t.tly = s.tly ∧ t.upd = s.upd ∧ t.mem = s.mem) ∧
      (s.pwr.pfhold = false → s.pwr.path = 0 → warned t))) ∧
    (s.upd.gap = none → s.loading = .idle → s.host.erases = [] →
      (pfw = 0 → s.settled → s.nvs.due = [] → exec .pfwClear s = .next s) ∧
      (pfw = 1 → Completes .pfwClear s (fun t => t.rd R.PWR_STAT_PFW = 0 ∧ t.lineUp 8 = true ∧ t.mem = s.mem ∧
        (s.key.bootDue = false → s.upd.setDue = false → s.nvs.due = [] → t.flash = s.flash) ∧
        (pd = 1 → t.pwr = { s.pwr with returned := true, pfhold := false } ∧ t.tly = s.tly ∧ t.rd R.NVS_STAT_PFWORDER = 0) ∧
        (pd = 0 → s.pwr.path ≠ 0 → t.pwr = s.pwr ∧ t.tly = s.tly) ∧
        (pd = 0 → s.pwr.path = 0 →
          let d := min 65535 ((s.clk - s.pwr.tripClk) / 40000)
          t.pwr = { s.pwr with pfhold := false } ∧ t.rd R.PWR_RIDE_COUNT = min 65535 (s.rd R.PWR_RIDE_COUNT + 1) ∧
          t.rd R.PWR_RIDE_LAST = d ∧ t.rd R.PWR_LASTFAULT_FAULT = 0x0203 ∧ t.lineUp 10 = true ∧ t.rd R.NVS_STAT_PFWORDER = 0 ∧
          ∃ snap, t.tly.events = s.tly.events ++
            [⟨0x006, toLE 8 s.pwr.tripTime ++ toLE 4 d ++ toLE 4 snap, s.tstampNow⟩])))) ∧
    (s.pwr.pfhold = false ∨ pd = 1 → exec .pfholdExpiry s = .next s) ∧
    (s.pwr.pfhold = true → pd = 0 → Completes .pfholdExpiry s down) ∧
    (pfw = 0 ∨ pd = 1 → exec .holdupRailLow s = .next s) ∧
    (pfw = 1 → pd = 0 → Completes .holdupRailLow s down) ∧
    (s.pwr.shed = false → exec .powerDownShed s = .next s) ∧
    (s.pwr.shed = true → Completes .powerDownShed s (fun t => t.pwr = { s.pwr with shed := false } ∧ t.mem = s.mem ∧
      ∀ d < 16, t.domOn d = (s.domOn d && !([7, 8].contains d)))) ∧
    (s.pwr.held = true → exec .holdupRailExhausted s = .next s) ∧
    (s.pwr.held = false → Completes .holdupRailExhausted s reset) ∧
    (pd = 0 ∨ (s.pwr.returned = false ∧ s.pwr.path = 0) → exec .resetTimerExpiry s = .next s) ∧
    (pd = 1 → s.pwr.returned = true ∨ s.pwr.path ≠ 0 → s.pwr.held = false → Completes .resetTimerExpiry s reset) ∧
    (∀ o ∈ [(Instr.resetInput, 2), (.pwrReset, 3)],
      (s.pwr.path ≠ 0 → exec o.1 s = .next s) ∧
      (s.pwr.path = 0 → s.pwr.pfhold = true ∨ pd = 1 → exec o.1 s = .next { s with pwr := { s.pwr with path := o.2 } }) ∧
      (s.pwr.path = 0 → s.pwr.pfhold = false → pd = 0 → Completes o.1 s (fun t => t.pwr.path = o.2 ∧ warned t))) ∧
    (∀ mJ : BitVec 16, Completes (.holdupTest mJ) s (fun t =>
      t.rd R.PWR_HUJ_MJ = mJ.toNat ∧ t.rd R.PWR_STAT_HUREADY = 0 ∧ t.rd R.PWR_STAT_HULOW = (if mJ.toNat < 900 then 1 else 0) ∧
      (mJ.toNat < 900 → t.rd R.PWR_LASTFAULT_FAULT = 0x0206 ∧ t.lineUp 14 = true) ∧
      (t.rd R.PWR_STAT_HULOW ≠ s.rd R.PWR_STAT_HULOW ∨ s.rd R.PWR_STAT_HUREADY = 1 → t.lineUp 14 = true) ∧
      OnlyRegs (R.PWR_HUJ_MJ :: R.PWR_STAT_HUREADY :: R.PWR_STAT_HULOW :: R.PWR_LASTFAULT_FAULT :: lineFlds 14) s t)) ∧
    (s.rd R.PWR_STAT_HUREADY = 1 → exec .holdupCharged s = .next s) ∧
    (s.rd R.PWR_STAT_HUREADY = 0 → Completes .holdupCharged s (fun t => t.rd R.PWR_STAT_HUREADY = 1 ∧ t.lineUp 14 = true ∧
      OnlyRegs (R.PWR_STAT_HUREADY :: lineFlds 14) s t)) ∧
    ∀ mV : BitVec 16, Completes (.cellMeasure mV) s (fun t =>
      let low := if mV.toNat < 2500 then 1 else 0
      let gone := if mV.toNat < 1000 then 1 else 0
      t.rd R.PWR_CELLV_MV = mV.toNat ∧ t.rd R.UPD_CELLV_MV = mV.toNat ∧ t.rd R.PWR_STAT_CELLLOW = low ∧
      t.rd R.PWR_STAT_CELLABS = gone ∧
      (s.rd R.PWR_STAT_CELLLOW ≠ low ∨ s.rd R.PWR_STAT_CELLABS ≠ gone → t.lineUp 13 = true) ∧
      (s.rd R.PWR_STAT_CELLLOW < low ∨ s.rd R.PWR_STAT_CELLABS < gone → t.rd R.PWR_LASTFAULT_FAULT = 0x0207) ∧
      OnlyRegs (R.PWR_CELLV_MV :: R.UPD_CELLV_MV :: R.PWR_STAT_CELLLOW :: R.PWR_STAT_CELLABS :: R.PWR_LASTFAULT_FAULT ::
        lineFlds 13) s t)

/-- Power domains, sleep, pit mode and the boot (R181, R366, R379, R383, R425, R426, R431, R434, R435, R437): a write of PWR_DOMEN, a
domain that becomes ready, the release from reset, and the start action. That MEM which goes off loses its bytes (log entry 10),
PWR_DOMEN 0xFFFF where the settings name none (log entry 36), PWR_DOMEN 0x43 in pit mode (log entry 38) and ROOTFAIL that shows again
at a later start (log entry 62) are the model's choice; what refuses sleep is R462 with Table 20.3. -/
def Obligations.PowerDomainEvents : Prop :=
  ∀ s : State,
    let ready := fun (t : State) d => bitOf (t.rd R.PWR_DOMSTAT_READY) d
    let blocks := [(2, 0x10040000, 0x10060000), (3, 0x10060000, 0x10080000), (4, 0x10080000, 0x10090000),
      (5, 0x100B0000, 0x100C0000), (6, 0x10130000, 0x10140000), (7, 0x100C0000, 0x100C1000), (7, 0x100C1300, 0x100D0000), (8, 0x100D0000, 0x100E0000),
      (9, 0x10100000, 0x10110000), (15, 0x100A0000, 0x100B0000)]
    let counters := fun f : Fld => 0x100C1000 * 64 ≤ f.key ∧ f.key < 0x100C1300 * 64
    let pit := fun t : State => t.rd R.PWR_STAT_PIT = 1 ∧ t.rd R.PWR_DOMEN_EN = 0x43 ∧
      ∀ d < 16, (t.domOn d = true ↔ d = 0 ∨ d = 1 ∨ d = 6)
    (∀ value : Word,
      let v := value.toNat % 65536
      let ok := v % 4 = 3 ∧ s.rd R.PWR_STAT_PIT = 0 ∧
        (s.mode = 0 ∨ ∀ d < 16, bitOf (s.rd R.PWR_DOMEN_EN) d = true → bitOf v d = true ∨ d = 7 ∨ d = 8 ∨ d = 9) ∧
        ∀ d < 16, bitOf v d = true → (d ∈ [2, 3, 4, 7, 8, 9] → bitOf v 5 = true) ∧ (d = 4 ∨ 11 ≤ d → bitOf v 10 = true)
      (¬ok → Completes (.domainSwitch value) s (fun t => t.rd R.PWR_LASTFAULT_FAULT = 0x0204 ∧ t.lineUp 11 = true ∧
        OnlyRegs (R.PWR_LASTFAULT_FAULT :: lineFlds 11) s t)) ∧
      (ok → Completes (.domainSwitch value) s (fun t => t.rd R.PWR_DOMEN_EN = v ∧ t.flash = s.flash ∧
        (∀ d < 16, t.domOn d = bitOf v d ∧ (s.domOn d = true → ready t d = (ready s d && bitOf v d)) ∧
          (s.domOn d = true → bitOf v d = false → t.lineUp 11 = true)) ∧
        (s.domOn 5 = bitOf v 5 → t.mem = s.mem) ∧ (s.domOn 5 = true → bitOf v 5 = false → t.mem = []) ∧
        (∀ f, counters f → t.rd f = s.rd f) ∧
        ∀ b ∈ blocks, s.domOn b.1 = bitOf v b.1 ∨ (b.1 = 5 ∧ bitOf v 5 = true) ∨
          ∀ f : Fld, b.2.1 * 64 ≤ f.key → f.key < b.2.2 * 64 → t.rd f = f.reset % 2 ^ f.width))) ∧
    (∀ (d : Fin 16) (healthy : Bool),
      let due := s.domOn d = true ∧ ready s d = false ∧ d ≠ 6 ∧ (d = 5 → s.rd R.MEM_STAT_INITDONE = 1)
      (¬due → exec (.domainReady d healthy) s = .next s) ∧
      (due → s.upd.settings.regs = [] → Completes (.domainReady d healthy) s (fun t => ready t d = true ∧ t.lineUp 11 = true ∧
        (d = 9 → s.upd.owner = [] →
          (∀ r, s.key.root = some r → t.key.root = some r ∧ t.rd R.KEY_STAT_ROOTOK = 1 ∧
            t.slotKey 0 = deriveKey r (asciiOf "store") 3 false 1 ∧ t.slotHas 0 3 = true) ∧
          (s.key.root = none → s.key.rootTried = true → t.rd R.KEY_STAT_ROOTFAIL = 1 ∧ t.key.root = none) ∧
          (s.key.root = none → s.key.rootTried = false → healthy = true → t.rd R.KEY_STAT_ROOTOK = 1 ∧
            t.key.root = some (toLE 32 (Config.entropy s.key.draws))) ∧
          (s.key.root = none → s.key.rootTried = false → healthy = false → t.rd R.KEY_STAT_ROOTFAIL = 1 ∧ t.key.root = none ∧
            t.lineUp 114 = true) ∧
          (s.nvsFree = false → t.key.bootDue = true ∧ t.flash = s.flash) ∧
          (∀ a b, s.nvsFree = true → s.nvs.worn = [] → s.bootRead 0 = some a → s.bootRead 1 = some b →
            t.rd R.KEY_BOOT_BOOT = (max a b + 1) % 2 ^ 32 ∧
            t.key.counts = []))))) ∧
    (s.pwr.held = false → ∀ noSettings noLog, exec (.resetRelease noSettings noLog) s = .next s) ∧
    (s.pwr.held = true → ∀ noSettings noLog,
      let u := State.tallyStart { s.wr R.PWR_RSTCAUSE_CAUSE s.pwr.cause with pwr := { s.pwr with held := false } } noLog
      let set := (((u.restoreUpd s.flashView).readBank 0).readBank 1).readSettings
      let bad := noSettings = true ∨ set.2 = false ∨ (s.bankBoots 0 = false ∧ s.bankBoots 1 = false)
      Completes (.resetRelease noSettings noLog) s (fun t => t.pwr.held = false ∧
        (s.upd.record = [] → s.nvs.foreign = [] → s.nvs.unreadable = [] → set.1.upd.settings.regs = [] →
          t.rd R.UPD_STAT_STATE = 0 ∧ t.tly.live = [] ∧ t.tly.next = s.tly.next % 2 ^ 32 ∧
          t.flash = s.flash ∧ t.rd R.PWR_RSTCAUSE_CAUSE = s.pwr.cause % 8 ∧
          (s.rd R.RTC_STAT_AONRST = 1 → t.rd R.RTC_STAT_AONRST = 0) ∧
          (s.upd.marked < 2 → s.bankBoots s.upd.marked = true → t.rd R.UPD_BANK_ACTIVE = s.upd.marked) ∧ (bad → pit t) ∧
          (¬bad → t.pwr.imageDue = true ∧ t.upd.settings = set.1.upd.settings ∧ t.rd R.TSK_CFG_START = set.1.upd.settings.start.toNat % 4 ∧
            (s.rd R.PWR_STAT_PIT = 0 → s.mode = 0 → t.rd R.PWR_DOMEN_EN = 0xFFFF ∧ ∀ d < 16, t.domOn d = true))))) ∧
    (s.pwr.starting = false → exec .powerOnRunRequest s = .next s) ∧
    (s.pwr.starting = true →
      (∀ f, s.runBlocked = some f → Completes .powerOnRunRequest s (fun t =>
        t = { (if f = 0x0205 then s.wr R.PWR_LASTFAULT_FAULT 0x0205 else s) with
          pwr := { s.pwr with starting := false }, lastReport := f })) ∧
      (∀ (im : Image) (led : List LedgerEntry), s.runBlocked = none → s.tsk.save = none → s.nvsComing = false → s.rd R.UPD_STAT_STATE ≠ 5 →
        s.upd.fallDue = none → s.img = some im → s.controlDomains = true → s.phsOk = true → s.taskTableOk = true →
        s.domOn 4 = true → (∀ u : State, u.regs = s.regs → u.img = s.img → admitImage u im.view im = .inr led) →
        Completes .powerOnRunRequest s (fun t => t.pwr.starting = false ∧ t.tsk.entry = .restarting ∧ t.ledger = led ∧ t.mode = 0 ∧
          (s.rd R.TSK_CFG_START = 2 → t.rd R.TSK_RSTAT_KIND = 1) ∧
          (s.rd R.TSK_CFG_START ≠ 2 → t.rd R.TSK_RSTAT_KIND = 2 ∨ t.rd R.TSK_RSTAT_KIND = 3)))) ∧
    (let may := s.mode = 0 ∧ s.rd R.UPD_STAT_STATE ≠ 3 ∧ s.inGap = false ∧ s.rd R.UPD_STAT_FALLPEND = 0
     (¬may → Completes .pwrSleep s (fun t => t.rd R.PWR_LASTFAULT_FAULT = 0x0204 ∧ OnlyRegs [R.PWR_LASTFAULT_FAULT] s t)) ∧
     (may → Completes .pwrSleep s (fun t => t.rd R.PWR_STAT_SLEEP = 1 ∧ t.tsk.entry = .none ∧ t.flash = s.flash ∧ ∀ d < 16,
       t.domOn d = (s.domOn d && (!bitOf (s.rd R.PWR_SLEEPMASK_MASK) d || d == 0 || d == 1 || d == 6))))) ∧
    (let may := s.mode = 0 ∧ s.inGap = false ∧ s.rd R.PWR_STAT_PIT = 0
     (¬may → exec .pwrPit s = .next s) ∧ (may → Completes .pwrPit s pit)) ∧
    (let wakes := s.rd R.PWR_STAT_SLEEP = 1 ∧ bitOf (s.rd R.PWR_WAKEEN_EN) 2 = true
     (¬wakes → exec .aditConnection s = .next s) ∧
     (wakes → Completes .aditConnection s (fun t => t.rd R.PWR_STAT_SLEEP = 0 ∧ bitOf (t.rd R.PWR_WAKESRC_SRC) 2 = true ∧
       t.lineUp 12 = true ∧ ∀ d < 16, t.domOn d = (s.domOn d ||
         bitOf (if s.rd R.PWR_STAT_PIT = 1 then 0x43 else s.rd R.PWR_DOMEN_EN) d))))

/-- Updates (R402 to R407, R410 to R416, R419): chunks staged, a set verified, its slices, schedules, abort, confirmation, the lock,
the settings, the slices' switch, the end of a gap, and the trial's end. Where SLSTAGE holds each slice image (log entry 33), the faults
of a KIND, a KIND already staged that begins a new set, and stage messages refused with line 121 alone (log entry 44), the owner node that
waits for KEY (log entry 75), STATE that stays until the first boundary of RUN (log entry 45) and the steps after a failed migration (log
entry 46) are the model's choice; that a backward step of TIM owes a passing of FALLSLOT is Table 20.4. -/
def Obligations.UpdateEvents : Prop :=
  ∀ s : State,
    let st := s.rd R.UPD_STAT_STATE
    let other := s.otherBank
    let refused := fun fault fs t => t.rd R.UPD_LASTFAULT_FAULT = fault ∧ OnlyRegs (R.UPD_LASTFAULT_FAULT :: fs) s t
    let dropped := fun t : State => t.upd.images = [] ∧ t.upd.whole = [] ∧ t.upd.verified = false
    let back := fun fault t => t.rd R.UPD_STAT_STATE = 2 ∧ t.rd R.UPD_LASTFAULT_FAULT = fault ∧ t.lineUp 121 = true ∧
      t.lineUp 120 = true ∧ t.upd = s.upd
    let free := s.nvsFree = true ∧ s.nvs.due = []
    let newFmt := { s.upd.settings with fmt := BitVec.ofNat 16 (s.fwBank s.upd.marked).setfmt }
    (∀ (port : Fin 9) (id : Word), s.scope port = 1 → s.rd R.PWR_STAT_SLEEP = 0 → s.rd R.PWR_STAT_PIT = 0 →
      s.nvs.notReady = false → s.owedTo port.val = [] →
      let said := fun type fault body t => t.host.reply = some ⟨port, type, id.toNat, fault, body⟩
      (port = 8 → ∀ (k : Byte) (ofs : Word) (chunk : List Byte) (last : Bool), 16 + chunk.length ≤ 1048576 →
        let kind := k.toNat
        let barred := 3 ≤ st ∨ s.moving = true ∨ s.cellLow = true ∨ s.ownerLock = true ∨ s.updBusy = true
        let stage := Completes (.stage port id k ofs chunk last) s
        let no := fun fault t => said 0x70 fault [] t ∧ refused fault (lineFlds 121) t ∧ t.lineUp 121 = true ∧ t.upd = s.upd
        let room := 128 + if kind = 1 then 24 * 1048576 else 458752
        (barred → stage (no 0x1005)) ∧
        (¬barred → kind = 0 ∨ 3 < kind → stage (no 0x1003)) ∧
        (¬barred → 1 ≤ kind → kind ≤ 3 → room < ofs.toNat + chunk.length → stage (no 0x1001)) ∧
        (¬barred → 1 ≤ kind → kind ≤ 3 → ofs.toNat + chunk.length ≤ room →
          let new := st = 0 ∨ (st = 2 ∧ kind ∈ s.upd.whole)
          stage (fun t => said 0x70 0 [] t ∧ t.rd R.UPD_STAT_STATE = 1 ∧ t.mem = s.mem ∧ (st ≠ 1 → t.lineUp 120 = true) ∧
            t.stagedBytes kind = layChunk (if new ∨ kind ∈ s.upd.whole then [] else s.stagedBytes kind) chunk ofs.toNat ∧
            (last = true → kind ∈ t.upd.whole) ∧
            (∀ j, j ≠ kind → t.stagedBytes j = if new then [] else s.stagedBytes j) ∧
            (let at' := s.stageAddr kind + ofs.toNat
             (free → t.nvs.due = [] ∧ (s.nvs.worn = [] → readBytes t.flash at' chunk.length = chunk) ∧
               ∀ a, a < at' ∨ at' + chunk.length ≤ a → sget 0 t.flash a =
                 if new ∧ ((fwBase other ≤ a ∧ a < fwBase other + 0x2000000) ∨ (stageBase ≤ a ∧ a < stageBase + 0x200000)) then 0
                 else sget 0 s.flash a) ∧
             (¬free → t.flash = s.flash ∧ t.nvs.due = s.nvs.due ++
               (if new then [.trim (fwBase other) 0x2000000, .trim stageBase 0x200000] else []) ++ [.put at' chunk])) ∧
            (new → (t.fwBank other).valid = false ∧ t.rd R.UPD_SLSTAT_SLICE = 0 ∧ ∀ n < 6, (t.sliceOf n).staged = none) ∧
            t.fwBank (1 - other) = s.fwBank (1 - other)))) ∧
      (∀ (time : DWord) (group : BitVec 16),
        let can := (st = 2 ∨ st = 3) ∧ s.moving = false ∧ s.cellLow = false ∧ s.ownerLock = false ∧ s.updBusy = false
        let ask := Completes (.schedule port id time group) s
        (¬can → ask (fun t => said 0x71 0x1005 [] t ∧ refused 0x1005 [] t)) ∧
        (can → time.toNat < s.tstampNow + 2000000000 → ask (fun t => said 0x71 0x100B [] t ∧ refused 0x100B [] t)) ∧
        (can → s.tstampNow + 2000000000 ≤ time.toNat → ask (fun t =>
          said 0x71 0 [] t ∧ t.rd R.UPD_STAT_STATE = 3 ∧ t.rd R.UPD_ACTTIME_TIME = time.toNat ∧
          t.rd R.UPD_GROUP_GROUP = group.toNat ∧ (st = 2 → t.lineUp 120 = true) ∧
          (s.nvs.worn = [] → OnlyRegs (R.UPD_STAT_STATE :: R.UPD_ACTTIME_TIME :: R.UPD_GROUP_GROUP :: lineFlds 120) s t)))) ∧
      (st ≠ 5 → Completes (.confirm port id) s (fun t => said 0x72 0x1005 [] t ∧ refused 0x1005 [] t)) ∧
      (st = 5 → Completes (.confirm port id) s (fun t => said 0x72 0 [] t ∧ t.rd R.UPD_STAT_STATE = 0 ∧
        t.rd R.UPD_STAT_FALLPEND = 0 ∧ t.rd R.UPD_CONFLEFT_SEC = 0 ∧ t.upd.fallDue = none ∧ t.upd.heldOff = false ∧
        t.lineUp 120 = true ∧ t.upd.owner = s.upd.owner ∧
        t.upd.settings = (if s.rd R.UPD_CFG_SETMODE = 1 then newFmt else s.upd.settings) ∧
        (s.nvs.worn = [] →
          OnlyRegs (R.UPD_STAT_STATE :: R.UPD_STAT_FALLPEND :: R.UPD_CONFLEFT_SEC :: lineFlds 120) s t))) ∧
      (∀ group : BitVec 16,
        let mine := group.toNat = s.rd R.UPD_GROUP_GROUP
        (¬mine ∨ st = 0 ∨ 3 < st → Completes (.abort port id group) s (fun t => said 0x73 0 [] t ∧ OnlyRegs [] s t)) ∧
        (mine → st = 3 → Completes (.abort port id group) s (fun t => said 0x73 0 [] t ∧ t.rd R.UPD_STAT_STATE = 2 ∧
          t.lineUp 121 = true ∧ t.upd = s.upd)) ∧
        (mine → st = 1 ∨ st = 2 → Completes (.abort port id group) s (fun t => said 0x73 0 [] t ∧ t.rd R.UPD_STAT_STATE = 0 ∧
          t.lineUp 120 = true ∧ dropped t))) ∧
      (∀ (v : Byte) (mac : List Byte),
        let good := v.toNat ≤ 1 ∧ s.slotHas 2 2 = true ∧
          hmac256 (s.slotKey 2) (asciiOf "lock" ++ macBytes ++ [v] ++ toLE 4 (s.rd R.UPD_LOCKCNT_COUNT)) = mac
        (¬good → Completes (.lock port id v mac) s (fun t => said 0x74 0x100A [] t ∧ refused 0x100A [] t)) ∧
        (good → Completes (.lock port id v mac) s (fun t => said 0x74 0 [] t ∧ t.rd R.UPD_STAT_OWNER_LOCK = v.toNat ∧
          t.rd R.UPD_LOCKCNT_COUNT = (s.rd R.UPD_LOCKCNT_COUNT + 1) % 2 ^ 32 ∧
          OnlyRegs [R.UPD_STAT_OWNER_LOCK, R.UPD_LOCKCNT_COUNT] s t))) ∧
      (port = 8 → Completes (.settingsGet port id) s (fun t => said 0x75 0 (recordBytes s.upd.settings) t ∧ OnlyRegs [] s t)) ∧
      (port = 8 → ∀ (r : SettingsRec) (own : Option (List Byte)),
        (s.mode ≠ 0 ∨ s.inGap = true → Completes (.settingsPut port id r own) s (fun t =>
          said 0x76 0x1005 [] t ∧ refused 0x1005 [] t ∧ t.upd = s.upd)) ∧
        (s.mode = 0 → s.inGap = false → Completes (.settingsPut port id r own) s (fun t =>
          let trims := s.nvs.worn = [] → OnlyFields [R.RTC_TRIM_T0, R.RTC_TRIM_CURV, R.RTC_TRIMOFS_OFS] s t
          let takes := s.domOn 9 = true ∧ bitOf (s.rd R.PWR_DOMSTAT_READY) 9 = true
          said 0x76 0 [] t ∧ t.upd.settings = r ∧ t.mem = s.mem ∧ t.flash = s.flash ∧
          (own = none → t.upd.owner = s.upd.owner ∧ t.key = s.key ∧ trims) ∧
          (∀ v : DWord, r.regs = [(0x100F0038, v)] → t.rd R.RTC_TRIM_T0 = v.toNat % 65536 ∧
            t.rd R.RTC_TRIM_CURV = v.toNat / 65536 % 65536) ∧
          ∀ node, own = some node →
            (¬takes → t.key = { s.key with ownerDue := some (fitBytes 32 node) } ∧ t.upd.owner = s.upd.owner ∧ trims) ∧
            (takes → s.rd R.KEY_RESULT_BUSY = 1 → t.key = { s.key with due := s.key.due ++ [.owner (fitBytes 32 node)] } ∧
              t.upd.owner = s.upd.owner ∧ trims) ∧
            (takes → s.rd R.KEY_RESULT_BUSY = 0 → t.slotKey 1 = fitBytes 32 node ∧ t.slotHas 1 4 = true ∧ t.lineUp 112 = true ∧
              (s.storeKey = true → t.key.ownerDue = none ∧ t.upd.owner = Aes.wrap (s.slotKey 0)
                [0xA6, 0xA6, 0xA6, 0xA6, 0x4B, 4, 1, 0] (fitBytes 32 node)) ∧
              (s.storeKey = false → t.key.ownerDue = some (fitBytes 32 node) ∧ t.upd.owner = s.upd.owner)))))) ∧
    (let im := s.stagedImage 1
     let due := st = 1 ∧ s.upd.whole ≠ [] ∧ free
     let refusedSet := fun fault t => t.rd R.UPD_STAT_STATE = 0 ∧ t.rd R.UPD_LASTFAULT_FAULT = fault ∧ t.lineUp 121 = true ∧
       dropped t ∧ t.flash = s.flash ∧ t.upd.bankA = s.upd.bankA ∧ t.upd.bankB = s.upd.bankB
     let absent := fun t : State => ∀ n < 6, sliceKind n ∈ s.upd.whole → s.present n = false → t.slStat n = 3
     (¬due → exec .stageVerifyDone s = .next s) ∧
     (due → 1 ∈ s.upd.whole → ∀ f, s.fwFault im = some f → Completes .stageVerifyDone s (refusedSet (f % 65536))) ∧
     (due → 1 ∉ s.upd.whole → s.upd.twice = true → Completes .stageVerifyDone s (refusedSet 0x1003)) ∧
     (due → 1 ∉ s.upd.whole → s.upd.twice = false → Completes .stageVerifyDone s (fun t => absent t ∧
       OnlyRegs [R.UPD_SLSTAT_SLICE] s t ∧ t.upd = s.upd)) ∧
     (due → 1 ∈ s.upd.whole → s.fwFault im = none → Completes .stageVerifyDone s (fun t => absent t ∧ t.flash = s.flash ∧
       (t.fwBank other).valid = true ∧ (t.fwBank other).version = (fwHeader im).version ∧ t.fwBank (1 - other) = s.fwBank (1 - other) ∧
       t.rd R.UPD_BANK_OTHERVALID = 1 ∧ t.upd.verified = true ∧
       t.rd R.UPD_STAT_STATE = if s.upd.images.all (fun c => s.upd.whole.contains c.1) then 2 else 1)) ∧
     (fwShape im = false → s.fwFault im = some 0x1001) ∧ im = readBytes s.legible (s.stageAddr 1) (s.stagedBytes 1).length) ∧
    (∀ (sl : AnySlice) (ok : Bool),
      let k := if sl.val < 4 then 2 else 3
      let due := 1 ≤ st ∧ st ≤ 3 ∧ k ∈ s.upd.whole ∧ s.present sl.val = true
      let good := ok && s.sliceImageOk k
      (¬due → exec (.sliceImageVerified sl ok) s = .next s) ∧
      (due → Completes (.sliceImageVerified sl ok) s (fun t => t.slStat sl.val = (if good then 1 else 2) ∧
        (t.sliceOf sl.val).staged = (if good then some (fwHeader (s.stagedImage k)).version else none) ∧
        (∀ n < 6, n ≠ sl.val → t.slStat n = s.slStat n) ∧
        (good = false → st = 3 → t.rd R.UPD_STAT_STATE = 2 ∧ t.rd R.UPD_LASTFAULT_FAULT = 0x1006 ∧ t.lineUp 121 = true) ∧
        (good = true ∨ st ≠ 3 → t.rd R.UPD_STAT_STATE = st)))) ∧
    (let late := ∃ k ∈ s.upd.whole, ∃ n < 6, ((k = 2 ∧ n < 4) ∨ (k = 3 ∧ 4 ≤ n)) ∧ (s.slStat n ≠ 1 ∨ s.present n = false)
     (st ≠ 3 ∨ ¬late → exec .sliceVerifyDeadline s = .next s) ∧ (st = 3 → late → Completes .sliceVerifyDeadline s (back 0x1006))) ∧
    (s.upd.gap = none ∨ (∃ g, s.upd.gap = some g ∧ (g.switched = true ∨ g.aborted = true)) → exec .sliceBankSwitch s = .next s) ∧
    (∀ g, s.upd.gap = some g → g.switched = false → g.aborted = false → Completes .sliceBankSwitch s (fun t =>
      t.upd.gap = some { g with switched := true } ∧ t.mem = s.mem ∧ t.flash = s.flash ∧ ∀ n < 6,
        ((s.sliceOf n).staged = none → t.sliceOf n = s.sliceOf n) ∧
        (∀ v, (s.sliceOf n).staged = some v → (t.sliceOf n).up = false ∧ (t.sliceOf n).switching = true ∧
          (t.sliceOf n).version = v % 65536 ∧ (t.sliceOf n).bank = 1 - (s.sliceOf n).bank % 2 ∧
          (t.sliceOf n).staged = some (s.sliceOf n).version))) ∧
    (s.upd.gap = none ∨ (∃ g, s.upd.gap = some g ∧ (g.marked = false ∨ g.closed = true ∨ s.upd.ended ≠ none)) →
      ∀ m, exec (.gapEnd m) s = .next s) ∧
    (∀ g m, s.upd.gap = some g → g.marked = true → g.closed = false → g.aborted = false → s.upd.ended = none →
      let dual := s.rd R.UPD_CFG_SETMODE = 1
      let failed := m = true ∧ g.cause = 0 ∧ g.fallback = false ∧ ¬dual
      let trial := g.fallback = false ∧ g.cause = 0
      let banked := fun t : State => t.upd.marked = s.upd.marked ∧ (s.upd.marked < 2 → t.rd R.UPD_BANK_ACTIVE = s.upd.marked)
      (failed → Completes (.gapEnd m) s (fun t => t.rd R.UPD_LASTFAULT_FAULT = 0x1008 ∧ OnlyRegs [R.UPD_LASTFAULT_FAULT] s t ∧
        t.upd = { s.upd with gap := some { g with cause := 1, newVer := g.oldVer, switched := !g.switched },
                             marked := s.rd R.UPD_BANK_ACTIVE, firstStart := false })) ∧
      (¬failed → g.fromRun = false ∨ g.toStop = true ∨ s.rd R.TSK_STAT_FLT = 1 → (∀ cold, s.tsk.entry ≠ .waitGap cold) →
        Completes (.gapEnd m) s (fun t => banked t ∧ t.upd.gap = none ∧ t.mode = s.mode ∧ t.lineUp 122 = true ∧
          t.rd R.UPD_STAT_STATE = (if trial then 5 else 0) ∧ t.rd R.UPD_STAT_FALLPEND = 0 ∧
          t.rd R.UPD_CONFLEFT_SEC = (if trial then max 1 (s.rd R.UPD_CFG_CONFWIN) * 3600 else 0) ∧
          t.rd R.UPD_GAPLAST_US = (s.clk - g.start) / 400 % 2 ^ 32 ∧ t.mem = s.mem ∧ t.flash = s.flash ∧
          (g.cause = 1 → t.upd.settings = s.upd.settings ∧ t.upd.owner = s.upd.owner ∧ t.upd.backup = s.upd.backup) ∧
          (g.cause ≠ 1 → g.fallback = true → ¬dual → t.upd.backup = none ∧
            (s.upd.backup = none → t.upd.settings = s.upd.settings ∧ t.upd.owner = s.upd.owner) ∧
            ∀ c, s.upd.backup = some c → t.upd.settings = c.record ∧ t.upd.owner = c.owner) ∧
          (g.cause ≠ 1 → g.fallback = true → dual → t.upd.settings = newFmt ∧ t.upd.owner = s.upd.owner) ∧
          (g.cause ≠ 1 → g.fallback = false → dual → t.upd.settings = s.upd.settings) ∧
          (g.cause ≠ 1 → g.fallback = false → ¬dual → t.upd.settings = newFmt ∧
            t.upd.backup = some ⟨s.upd.settings, s.upd.owner, 0⟩) ∧
          ∃ p, t.tly.events = s.tly.events ++ [⟨0x00A, p, s.tstampNow⟩] ∧ p.take 14 = toLE 1 (b2n g.fallback) ++
            toLE 1 g.cause ++ toLE 4 g.oldVer ++ toLE 4 g.newVer ++ toLE 4 (t.rd R.UPD_GAPLAST_US))) ∧
      (∀ (im : Image) (led : List LedgerEntry), ¬failed → g.fromRun = true → g.toStop = false → s.rd R.TSK_STAT_FLT = 0 →
        s.runUnfit = none → s.tsk.save = none → s.nvsComing = false → s.nvs.worn = [] →
        (g.fallback = true → ¬dual → ∀ c, s.upd.backup = some c → c.owner = s.upd.owner) →
        s.img = some im → s.controlDomains = true → s.phsOk = true → s.taskTableOk = true → s.domOn 4 = true →
        (∀ u : State, u.img = s.img → OnlyFields [R.UPD_BANK_ACTIVE, R.UPD_BANK_OTHERVALID, R.UPD_VER_VERSION 0,
          R.UPD_VER_VERSION 1] s u → admitImage u im.view im = .inr led) →
        Completes (.gapEnd m) s (fun t => banked t ∧ t.upd.ended = some { g with closed := true } ∧ t.tsk.entry = .restarting ∧
          t.rd R.UPD_STAT_STATE = st))) ∧
    (st ≠ 5 ∨ s.rd R.UPD_STAT_FALLPEND = 1 → exec .confirmationExpired s = .next s) ∧
    (st = 5 → s.rd R.UPD_STAT_FALLPEND = 0 → Completes .confirmationExpired s (fun t => t.rd R.UPD_CONFLEFT_SEC = 0 ∧
      t.rd R.UPD_STAT_FALLPEND = 1 ∧ t.rd R.UPD_LASTFAULT_FAULT = 0x1009 ∧ t.lineUp 123 = true ∧ t.rd R.UPD_STAT_STATE = 5 ∧
      OnlyRegs (R.UPD_CONFLEFT_SEC :: R.UPD_STAT_FALLPEND :: R.UPD_LASTFAULT_FAULT :: lineFlds 123) s t)) ∧
    (s.upd.heldOff = false → exec .fallbackRetry s = .next s) ∧
    (s.upd.slotBack ≠ 0 → exec .fallbackSlot s = .next { s with upd := { s.upd with slotBack := s.upd.slotBack - 1 } }) ∧
    ∀ c, (c = Instr.fallbackSlot ∧ s.upd.slotBack = 0) ∨ (c = Instr.fallbackRetry ∧ s.upd.heldOff = true) →
      let due := st = 5 ∧ s.rd R.UPD_STAT_FALLPEND = 1
      (¬due → exec c s = .next s) ∧
      (due → s.moving = true ∨ s.cellLow = true → Completes c s (fun t =>
        t.upd = { s.upd with heldOff := true } ∧ OnlyRegs [] s t)) ∧
      (due → s.moving = false → s.cellLow = false → Completes c s (fun t =>
        t.upd = { s.upd with fallDue := some 2, heldOff := false } ∧ OnlyRegs [] s t))

/-! ## Modes -/

/-- The controller is in STOP, RUN or HOLD (R97): no step, from any state in which MODE of TSK_STAT is one of the three, leaves it at its
fourth, undefined value. -/
def Obligations.EveryStepKeepsLegalMode : Prop :=
  ∀ s t : State, s.legalMode = true → step s = .next t → t.legalMode = true

end
end

