-- ==== Sys2Proof/Laws/Mem.lean ====
section
/-! SUPPORT. The laws of sparse maps: a read after a write, a write leaves every other key alone, and every operation keeps the
canonical form. -/

namespace Sys2Proof.Machine

variable {α : Type}

/-! ### Reading -/

@[simp] theorem sget_nil (d : α) (k : Nat) : sget d [] k = d := rfl

theorem sget_cons (d : α) (c : Nat × α) (t : Sparse α) (k : Nat) :
    sget d (c :: t) k = if k = c.1 then c.2 else sget d t k := rfl

/-- A key that no entry carries reads as the default. -/
theorem sget_absent (d : α) (m : Sparse α) (k : Nat) (h : ∀ c ∈ m, c.1 ≠ k) : sget d m k = d := by
  induction m with
  | nil => rfl
  | cons c t ih =>
    have hc : k ≠ c.1 := fun e => h c (by simp) e.symm
    rw [sget_cons, if_neg hc]
    exact ih fun x hx => h x (by simp [hx])

@[simp] theorem sget_sdel_same (d : α) (m : Sparse α) (k : Nat) : sget d (sdel m k) k = d := by
  induction m with
  | nil => rfl
  | cons c t ih => by_cases h : k = c.1 <;> simp [sdel, sget, h, ih] <;> simpa [h] using ih

theorem sget_sdel_other (d : α) (m : Sparse α) {k j : Nat} (h : j ≠ k) : sget d (sdel m k) j = sget d m j := by
  induction m with
  | nil => rfl
  | cons c t ih =>
    by_cases hk : k = c.1
    · subst hk; simp [sdel, sget, h, ih]
    · by_cases hj : j = c.1 <;> simp [sdel, sget, hk, hj, ih]

@[simp] theorem sget_sins_same (d : α) (m : Sparse α) (k : Nat) (v : α) : sget d (sins m k v) k = v := by
  induction m with
  | nil => simp [sins, sget]
  | cons c t ih =>
    by_cases h1 : k < c.1
    · simp [sins, sget, h1]
    · by_cases h2 : k = c.1
      · simp [sins, sget, h2]
      · simp [sins, sget, h1, h2, ih]

theorem sget_sins_other (d : α) (m : Sparse α) {k j : Nat} (v : α) (h : j ≠ k) : sget d (sins m k v) j = sget d m j := by
  induction m with
  | nil => simp [sins, sget, h]
  | cons c t ih =>
    by_cases h1 : k < c.1
    · simp [sins, sget, h1, h]
    · by_cases h2 : k = c.1
      · subst h2; simp [sins, sget, h]
      · by_cases hj : j = c.1 <;> simp [sins, sget, h1, h2, hj, ih]

/-- A read of the key just written gives the value written. -/
@[simp] theorem sget_sput_same [DecidableEq α] (d : α) (m : Sparse α) (k : Nat) (v : α) : sget d (sput d m k v) k = v := by
  unfold sput; split <;> simp_all

/-- A write leaves every other key alone. -/
theorem sget_sput_other [DecidableEq α] (d : α) (m : Sparse α) {k j : Nat} (v : α) (h : j ≠ k) :
    sget d (sput d m k v) j = sget d m j := by
  unfold sput; split
  · exact sget_sdel_other d m h
  · exact sget_sins_other d m v h

/-- Both laws in one: what a key reads as after a write. -/
theorem sget_sput [DecidableEq α] (d : α) (m : Sparse α) (k j : Nat) (v : α) :
    sget d (sput d m k v) j = if j = k then v else sget d m j := by
  by_cases h : j = k
  · subst h; simp
  · simp [h, sget_sput_other d m v h]

/-- A default of its own may differ from the default of the write: other keys stay all the same. -/
theorem sget_sput_other' [DecidableEq α] (d e : α) (m : Sparse α) {k j : Nat} (v : α) (h : j ≠ k) :
    sget e (sput d m k v) j = sget e m j := by
  unfold sput; split
  · exact sget_sdel_other e m h
  · exact sget_sins_other e m v h

/-- A cleared window reads as the default, and the rest as before. -/
theorem sget_sclear (d : α) (m : Sparse α) (lo hi k : Nat) :
    sget d (sclear m lo hi) k = if lo ≤ k ∧ k < hi then d else sget d m k := by
  induction m with
  | nil => simp [sclear]
  | cons c t ih =>
    by_cases hc : lo ≤ c.1 ∧ c.1 < hi
    · have : sclear (c :: t) lo hi = sclear t lo hi := by simp [sclear, hc]
      rw [this, ih]
      by_cases hk : k = c.1
      · subst hk; simp [hc]
      · simp [sget_cons, hk]
    · have : sclear (c :: t) lo hi = c :: sclear t lo hi := by
        simp only [sclear, List.filter_cons]; simp; omega
      rw [this, sget_cons, ih, sget_cons]
      by_cases hk : k = c.1
      · subst hk; simp [hc]
      · simp [hk]

/-! ### The canonical form -/

/-- Every key of the map is above `p`, and the keys rise strictly. -/
theorem sortedFrom_some (p : Nat) (m : Sparse α) :
    sortedFrom (some p) m = true ↔ (∀ c ∈ m, p < c.1) ∧ m.Pairwise fun a b => a.1 < b.1 := by
  induction m generalizing p with
  | nil => simp [sortedFrom]
  | cons c t ih =>
    simp only [sortedFrom, Bool.and_eq_true, decide_eq_true_eq, ih, List.mem_cons, forall_eq_or_imp, List.pairwise_cons]
    constructor
    · rintro ⟨h, h1, h2⟩; exact ⟨⟨h, fun x hx => Nat.lt_trans h (h1 x hx)⟩, h1, h2⟩
    · rintro ⟨⟨h, _⟩, h1, h2⟩; exact ⟨h, h1, h2⟩

theorem sortedFrom_none (m : Sparse α) : sortedFrom none m = true ↔ m.Pairwise fun a b => a.1 < b.1 := by
  cases m with
  | nil => simp [sortedFrom]
  | cons c t => simp only [sortedFrom, sortedFrom_some, List.pairwise_cons]

/-- The canonical form in words: keys rise strictly, and no entry equals the default. -/
theorem Sparse.wf_iff [DecidableEq α] (d : α) (m : Sparse α) :
    Sparse.wf d m = true ↔ (m.Pairwise fun a b => a.1 < b.1) ∧ ∀ c ∈ m, c.2 ≠ d := by
  simp [Sparse.wf, sortedFrom_none, List.all_eq_true]

theorem mem_sdel {m : Sparse α} {k : Nat} {c : Nat × α} (h : c ∈ sdel m k) : c ∈ m ∧ c.1 ≠ k := by
  induction m with
  | nil => simp [sdel] at h
  | cons x t ih =>
    by_cases hk : k = x.1
    · simp [sdel, hk] at h; rw [← hk] at h; exact ⟨List.mem_cons_of_mem _ (ih h).1, (ih h).2⟩
    · simp only [sdel, hk, if_false, List.mem_cons] at h
      rcases h with h | h
      · subst h; exact ⟨by simp, fun e => hk e.symm⟩
      · exact ⟨List.mem_cons_of_mem _ (ih h).1, (ih h).2⟩

theorem sdel_sorted {m : Sparse α} (k : Nat) (h : m.Pairwise fun a b => a.1 < b.1) :
    (sdel m k).Pairwise fun a b => a.1 < b.1 := by
  induction m with
  | nil => simp [sdel]
  | cons x t ih =>
    rw [List.pairwise_cons] at h
    by_cases hk : k = x.1
    · simp [sdel, hk]; rw [← hk]; exact ih h.2
    · simp only [sdel, hk, if_false, List.pairwise_cons]
      exact ⟨fun c hc => h.1 c (mem_sdel hc).1, ih h.2⟩

theorem mem_sins {m : Sparse α} {k : Nat} {v : α} {c : Nat × α} (h : c ∈ sins m k v) : c = (k, v) ∨ c ∈ m := by
  induction m with
  | nil => simpa [sins] using h
  | cons x t ih =>
    by_cases h1 : k < x.1
    · simpa [sins, h1] using h
    · by_cases h2 : k = x.1
      · have hs : sins (x :: t) k v = (k, v) :: t := by simp [sins, h2]
        rw [hs] at h
        rcases List.mem_cons.mp h with h | h
        · exact .inl h
        · exact .inr (List.mem_cons_of_mem _ h)
      · simp only [sins, h1, h2, if_false, List.mem_cons] at h
        rcases h with h | h
        · exact .inr (by simp [h])
        · rcases ih h with h | h
          · exact .inl h
          · exact .inr (List.mem_cons_of_mem _ h)

theorem sins_sorted {m : Sparse α} (k : Nat) (v : α) (h : m.Pairwise fun a b => a.1 < b.1) :
    (sins m k v).Pairwise fun a b => a.1 < b.1 := by
  induction m with
  | nil => simp [sins]
  | cons x t ih =>
    have hx := List.pairwise_cons.mp h
    by_cases h1 : k < x.1
    · simp only [sins, h1, if_true, List.pairwise_cons]
      refine ⟨fun c hc => ?_, hx⟩
      rcases List.mem_cons.mp hc with hc | hc
      · subst hc; exact h1
      · exact Nat.lt_trans h1 (hx.1 c hc)
    · by_cases h2 : k = x.1
      · subst h2
        simp only [sins, Nat.lt_irrefl, if_false, if_true, List.pairwise_cons]
        exact hx
      · simp only [sins, h1, h2, if_false, List.pairwise_cons]
        refine ⟨fun c hc => ?_, ih hx.2⟩
        rcases mem_sins hc with hc | hc
        · subst hc; simp; omega
        · exact hx.1 c hc

/-- A write keeps the canonical form. -/
theorem sput_wf [DecidableEq α] {d : α} {m : Sparse α} (k : Nat) (v : α) (h : Sparse.wf d m = true) :
    Sparse.wf d (sput d m k v) = true := by
  rw [Sparse.wf_iff] at h ⊢
  unfold sput
  split
  · exact ⟨sdel_sorted k h.1, fun c hc => h.2 c (mem_sdel hc).1⟩
  · rename_i hv
    refine ⟨sins_sorted k v h.1, fun c hc => ?_⟩
    rcases mem_sins hc with hc | hc
    · subst hc; exact hv
    · exact h.2 c hc

/-- Any part of a canonical map, picked by its entries, is canonical. -/
theorem filter_wf [DecidableEq α] {d : α} {m : Sparse α} (p : Nat × α → Bool) (h : Sparse.wf d m = true) :
    Sparse.wf d (m.filter p) = true := by
  rw [Sparse.wf_iff] at h ⊢
  exact ⟨h.1.filter p, fun c hc => h.2 c (List.mem_filter.mp hc).1⟩

theorem sclear_wf [DecidableEq α] {d : α} {m : Sparse α} (lo hi : Nat) (h : Sparse.wf d m = true) :
    Sparse.wf d (sclear m lo hi) = true := filter_wf _ h

theorem swindow_wf [DecidableEq α] {d : α} {m : Sparse α} (lo hi : Nat) (h : Sparse.wf d m = true) :
    Sparse.wf d (swindow m lo hi) = true := filter_wf _ h

/-- Writing entry after entry keeps the canonical form. -/
theorem foldl_sput_wf [DecidableEq α] {d : α} (f : Nat × α → Nat) (cs : List (Nat × α)) {m : Sparse α}
    (h : Sparse.wf d m = true) : Sparse.wf d (cs.foldl (fun acc c => sput d acc (f c) c.2) m) = true := by
  induction cs generalizing m with
  | nil => exact h
  | cons c t ih => exact ih (sput_wf _ _ h)

theorem scopy_wf [DecidableEq α] {d : α} {m : Sparse α} (src dst n : Nat) (h : Sparse.wf d m = true) :
    Sparse.wf d (scopy d m src dst n) = true := foldl_sput_wf _ _ (sclear_wf _ _ h)

theorem spaste_wf [DecidableEq α] {d : α} {into : Sparse α} (from_ : Sparse α) (src dst n : Nat)
    (h : Sparse.wf d into = true) : Sparse.wf d (spaste d from_ into src dst n) = true := foldl_sput_wf _ _ (sclear_wf _ _ h)

theorem mem_ordered [DecidableEq α] {d : α} {lo hi : Nat} {cells : List (Nat × α)} {c : Nat × α}
    (h : c ∈ ordered d lo hi cells) : lo ≤ c.1 ∧ c.1 < hi ∧ c.2 ≠ d := by
  induction cells generalizing lo with
  | nil => simp [ordered] at h
  | cons x t ih =>
    simp only [ordered] at h
    split at h
    · rename_i hx
      simp only [Bool.and_eq_true, decide_eq_true_eq] at hx
      rcases List.mem_cons.mp h with h | h
      · subst h; exact ⟨hx.1.1, hx.1.2, hx.2⟩
      · have := ih h; exact ⟨by omega, this.2⟩
    · exact ih h

theorem ordered_sorted [DecidableEq α] (d : α) (lo hi : Nat) (cells : List (Nat × α)) :
    (ordered d lo hi cells).Pairwise fun a b => a.1 < b.1 := by
  induction cells generalizing lo with
  | nil => simp [ordered]
  | cons x t ih =>
    simp only [ordered]
    split
    · rw [List.pairwise_cons]
      exact ⟨fun c hc => by have := mem_ordered hc; omega, ih _⟩
    · exact ih _

/-- Replacing a window by entries keeps the canonical form. -/
theorem splice_wf [DecidableEq α] {d : α} {m : Sparse α} (lo hi : Nat) (cells : List (Nat × α))
    (h : Sparse.wf d m = true) : Sparse.wf d (splice d m lo hi cells) = true := by
  rw [Sparse.wf_iff] at h ⊢
  simp only [splice, List.pairwise_append, List.mem_append, List.mem_filter, decide_eq_true_eq]
  refine ⟨⟨h.1.filter _, ⟨ordered_sorted d lo hi cells, h.1.filter _, ?_⟩, ?_⟩, ?_⟩
  · intro a ha b hb; have := mem_ordered ha; omega
  · rintro a ha b (hb | hb)
    · have := mem_ordered hb; omega
    · omega
  · rintro c (hc | hc | hc)
    · exact h.2 c hc.1
    · exact (mem_ordered hc).2.2
    · exact h.2 c hc.1

/-- Writing a byte string keeps the canonical form. -/
theorem writeBytes_wf {m : Sparse (BitVec 8)} (a : Nat) (bs : List (BitVec 8)) (h : Sparse.wf 0 m = true) :
    Sparse.wf 0 (writeBytes m a bs) = true := by
  induction bs generalizing m a with
  | nil => exact h
  | cons b bs ih => exact ih (a + 1) (sput_wf _ _ h)

/-! ### Byte strings -/

/-- A byte outside the string written reads as before. -/
theorem sget_writeBytes_other (m : Sparse (BitVec 8)) (a : Nat) (bs : List (BitVec 8)) {k : Nat}
    (h : k < a ∨ a + bs.length ≤ k) : sget 0 (writeBytes m a bs) k = sget 0 m k := by
  induction bs generalizing m a with
  | nil => rfl
  | cons b bs ih =>
    simp only [List.length_cons] at h
    rw [writeBytes, ih _ _ (by omega), sget_sput_other _ _ _ (by omega)]

/-- A byte of the string written reads as written. -/
theorem sget_writeBytes_in (m : Sparse (BitVec 8)) (a : Nat) (bs : List (BitVec 8)) (i : Nat) (h : i < bs.length) :
    sget 0 (writeBytes m a bs) (a + i) = bs.getD i 0 := by
  induction bs generalizing m a i with
  | nil => simp at h
  | cons b bs ih =>
    cases i with
    | zero => rw [writeBytes, Nat.add_zero, sget_writeBytes_other _ _ _ (by omega)]; simp
    | succ i =>
      have := ih (sput 0 m a b) (a + 1) i (by simpa using h)
      rw [writeBytes, show a + (i + 1) = a + 1 + i by omega, this]; simp

theorem readBytes_congr {m m' : Sparse (BitVec 8)} (a n : Nat) (h : ∀ k, a ≤ k → k < a + n → sget 0 m' k = sget 0 m k) :
    readBytes m' a n = readBytes m a n := by
  induction n generalizing a with
  | zero => rfl
  | succ n ih =>
    simp only [readBytes]
    rw [h a (by omega) (by omega), ih (a + 1) fun k h1 h2 => h k (by omega) (by omega)]

@[simp] theorem length_toLE (n v : Nat) : (toLE n v).length = n := by
  induction n generalizing v with
  | zero => rfl
  | succ n ih => simp [toLE, ih]

theorem leNat_toLE (n v : Nat) : leNat (toLE n v) = v % 256 ^ n := by
  induction n generalizing v with
  | zero => simp [toLE, leNat, Nat.mod_one]
  | succ n ih =>
    have h : (256 : Nat) ^ (n + 1) = 256 * 256 ^ n := by rw [Nat.pow_succ, Nat.mul_comm]
    rw [h, Nat.mod_mul, toLE, leNat, ih]
    rfl

theorem readBytes_writeBytes (m : Sparse (BitVec 8)) (a : Nat) (bs : List (BitVec 8)) :
    readBytes (writeBytes m a bs) a bs.length = bs := by
  induction bs generalizing m a with
  | nil => rfl
  | cons b bs ih =>
    simp only [List.length_cons, readBytes]
    rw [show writeBytes m a (b :: bs) = writeBytes (sput 0 m a b) (a + 1) bs from rfl,
      sget_writeBytes_other _ _ _ (by omega), ih]
    simp

/-- A number read from where it was written is that number, cut to its bytes. -/
theorem readLE_writeLE (m : Sparse (BitVec 8)) (a n v : Nat) : readLE (writeLE m a n v) a n = v % 256 ^ n := by
  have h := readBytes_writeBytes m a (toLE n v)
  rw [length_toLE] at h
  rw [readLE, writeLE, h, leNat_toLE]

end Sys2Proof.Machine
end

