-- ==== Sys2Proof/Laws/State.lean ====
section
/-! SUPPORT. The fields of the state under each update: one lemma for each field that the update leaves alone. -/

namespace Sys2Proof.Machine

/-- A fold keeps what each of its steps keeps. -/
theorem foldl_keeps {α β γ : Type} (f : α → β → α) (g : α → γ) (h : ∀ a b, g (f a b) = g a) :
    ∀ (l : List β) (a : α), g (l.foldl f a) = g a
  | [], _ => rfl
  | b :: l, a => (foldl_keeps f g h l (f a b)).trans (h a b)

variable (s : State)

@[simp] theorem State.wr_mem (f : Fld) (v : Nat) : (s.wr f v).mem = s.mem := rfl
@[simp] theorem State.wr_flash (f : Fld) (v : Nat) : (s.wr f v).flash = s.flash := rfl
@[simp] theorem State.wr_memx (f : Fld) (v : Nat) : (s.wr f v).memx = s.memx := rfl
@[simp] theorem State.wr_nvs (f : Fld) (v : Nat) : (s.wr f v).nvs = s.nvs := rfl
@[simp] theorem State.wr_phs (f : Fld) (v : Nat) : (s.wr f v).phs = s.phs := rfl
@[simp] theorem State.wr_tsk (f : Fld) (v : Nat) : (s.wr f v).tsk = s.tsk := rfl
@[simp] theorem State.wr_engTicks (f : Fld) (v : Nat) : (s.wr f v).engTicks = s.engTicks := rfl
@[simp] theorem State.wr_img (f : Fld) (v : Nat) : (s.wr f v).img = s.img := rfl
@[simp] theorem State.wr_ledger (f : Fld) (v : Nat) : (s.wr f v).ledger = s.ledger := rfl
@[simp] theorem State.wr_admission (f : Fld) (v : Nat) : (s.wr f v).admission = s.admission := rfl
@[simp] theorem State.wr_loading (f : Fld) (v : Nat) : (s.wr f v).loading = s.loading := rfl
@[simp] theorem State.wr_tly (f : Fld) (v : Nat) : (s.wr f v).tly = s.tly := rfl
@[simp] theorem State.wr_ring (f : Fld) (v : Nat) : (s.wr f v).ring = s.ring := rfl
@[simp] theorem State.wr_met (f : Fld) (v : Nat) : (s.wr f v).met = s.met := rfl
@[simp] theorem State.wr_lpe (f : Fld) (v : Nat) : (s.wr f v).lpe = s.lpe := rfl
@[simp] theorem State.wr_key (f : Fld) (v : Nat) : (s.wr f v).key = s.key := rfl
@[simp] theorem State.wr_tim (f : Fld) (v : Nat) : (s.wr f v).tim = s.tim := rfl
@[simp] theorem State.wr_rtc (f : Fld) (v : Nat) : (s.wr f v).rtc = s.rtc := rfl
@[simp] theorem State.wr_net (f : Fld) (v : Nat) : (s.wr f v).net = s.net := rfl
@[simp] theorem State.wr_host (f : Fld) (v : Nat) : (s.wr f v).host = s.host := rfl
@[simp] theorem State.wr_fbs (f : Fld) (v : Nat) : (s.wr f v).fbs = s.fbs := rfl
@[simp] theorem State.wr_upd (f : Fld) (v : Nat) : (s.wr f v).upd = s.upd := rfl
@[simp] theorem State.wr_pwr (f : Fld) (v : Nat) : (s.wr f v).pwr = s.pwr := rfl
@[simp] theorem State.wr_busData (f : Fld) (v : Nat) : (s.wr f v).busData = s.busData := rfl
@[simp] theorem State.wr_busPoison (f : Fld) (v : Nat) : (s.wr f v).busPoison = s.busPoison := rfl
@[simp] theorem State.wr_clk (f : Fld) (v : Nat) : (s.wr f v).clk = s.clk := rfl
@[simp] theorem State.wr_free (f : Fld) (v : Nat) : (s.wr f v).free = s.free := rfl
@[simp] theorem State.wr_lastReport (f : Fld) (v : Nat) : (s.wr f v).lastReport = s.lastReport := rfl
@[simp] theorem State.wr_pending (f : Fld) (v : Nat) : (s.wr f v).pending = s.pending := rfl

@[simp] theorem State.wrB_mem (f : Fld) (b : Bool) : (s.wrB f b).mem = s.mem := rfl
@[simp] theorem State.wrB_flash (f : Fld) (b : Bool) : (s.wrB f b).flash = s.flash := rfl
@[simp] theorem State.wrB_memx (f : Fld) (b : Bool) : (s.wrB f b).memx = s.memx := rfl
@[simp] theorem State.wrB_nvs (f : Fld) (b : Bool) : (s.wrB f b).nvs = s.nvs := rfl
@[simp] theorem State.wrB_phs (f : Fld) (b : Bool) : (s.wrB f b).phs = s.phs := rfl
@[simp] theorem State.wrB_tsk (f : Fld) (b : Bool) : (s.wrB f b).tsk = s.tsk := rfl
@[simp] theorem State.wrB_engTicks (f : Fld) (b : Bool) : (s.wrB f b).engTicks = s.engTicks := rfl
@[simp] theorem State.wrB_img (f : Fld) (b : Bool) : (s.wrB f b).img = s.img := rfl
@[simp] theorem State.wrB_ledger (f : Fld) (b : Bool) : (s.wrB f b).ledger = s.ledger := rfl
@[simp] theorem State.wrB_admission (f : Fld) (b : Bool) : (s.wrB f b).admission = s.admission := rfl
@[simp] theorem State.wrB_loading (f : Fld) (b : Bool) : (s.wrB f b).loading = s.loading := rfl
@[simp] theorem State.wrB_tly (f : Fld) (b : Bool) : (s.wrB f b).tly = s.tly := rfl
@[simp] theorem State.wrB_ring (f : Fld) (b : Bool) : (s.wrB f b).ring = s.ring := rfl
@[simp] theorem State.wrB_met (f : Fld) (b : Bool) : (s.wrB f b).met = s.met := rfl
@[simp] theorem State.wrB_lpe (f : Fld) (b : Bool) : (s.wrB f b).lpe = s.lpe := rfl
@[simp] theorem State.wrB_key (f : Fld) (b : Bool) : (s.wrB f b).key = s.key := rfl
@[simp] theorem State.wrB_tim (f : Fld) (b : Bool) : (s.wrB f b).tim = s.tim := rfl
@[simp] theorem State.wrB_rtc (f : Fld) (b : Bool) : (s.wrB f b).rtc = s.rtc := rfl
@[simp] theorem State.wrB_net (f : Fld) (b : Bool) : (s.wrB f b).net = s.net := rfl
@[simp] theorem State.wrB_host (f : Fld) (b : Bool) : (s.wrB f b).host = s.host := rfl
@[simp] theorem State.wrB_fbs (f : Fld) (b : Bool) : (s.wrB f b).fbs = s.fbs := rfl
@[simp] theorem State.wrB_upd (f : Fld) (b : Bool) : (s.wrB f b).upd = s.upd := rfl
@[simp] theorem State.wrB_pwr (f : Fld) (b : Bool) : (s.wrB f b).pwr = s.pwr := rfl
@[simp] theorem State.wrB_busData (f : Fld) (b : Bool) : (s.wrB f b).busData = s.busData := rfl
@[simp] theorem State.wrB_busPoison (f : Fld) (b : Bool) : (s.wrB f b).busPoison = s.busPoison := rfl
@[simp] theorem State.wrB_clk (f : Fld) (b : Bool) : (s.wrB f b).clk = s.clk := rfl
@[simp] theorem State.wrB_free (f : Fld) (b : Bool) : (s.wrB f b).free = s.free := rfl
@[simp] theorem State.wrB_lastReport (f : Fld) (b : Bool) : (s.wrB f b).lastReport = s.lastReport := rfl
@[simp] theorem State.wrB_pending (f : Fld) (b : Bool) : (s.wrB f b).pending = s.pending := rfl

@[simp] theorem State.inc_mem (f : Fld) (n : Nat) : (s.inc f n).mem = s.mem := rfl
@[simp] theorem State.inc_flash (f : Fld) (n : Nat) : (s.inc f n).flash = s.flash := rfl
@[simp] theorem State.inc_memx (f : Fld) (n : Nat) : (s.inc f n).memx = s.memx := rfl
@[simp] theorem State.inc_nvs (f : Fld) (n : Nat) : (s.inc f n).nvs = s.nvs := rfl
@[simp] theorem State.inc_phs (f : Fld) (n : Nat) : (s.inc f n).phs = s.phs := rfl
@[simp] theorem State.inc_tsk (f : Fld) (n : Nat) : (s.inc f n).tsk = s.tsk := rfl
@[simp] theorem State.inc_engTicks (f : Fld) (n : Nat) : (s.inc f n).engTicks = s.engTicks := rfl
@[simp] theorem State.inc_img (f : Fld) (n : Nat) : (s.inc f n).img = s.img := rfl
@[simp] theorem State.inc_ledger (f : Fld) (n : Nat) : (s.inc f n).ledger = s.ledger := rfl
@[simp] theorem State.inc_admission (f : Fld) (n : Nat) : (s.inc f n).admission = s.admission := rfl
@[simp] theorem State.inc_loading (f : Fld) (n : Nat) : (s.inc f n).loading = s.loading := rfl
@[simp] theorem State.inc_tly (f : Fld) (n : Nat) : (s.inc f n).tly = s.tly := rfl
@[simp] theorem State.inc_ring (f : Fld) (n : Nat) : (s.inc f n).ring = s.ring := rfl
@[simp] theorem State.inc_met (f : Fld) (n : Nat) : (s.inc f n).met = s.met := rfl
@[simp] theorem State.inc_lpe (f : Fld) (n : Nat) : (s.inc f n).lpe = s.lpe := rfl
@[simp] theorem State.inc_key (f : Fld) (n : Nat) : (s.inc f n).key = s.key := rfl
@[simp] theorem State.inc_tim (f : Fld) (n : Nat) : (s.inc f n).tim = s.tim := rfl
@[simp] theorem State.inc_rtc (f : Fld) (n : Nat) : (s.inc f n).rtc = s.rtc := rfl
@[simp] theorem State.inc_net (f : Fld) (n : Nat) : (s.inc f n).net = s.net := rfl
@[simp] theorem State.inc_host (f : Fld) (n : Nat) : (s.inc f n).host = s.host := rfl
@[simp] theorem State.inc_fbs (f : Fld) (n : Nat) : (s.inc f n).fbs = s.fbs := rfl
@[simp] theorem State.inc_upd (f : Fld) (n : Nat) : (s.inc f n).upd = s.upd := rfl
@[simp] theorem State.inc_pwr (f : Fld) (n : Nat) : (s.inc f n).pwr = s.pwr := rfl
@[simp] theorem State.inc_busData (f : Fld) (n : Nat) : (s.inc f n).busData = s.busData := rfl
@[simp] theorem State.inc_busPoison (f : Fld) (n : Nat) : (s.inc f n).busPoison = s.busPoison := rfl
@[simp] theorem State.inc_clk (f : Fld) (n : Nat) : (s.inc f n).clk = s.clk := rfl
@[simp] theorem State.inc_free (f : Fld) (n : Nat) : (s.inc f n).free = s.free := rfl
@[simp] theorem State.inc_lastReport (f : Fld) (n : Nat) : (s.inc f n).lastReport = s.lastReport := rfl
@[simp] theorem State.inc_pending (f : Fld) (n : Nat) : (s.inc f n).pending = s.pending := rfl

@[simp] theorem State.incSat_mem (f : Fld) (n : Nat) : (s.incSat f n).mem = s.mem := rfl
@[simp] theorem State.incSat_flash (f : Fld) (n : Nat) : (s.incSat f n).flash = s.flash := rfl
@[simp] theorem State.incSat_memx (f : Fld) (n : Nat) : (s.incSat f n).memx = s.memx := rfl
@[simp] theorem State.incSat_nvs (f : Fld) (n : Nat) : (s.incSat f n).nvs = s.nvs := rfl
@[simp] theorem State.incSat_phs (f : Fld) (n : Nat) : (s.incSat f n).phs = s.phs := rfl
@[simp] theorem State.incSat_tsk (f : Fld) (n : Nat) : (s.incSat f n).tsk = s.tsk := rfl
@[simp] theorem State.incSat_engTicks (f : Fld) (n : Nat) : (s.incSat f n).engTicks = s.engTicks := rfl
@[simp] theorem State.incSat_img (f : Fld) (n : Nat) : (s.incSat f n).img = s.img := rfl
@[simp] theorem State.incSat_ledger (f : Fld) (n : Nat) : (s.incSat f n).ledger = s.ledger := rfl
@[simp] theorem State.incSat_admission (f : Fld) (n : Nat) : (s.incSat f n).admission = s.admission := rfl
@[simp] theorem State.incSat_loading (f : Fld) (n : Nat) : (s.incSat f n).loading = s.loading := rfl
@[simp] theorem State.incSat_tly (f : Fld) (n : Nat) : (s.incSat f n).tly = s.tly := rfl
@[simp] theorem State.incSat_ring (f : Fld) (n : Nat) : (s.incSat f n).ring = s.ring := rfl
@[simp] theorem State.incSat_met (f : Fld) (n : Nat) : (s.incSat f n).met = s.met := rfl
@[simp] theorem State.incSat_lpe (f : Fld) (n : Nat) : (s.incSat f n).lpe = s.lpe := rfl
@[simp] theorem State.incSat_key (f : Fld) (n : Nat) : (s.incSat f n).key = s.key := rfl
@[simp] theorem State.incSat_tim (f : Fld) (n : Nat) : (s.incSat f n).tim = s.tim := rfl
@[simp] theorem State.incSat_rtc (f : Fld) (n : Nat) : (s.incSat f n).rtc = s.rtc := rfl
@[simp] theorem State.incSat_net (f : Fld) (n : Nat) : (s.incSat f n).net = s.net := rfl
@[simp] theorem State.incSat_host (f : Fld) (n : Nat) : (s.incSat f n).host = s.host := rfl
@[simp] theorem State.incSat_fbs (f : Fld) (n : Nat) : (s.incSat f n).fbs = s.fbs := rfl
@[simp] theorem State.incSat_upd (f : Fld) (n : Nat) : (s.incSat f n).upd = s.upd := rfl
@[simp] theorem State.incSat_pwr (f : Fld) (n : Nat) : (s.incSat f n).pwr = s.pwr := rfl
@[simp] theorem State.incSat_busData (f : Fld) (n : Nat) : (s.incSat f n).busData = s.busData := rfl
@[simp] theorem State.incSat_busPoison (f : Fld) (n : Nat) : (s.incSat f n).busPoison = s.busPoison := rfl
@[simp] theorem State.incSat_clk (f : Fld) (n : Nat) : (s.incSat f n).clk = s.clk := rfl
@[simp] theorem State.incSat_free (f : Fld) (n : Nat) : (s.incSat f n).free = s.free := rfl
@[simp] theorem State.incSat_lastReport (f : Fld) (n : Nat) : (s.incSat f n).lastReport = s.lastReport := rfl
@[simp] theorem State.incSat_pending (f : Fld) (n : Nat) : (s.incSat f n).pending = s.pending := rfl

@[simp] theorem State.setBit_mem (f : Fld) (i : Nat) : (s.setBit f i).mem = s.mem := rfl
@[simp] theorem State.setBit_flash (f : Fld) (i : Nat) : (s.setBit f i).flash = s.flash := rfl
@[simp] theorem State.setBit_memx (f : Fld) (i : Nat) : (s.setBit f i).memx = s.memx := rfl
@[simp] theorem State.setBit_nvs (f : Fld) (i : Nat) : (s.setBit f i).nvs = s.nvs := rfl
@[simp] theorem State.setBit_phs (f : Fld) (i : Nat) : (s.setBit f i).phs = s.phs := rfl
@[simp] theorem State.setBit_tsk (f : Fld) (i : Nat) : (s.setBit f i).tsk = s.tsk := rfl
@[simp] theorem State.setBit_engTicks (f : Fld) (i : Nat) : (s.setBit f i).engTicks = s.engTicks := rfl
@[simp] theorem State.setBit_img (f : Fld) (i : Nat) : (s.setBit f i).img = s.img := rfl
@[simp] theorem State.setBit_ledger (f : Fld) (i : Nat) : (s.setBit f i).ledger = s.ledger := rfl
@[simp] theorem State.setBit_admission (f : Fld) (i : Nat) : (s.setBit f i).admission = s.admission := rfl
@[simp] theorem State.setBit_loading (f : Fld) (i : Nat) : (s.setBit f i).loading = s.loading := rfl
@[simp] theorem State.setBit_tly (f : Fld) (i : Nat) : (s.setBit f i).tly = s.tly := rfl
@[simp] theorem State.setBit_ring (f : Fld) (i : Nat) : (s.setBit f i).ring = s.ring := rfl
@[simp] theorem State.setBit_met (f : Fld) (i : Nat) : (s.setBit f i).met = s.met := rfl
@[simp] theorem State.setBit_lpe (f : Fld) (i : Nat) : (s.setBit f i).lpe = s.lpe := rfl
@[simp] theorem State.setBit_key (f : Fld) (i : Nat) : (s.setBit f i).key = s.key := rfl
@[simp] theorem State.setBit_tim (f : Fld) (i : Nat) : (s.setBit f i).tim = s.tim := rfl
@[simp] theorem State.setBit_rtc (f : Fld) (i : Nat) : (s.setBit f i).rtc = s.rtc := rfl
@[simp] theorem State.setBit_net (f : Fld) (i : Nat) : (s.setBit f i).net = s.net := rfl
@[simp] theorem State.setBit_host (f : Fld) (i : Nat) : (s.setBit f i).host = s.host := rfl
@[simp] theorem State.setBit_fbs (f : Fld) (i : Nat) : (s.setBit f i).fbs = s.fbs := rfl
@[simp] theorem State.setBit_upd (f : Fld) (i : Nat) : (s.setBit f i).upd = s.upd := rfl
@[simp] theorem State.setBit_pwr (f : Fld) (i : Nat) : (s.setBit f i).pwr = s.pwr := rfl
@[simp] theorem State.setBit_busData (f : Fld) (i : Nat) : (s.setBit f i).busData = s.busData := rfl
@[simp] theorem State.setBit_busPoison (f : Fld) (i : Nat) : (s.setBit f i).busPoison = s.busPoison := rfl
@[simp] theorem State.setBit_clk (f : Fld) (i : Nat) : (s.setBit f i).clk = s.clk := rfl
@[simp] theorem State.setBit_free (f : Fld) (i : Nat) : (s.setBit f i).free = s.free := rfl
@[simp] theorem State.setBit_lastReport (f : Fld) (i : Nat) : (s.setBit f i).lastReport = s.lastReport := rfl
@[simp] theorem State.setBit_pending (f : Fld) (i : Nat) : (s.setBit f i).pending = s.pending := rfl

@[simp] theorem State.clrBit_mem (f : Fld) (i : Nat) : (s.clrBit f i).mem = s.mem := rfl
@[simp] theorem State.clrBit_flash (f : Fld) (i : Nat) : (s.clrBit f i).flash = s.flash := rfl
@[simp] theorem State.clrBit_memx (f : Fld) (i : Nat) : (s.clrBit f i).memx = s.memx := rfl
@[simp] theorem State.clrBit_nvs (f : Fld) (i : Nat) : (s.clrBit f i).nvs = s.nvs := rfl
@[simp] theorem State.clrBit_phs (f : Fld) (i : Nat) : (s.clrBit f i).phs = s.phs := rfl
@[simp] theorem State.clrBit_tsk (f : Fld) (i : Nat) : (s.clrBit f i).tsk = s.tsk := rfl
@[simp] theorem State.clrBit_engTicks (f : Fld) (i : Nat) : (s.clrBit f i).engTicks = s.engTicks := rfl
@[simp] theorem State.clrBit_img (f : Fld) (i : Nat) : (s.clrBit f i).img = s.img := rfl
@[simp] theorem State.clrBit_ledger (f : Fld) (i : Nat) : (s.clrBit f i).ledger = s.ledger := rfl
@[simp] theorem State.clrBit_admission (f : Fld) (i : Nat) : (s.clrBit f i).admission = s.admission := rfl
@[simp] theorem State.clrBit_loading (f : Fld) (i : Nat) : (s.clrBit f i).loading = s.loading := rfl
@[simp] theorem State.clrBit_tly (f : Fld) (i : Nat) : (s.clrBit f i).tly = s.tly := rfl
@[simp] theorem State.clrBit_ring (f : Fld) (i : Nat) : (s.clrBit f i).ring = s.ring := rfl
@[simp] theorem State.clrBit_met (f : Fld) (i : Nat) : (s.clrBit f i).met = s.met := rfl
@[simp] theorem State.clrBit_lpe (f : Fld) (i : Nat) : (s.clrBit f i).lpe = s.lpe := rfl
@[simp] theorem State.clrBit_key (f : Fld) (i : Nat) : (s.clrBit f i).key = s.key := rfl
@[simp] theorem State.clrBit_tim (f : Fld) (i : Nat) : (s.clrBit f i).tim = s.tim := rfl
@[simp] theorem State.clrBit_rtc (f : Fld) (i : Nat) : (s.clrBit f i).rtc = s.rtc := rfl
@[simp] theorem State.clrBit_net (f : Fld) (i : Nat) : (s.clrBit f i).net = s.net := rfl
@[simp] theorem State.clrBit_host (f : Fld) (i : Nat) : (s.clrBit f i).host = s.host := rfl
@[simp] theorem State.clrBit_fbs (f : Fld) (i : Nat) : (s.clrBit f i).fbs = s.fbs := rfl
@[simp] theorem State.clrBit_upd (f : Fld) (i : Nat) : (s.clrBit f i).upd = s.upd := rfl
@[simp] theorem State.clrBit_pwr (f : Fld) (i : Nat) : (s.clrBit f i).pwr = s.pwr := rfl
@[simp] theorem State.clrBit_busData (f : Fld) (i : Nat) : (s.clrBit f i).busData = s.busData := rfl
@[simp] theorem State.clrBit_busPoison (f : Fld) (i : Nat) : (s.clrBit f i).busPoison = s.busPoison := rfl
@[simp] theorem State.clrBit_clk (f : Fld) (i : Nat) : (s.clrBit f i).clk = s.clk := rfl
@[simp] theorem State.clrBit_free (f : Fld) (i : Nat) : (s.clrBit f i).free = s.free := rfl
@[simp] theorem State.clrBit_lastReport (f : Fld) (i : Nat) : (s.clrBit f i).lastReport = s.lastReport := rfl
@[simp] theorem State.clrBit_pending (f : Fld) (i : Nat) : (s.clrBit f i).pending = s.pending := rfl

@[simp] theorem State.putBit_mem (f : Fld) (i : Nat) (b : Bool) : (s.putBit f i b).mem = s.mem := by cases b <;> rfl
@[simp] theorem State.putBit_flash (f : Fld) (i : Nat) (b : Bool) : (s.putBit f i b).flash = s.flash := by cases b <;> rfl
@[simp] theorem State.putBit_memx (f : Fld) (i : Nat) (b : Bool) : (s.putBit f i b).memx = s.memx := by cases b <;> rfl
@[simp] theorem State.putBit_nvs (f : Fld) (i : Nat) (b : Bool) : (s.putBit f i b).nvs = s.nvs := by cases b <;> rfl
@[simp] theorem State.putBit_phs (f : Fld) (i : Nat) (b : Bool) : (s.putBit f i b).phs = s.phs := by cases b <;> rfl
@[simp] theorem State.putBit_tsk (f : Fld) (i : Nat) (b : Bool) : (s.putBit f i b).tsk = s.tsk := by cases b <;> rfl
@[simp] theorem State.putBit_engTicks (f : Fld) (i : Nat) (b : Bool) : (s.putBit f i b).engTicks = s.engTicks := by cases b <;> rfl
@[simp] theorem State.putBit_img (f : Fld) (i : Nat) (b : Bool) : (s.putBit f i b).img = s.img := by cases b <;> rfl
@[simp] theorem State.putBit_ledger (f : Fld) (i : Nat) (b : Bool) : (s.putBit f i b).ledger = s.ledger := by cases b <;> rfl
@[simp] theorem State.putBit_admission (f : Fld) (i : Nat) (b : Bool) : (s.putBit f i b).admission = s.admission := by cases b <;> rfl
@[simp] theorem State.putBit_loading (f : Fld) (i : Nat) (b : Bool) : (s.putBit f i b).loading = s.loading := by cases b <;> rfl
@[simp] theorem State.putBit_tly (f : Fld) (i : Nat) (b : Bool) : (s.putBit f i b).tly = s.tly := by cases b <;> rfl
@[simp] theorem State.putBit_ring (f : Fld) (i : Nat) (b : Bool) : (s.putBit f i b).ring = s.ring := by cases b <;> rfl
@[simp] theorem State.putBit_met (f : Fld) (i : Nat) (b : Bool) : (s.putBit f i b).met = s.met := by cases b <;> rfl
@[simp] theorem State.putBit_lpe (f : Fld) (i : Nat) (b : Bool) : (s.putBit f i b).lpe = s.lpe := by cases b <;> rfl
@[simp] theorem State.putBit_key (f : Fld) (i : Nat) (b : Bool) : (s.putBit f i b).key = s.key := by cases b <;> rfl
@[simp] theorem State.putBit_tim (f : Fld) (i : Nat) (b : Bool) : (s.putBit f i b).tim = s.tim := by cases b <;> rfl
@[simp] theorem State.putBit_rtc (f : Fld) (i : Nat) (b : Bool) : (s.putBit f i b).rtc = s.rtc := by cases b <;> rfl
@[simp] theorem State.putBit_net (f : Fld) (i : Nat) (b : Bool) : (s.putBit f i b).net = s.net := by cases b <;> rfl
@[simp] theorem State.putBit_host (f : Fld) (i : Nat) (b : Bool) : (s.putBit f i b).host = s.host := by cases b <;> rfl
@[simp] theorem State.putBit_fbs (f : Fld) (i : Nat) (b : Bool) : (s.putBit f i b).fbs = s.fbs := by cases b <;> rfl
@[simp] theorem State.putBit_upd (f : Fld) (i : Nat) (b : Bool) : (s.putBit f i b).upd = s.upd := by cases b <;> rfl
@[simp] theorem State.putBit_pwr (f : Fld) (i : Nat) (b : Bool) : (s.putBit f i b).pwr = s.pwr := by cases b <;> rfl
@[simp] theorem State.putBit_busData (f : Fld) (i : Nat) (b : Bool) : (s.putBit f i b).busData = s.busData := by cases b <;> rfl
@[simp] theorem State.putBit_busPoison (f : Fld) (i : Nat) (b : Bool) : (s.putBit f i b).busPoison = s.busPoison := by cases b <;> rfl
@[simp] theorem State.putBit_clk (f : Fld) (i : Nat) (b : Bool) : (s.putBit f i b).clk = s.clk := by cases b <;> rfl
@[simp] theorem State.putBit_free (f : Fld) (i : Nat) (b : Bool) : (s.putBit f i b).free = s.free := by cases b <;> rfl
@[simp] theorem State.putBit_lastReport (f : Fld) (i : Nat) (b : Bool) : (s.putBit f i b).lastReport = s.lastReport := by cases b <;> rfl
@[simp] theorem State.putBit_pending (f : Fld) (i : Nat) (b : Bool) : (s.putBit f i b).pending = s.pending := by cases b <;> rfl

@[simp] theorem State.resetRegs_mem (lo hi : Nat) : (s.resetRegs lo hi).mem = s.mem := rfl
@[simp] theorem State.resetRegs_flash (lo hi : Nat) : (s.resetRegs lo hi).flash = s.flash := rfl
@[simp] theorem State.resetRegs_memx (lo hi : Nat) : (s.resetRegs lo hi).memx = s.memx := rfl
@[simp] theorem State.resetRegs_nvs (lo hi : Nat) : (s.resetRegs lo hi).nvs = s.nvs := rfl
@[simp] theorem State.resetRegs_phs (lo hi : Nat) : (s.resetRegs lo hi).phs = s.phs := rfl
@[simp] theorem State.resetRegs_tsk (lo hi : Nat) : (s.resetRegs lo hi).tsk = s.tsk := rfl
@[simp] theorem State.resetRegs_engTicks (lo hi : Nat) : (s.resetRegs lo hi).engTicks = s.engTicks := rfl
@[simp] theorem State.resetRegs_img (lo hi : Nat) : (s.resetRegs lo hi).img = s.img := rfl
@[simp] theorem State.resetRegs_ledger (lo hi : Nat) : (s.resetRegs lo hi).ledger = s.ledger := rfl
@[simp] theorem State.resetRegs_admission (lo hi : Nat) : (s.resetRegs lo hi).admission = s.admission := rfl
@[simp] theorem State.resetRegs_loading (lo hi : Nat) : (s.resetRegs lo hi).loading = s.loading := rfl
@[simp] theorem State.resetRegs_tly (lo hi : Nat) : (s.resetRegs lo hi).tly = s.tly := rfl
@[simp] theorem State.resetRegs_ring (lo hi : Nat) : (s.resetRegs lo hi).ring = s.ring := rfl
@[simp] theorem State.resetRegs_met (lo hi : Nat) : (s.resetRegs lo hi).met = s.met := rfl
@[simp] theorem State.resetRegs_lpe (lo hi : Nat) : (s.resetRegs lo hi).lpe = s.lpe := rfl
@[simp] theorem State.resetRegs_key (lo hi : Nat) : (s.resetRegs lo hi).key = s.key := rfl
@[simp] theorem State.resetRegs_tim (lo hi : Nat) : (s.resetRegs lo hi).tim = s.tim := rfl
@[simp] theorem State.resetRegs_rtc (lo hi : Nat) : (s.resetRegs lo hi).rtc = s.rtc := rfl
@[simp] theorem State.resetRegs_net (lo hi : Nat) : (s.resetRegs lo hi).net = s.net := rfl
@[simp] theorem State.resetRegs_host (lo hi : Nat) : (s.resetRegs lo hi).host = s.host := rfl
@[simp] theorem State.resetRegs_fbs (lo hi : Nat) : (s.resetRegs lo hi).fbs = s.fbs := rfl
@[simp] theorem State.resetRegs_upd (lo hi : Nat) : (s.resetRegs lo hi).upd = s.upd := rfl
@[simp] theorem State.resetRegs_pwr (lo hi : Nat) : (s.resetRegs lo hi).pwr = s.pwr := rfl
@[simp] theorem State.resetRegs_busData (lo hi : Nat) : (s.resetRegs lo hi).busData = s.busData := rfl
@[simp] theorem State.resetRegs_busPoison (lo hi : Nat) : (s.resetRegs lo hi).busPoison = s.busPoison := rfl
@[simp] theorem State.resetRegs_clk (lo hi : Nat) : (s.resetRegs lo hi).clk = s.clk := rfl
@[simp] theorem State.resetRegs_free (lo hi : Nat) : (s.resetRegs lo hi).free = s.free := rfl
@[simp] theorem State.resetRegs_lastReport (lo hi : Nat) : (s.resetRegs lo hi).lastReport = s.lastReport := rfl
@[simp] theorem State.resetRegs_pending (lo hi : Nat) : (s.resetRegs lo hi).pending = s.pending := rfl

@[simp] theorem State.raiseEng_mem (e n : Nat) : (s.raiseEng e n).mem = s.mem := by unfold State.raiseEng; split <;> rfl
@[simp] theorem State.raiseEng_flash (e n : Nat) : (s.raiseEng e n).flash = s.flash := by unfold State.raiseEng; split <;> rfl
@[simp] theorem State.raiseEng_memx (e n : Nat) : (s.raiseEng e n).memx = s.memx := by unfold State.raiseEng; split <;> rfl
@[simp] theorem State.raiseEng_nvs (e n : Nat) : (s.raiseEng e n).nvs = s.nvs := by unfold State.raiseEng; split <;> rfl
@[simp] theorem State.raiseEng_phs (e n : Nat) : (s.raiseEng e n).phs = s.phs := by unfold State.raiseEng; split <;> rfl
@[simp] theorem State.raiseEng_tsk (e n : Nat) : (s.raiseEng e n).tsk = s.tsk := by unfold State.raiseEng; split <;> rfl
@[simp] theorem State.raiseEng_engTicks (e n : Nat) : (s.raiseEng e n).engTicks = s.engTicks := by unfold State.raiseEng; split <;> rfl
@[simp] theorem State.raiseEng_img (e n : Nat) : (s.raiseEng e n).img = s.img := by unfold State.raiseEng; split <;> rfl
@[simp] theorem State.raiseEng_ledger (e n : Nat) : (s.raiseEng e n).ledger = s.ledger := by unfold State.raiseEng; split <;> rfl
@[simp] theorem State.raiseEng_admission (e n : Nat) : (s.raiseEng e n).admission = s.admission := by unfold State.raiseEng; split <;> rfl
@[simp] theorem State.raiseEng_loading (e n : Nat) : (s.raiseEng e n).loading = s.loading := by unfold State.raiseEng; split <;> rfl
@[simp] theorem State.raiseEng_tly (e n : Nat) : (s.raiseEng e n).tly = s.tly := by unfold State.raiseEng; split <;> rfl
@[simp] theorem State.raiseEng_ring (e n : Nat) : (s.raiseEng e n).ring = s.ring := by unfold State.raiseEng; split <;> rfl
@[simp] theorem State.raiseEng_met (e n : Nat) : (s.raiseEng e n).met = s.met := by unfold State.raiseEng; split <;> rfl
@[simp] theorem State.raiseEng_lpe (e n : Nat) : (s.raiseEng e n).lpe = s.lpe := by unfold State.raiseEng; split <;> rfl
@[simp] theorem State.raiseEng_key (e n : Nat) : (s.raiseEng e n).key = s.key := by unfold State.raiseEng; split <;> rfl
@[simp] theorem State.raiseEng_tim (e n : Nat) : (s.raiseEng e n).tim = s.tim := by unfold State.raiseEng; split <;> rfl
@[simp] theorem State.raiseEng_rtc (e n : Nat) : (s.raiseEng e n).rtc = s.rtc := by unfold State.raiseEng; split <;> rfl
@[simp] theorem State.raiseEng_net (e n : Nat) : (s.raiseEng e n).net = s.net := by unfold State.raiseEng; split <;> rfl
@[simp] theorem State.raiseEng_host (e n : Nat) : (s.raiseEng e n).host = s.host := by unfold State.raiseEng; split <;> rfl
@[simp] theorem State.raiseEng_fbs (e n : Nat) : (s.raiseEng e n).fbs = s.fbs := by unfold State.raiseEng; split <;> rfl
@[simp] theorem State.raiseEng_upd (e n : Nat) : (s.raiseEng e n).upd = s.upd := by unfold State.raiseEng; split <;> rfl
@[simp] theorem State.raiseEng_pwr (e n : Nat) : (s.raiseEng e n).pwr = s.pwr := by unfold State.raiseEng; split <;> rfl
@[simp] theorem State.raiseEng_busData (e n : Nat) : (s.raiseEng e n).busData = s.busData := by unfold State.raiseEng; split <;> rfl
@[simp] theorem State.raiseEng_busPoison (e n : Nat) : (s.raiseEng e n).busPoison = s.busPoison := by unfold State.raiseEng; split <;> rfl
@[simp] theorem State.raiseEng_clk (e n : Nat) : (s.raiseEng e n).clk = s.clk := by unfold State.raiseEng; split <;> rfl
@[simp] theorem State.raiseEng_free (e n : Nat) : (s.raiseEng e n).free = s.free := by unfold State.raiseEng; split <;> rfl
@[simp] theorem State.raiseEng_lastReport (e n : Nat) : (s.raiseEng e n).lastReport = s.lastReport := by unfold State.raiseEng; split <;> rfl
@[simp] theorem State.raiseEng_pending (e n : Nat) : (s.raiseEng e n).pending = s.pending := by unfold State.raiseEng; split <;> rfl

@[simp] theorem State.raise_mem (n : Nat) : (s.raise n).mem = s.mem := by simp [State.raise]
@[simp] theorem State.raise_flash (n : Nat) : (s.raise n).flash = s.flash := by simp [State.raise]
@[simp] theorem State.raise_memx (n : Nat) : (s.raise n).memx = s.memx := by simp [State.raise]
@[simp] theorem State.raise_nvs (n : Nat) : (s.raise n).nvs = s.nvs := by simp [State.raise]
@[simp] theorem State.raise_phs (n : Nat) : (s.raise n).phs = s.phs := by simp [State.raise]
@[simp] theorem State.raise_tsk (n : Nat) : (s.raise n).tsk = s.tsk := by simp [State.raise]
@[simp] theorem State.raise_engTicks (n : Nat) : (s.raise n).engTicks = s.engTicks := by simp [State.raise]
@[simp] theorem State.raise_img (n : Nat) : (s.raise n).img = s.img := by simp [State.raise]
@[simp] theorem State.raise_ledger (n : Nat) : (s.raise n).ledger = s.ledger := by simp [State.raise]
@[simp] theorem State.raise_admission (n : Nat) : (s.raise n).admission = s.admission := by simp [State.raise]
@[simp] theorem State.raise_loading (n : Nat) : (s.raise n).loading = s.loading := by simp [State.raise]
@[simp] theorem State.raise_tly (n : Nat) : (s.raise n).tly = s.tly := by simp [State.raise]
@[simp] theorem State.raise_ring (n : Nat) : (s.raise n).ring = s.ring := by simp [State.raise]
@[simp] theorem State.raise_met (n : Nat) : (s.raise n).met = s.met := by simp [State.raise]
@[simp] theorem State.raise_lpe (n : Nat) : (s.raise n).lpe = s.lpe := by simp [State.raise]
@[simp] theorem State.raise_key (n : Nat) : (s.raise n).key = s.key := by simp [State.raise]
@[simp] theorem State.raise_tim (n : Nat) : (s.raise n).tim = s.tim := by simp [State.raise]
@[simp] theorem State.raise_rtc (n : Nat) : (s.raise n).rtc = s.rtc := by simp [State.raise]
@[simp] theorem State.raise_net (n : Nat) : (s.raise n).net = s.net := by simp [State.raise]
@[simp] theorem State.raise_host (n : Nat) : (s.raise n).host = s.host := by simp [State.raise]
@[simp] theorem State.raise_fbs (n : Nat) : (s.raise n).fbs = s.fbs := by simp [State.raise]
@[simp] theorem State.raise_upd (n : Nat) : (s.raise n).upd = s.upd := by simp [State.raise]
@[simp] theorem State.raise_pwr (n : Nat) : (s.raise n).pwr = s.pwr := by simp [State.raise]
@[simp] theorem State.raise_busData (n : Nat) : (s.raise n).busData = s.busData := by simp [State.raise]
@[simp] theorem State.raise_busPoison (n : Nat) : (s.raise n).busPoison = s.busPoison := by simp [State.raise]
@[simp] theorem State.raise_clk (n : Nat) : (s.raise n).clk = s.clk := by simp [State.raise]
@[simp] theorem State.raise_free (n : Nat) : (s.raise n).free = s.free := by simp [State.raise]
@[simp] theorem State.raise_lastReport (n : Nat) : (s.raise n).lastReport = s.lastReport := by simp [State.raise]
@[simp] theorem State.raise_pending (n : Nat) : (s.raise n).pending = s.pending := by simp [State.raise]

@[simp] theorem State.report_mem (f : Fld) (c : Nat) : (s.report f c).mem = s.mem := rfl
@[simp] theorem State.report_flash (f : Fld) (c : Nat) : (s.report f c).flash = s.flash := rfl
@[simp] theorem State.report_memx (f : Fld) (c : Nat) : (s.report f c).memx = s.memx := rfl
@[simp] theorem State.report_nvs (f : Fld) (c : Nat) : (s.report f c).nvs = s.nvs := rfl
@[simp] theorem State.report_phs (f : Fld) (c : Nat) : (s.report f c).phs = s.phs := rfl
@[simp] theorem State.report_tsk (f : Fld) (c : Nat) : (s.report f c).tsk = s.tsk := rfl
@[simp] theorem State.report_engTicks (f : Fld) (c : Nat) : (s.report f c).engTicks = s.engTicks := rfl
@[simp] theorem State.report_img (f : Fld) (c : Nat) : (s.report f c).img = s.img := rfl
@[simp] theorem State.report_ledger (f : Fld) (c : Nat) : (s.report f c).ledger = s.ledger := rfl
@[simp] theorem State.report_admission (f : Fld) (c : Nat) : (s.report f c).admission = s.admission := rfl
@[simp] theorem State.report_loading (f : Fld) (c : Nat) : (s.report f c).loading = s.loading := rfl
@[simp] theorem State.report_tly (f : Fld) (c : Nat) : (s.report f c).tly = s.tly := rfl
@[simp] theorem State.report_ring (f : Fld) (c : Nat) : (s.report f c).ring = s.ring := rfl
@[simp] theorem State.report_met (f : Fld) (c : Nat) : (s.report f c).met = s.met := rfl
@[simp] theorem State.report_lpe (f : Fld) (c : Nat) : (s.report f c).lpe = s.lpe := rfl
@[simp] theorem State.report_key (f : Fld) (c : Nat) : (s.report f c).key = s.key := rfl
@[simp] theorem State.report_tim (f : Fld) (c : Nat) : (s.report f c).tim = s.tim := rfl
@[simp] theorem State.report_rtc (f : Fld) (c : Nat) : (s.report f c).rtc = s.rtc := rfl
@[simp] theorem State.report_net (f : Fld) (c : Nat) : (s.report f c).net = s.net := rfl
@[simp] theorem State.report_host (f : Fld) (c : Nat) : (s.report f c).host = s.host := rfl
@[simp] theorem State.report_fbs (f : Fld) (c : Nat) : (s.report f c).fbs = s.fbs := rfl
@[simp] theorem State.report_upd (f : Fld) (c : Nat) : (s.report f c).upd = s.upd := rfl
@[simp] theorem State.report_pwr (f : Fld) (c : Nat) : (s.report f c).pwr = s.pwr := rfl
@[simp] theorem State.report_busData (f : Fld) (c : Nat) : (s.report f c).busData = s.busData := rfl
@[simp] theorem State.report_busPoison (f : Fld) (c : Nat) : (s.report f c).busPoison = s.busPoison := rfl
@[simp] theorem State.report_clk (f : Fld) (c : Nat) : (s.report f c).clk = s.clk := rfl
@[simp] theorem State.report_free (f : Fld) (c : Nat) : (s.report f c).free = s.free := rfl
@[simp] theorem State.report_pending (f : Fld) (c : Nat) : (s.report f c).pending = s.pending := rfl

@[simp] theorem State.note_regs (c : Nat) : (s.note c).regs = s.regs := rfl
@[simp] theorem State.note_mem (c : Nat) : (s.note c).mem = s.mem := rfl
@[simp] theorem State.note_flash (c : Nat) : (s.note c).flash = s.flash := rfl
@[simp] theorem State.note_memx (c : Nat) : (s.note c).memx = s.memx := rfl
@[simp] theorem State.note_nvs (c : Nat) : (s.note c).nvs = s.nvs := rfl
@[simp] theorem State.note_phs (c : Nat) : (s.note c).phs = s.phs := rfl
@[simp] theorem State.note_tsk (c : Nat) : (s.note c).tsk = s.tsk := rfl
@[simp] theorem State.note_engTicks (c : Nat) : (s.note c).engTicks = s.engTicks := rfl
@[simp] theorem State.note_img (c : Nat) : (s.note c).img = s.img := rfl
@[simp] theorem State.note_ledger (c : Nat) : (s.note c).ledger = s.ledger := rfl
@[simp] theorem State.note_admission (c : Nat) : (s.note c).admission = s.admission := rfl
@[simp] theorem State.note_loading (c : Nat) : (s.note c).loading = s.loading := rfl
@[simp] theorem State.note_tly (c : Nat) : (s.note c).tly = s.tly := rfl
@[simp] theorem State.note_ring (c : Nat) : (s.note c).ring = s.ring := rfl
@[simp] theorem State.note_met (c : Nat) : (s.note c).met = s.met := rfl
@[simp] theorem State.note_lpe (c : Nat) : (s.note c).lpe = s.lpe := rfl
@[simp] theorem State.note_key (c : Nat) : (s.note c).key = s.key := rfl
@[simp] theorem State.note_tim (c : Nat) : (s.note c).tim = s.tim := rfl
@[simp] theorem State.note_rtc (c : Nat) : (s.note c).rtc = s.rtc := rfl
@[simp] theorem State.note_net (c : Nat) : (s.note c).net = s.net := rfl
@[simp] theorem State.note_host (c : Nat) : (s.note c).host = s.host := rfl
@[simp] theorem State.note_fbs (c : Nat) : (s.note c).fbs = s.fbs := rfl
@[simp] theorem State.note_upd (c : Nat) : (s.note c).upd = s.upd := rfl
@[simp] theorem State.note_pwr (c : Nat) : (s.note c).pwr = s.pwr := rfl
@[simp] theorem State.note_busData (c : Nat) : (s.note c).busData = s.busData := rfl
@[simp] theorem State.note_busPoison (c : Nat) : (s.note c).busPoison = s.busPoison := rfl
@[simp] theorem State.note_clk (c : Nat) : (s.note c).clk = s.clk := rfl
@[simp] theorem State.note_free (c : Nat) : (s.note c).free = s.free := rfl
@[simp] theorem State.note_pending (c : Nat) : (s.note c).pending = s.pending := rfl

@[simp] theorem State.useFree_regs : (s.useFree).regs = s.regs := rfl
@[simp] theorem State.useFree_mem : (s.useFree).mem = s.mem := rfl
@[simp] theorem State.useFree_flash : (s.useFree).flash = s.flash := rfl
@[simp] theorem State.useFree_memx : (s.useFree).memx = s.memx := rfl
@[simp] theorem State.useFree_nvs : (s.useFree).nvs = s.nvs := rfl
@[simp] theorem State.useFree_phs : (s.useFree).phs = s.phs := rfl
@[simp] theorem State.useFree_tsk : (s.useFree).tsk = s.tsk := rfl
@[simp] theorem State.useFree_engTicks : (s.useFree).engTicks = s.engTicks := rfl
@[simp] theorem State.useFree_img : (s.useFree).img = s.img := rfl
@[simp] theorem State.useFree_ledger : (s.useFree).ledger = s.ledger := rfl
@[simp] theorem State.useFree_admission : (s.useFree).admission = s.admission := rfl
@[simp] theorem State.useFree_loading : (s.useFree).loading = s.loading := rfl
@[simp] theorem State.useFree_tly : (s.useFree).tly = s.tly := rfl
@[simp] theorem State.useFree_ring : (s.useFree).ring = s.ring := rfl
@[simp] theorem State.useFree_met : (s.useFree).met = s.met := rfl
@[simp] theorem State.useFree_lpe : (s.useFree).lpe = s.lpe := rfl
@[simp] theorem State.useFree_key : (s.useFree).key = s.key := rfl
@[simp] theorem State.useFree_tim : (s.useFree).tim = s.tim := rfl
@[simp] theorem State.useFree_rtc : (s.useFree).rtc = s.rtc := rfl
@[simp] theorem State.useFree_net : (s.useFree).net = s.net := rfl
@[simp] theorem State.useFree_host : (s.useFree).host = s.host := rfl
@[simp] theorem State.useFree_fbs : (s.useFree).fbs = s.fbs := rfl
@[simp] theorem State.useFree_upd : (s.useFree).upd = s.upd := rfl
@[simp] theorem State.useFree_pwr : (s.useFree).pwr = s.pwr := rfl
@[simp] theorem State.useFree_busData : (s.useFree).busData = s.busData := rfl
@[simp] theorem State.useFree_busPoison : (s.useFree).busPoison = s.busPoison := rfl
@[simp] theorem State.useFree_clk : (s.useFree).clk = s.clk := rfl
@[simp] theorem State.useFree_lastReport : (s.useFree).lastReport = s.lastReport := rfl
@[simp] theorem State.useFree_pending : (s.useFree).pending = s.pending := rfl

@[simp] theorem State.setTask_regs (t : Nat) (v : TaskState) : (s.setTask t v).regs = s.regs := rfl
@[simp] theorem State.setTask_mem (t : Nat) (v : TaskState) : (s.setTask t v).mem = s.mem := rfl
@[simp] theorem State.setTask_flash (t : Nat) (v : TaskState) : (s.setTask t v).flash = s.flash := rfl
@[simp] theorem State.setTask_memx (t : Nat) (v : TaskState) : (s.setTask t v).memx = s.memx := rfl
@[simp] theorem State.setTask_nvs (t : Nat) (v : TaskState) : (s.setTask t v).nvs = s.nvs := rfl
@[simp] theorem State.setTask_phs (t : Nat) (v : TaskState) : (s.setTask t v).phs = s.phs := rfl
@[simp] theorem State.setTask_engTicks (t : Nat) (v : TaskState) : (s.setTask t v).engTicks = s.engTicks := rfl
@[simp] theorem State.setTask_img (t : Nat) (v : TaskState) : (s.setTask t v).img = s.img := rfl
@[simp] theorem State.setTask_ledger (t : Nat) (v : TaskState) : (s.setTask t v).ledger = s.ledger := rfl
@[simp] theorem State.setTask_admission (t : Nat) (v : TaskState) : (s.setTask t v).admission = s.admission := rfl
@[simp] theorem State.setTask_loading (t : Nat) (v : TaskState) : (s.setTask t v).loading = s.loading := rfl
@[simp] theorem State.setTask_tly (t : Nat) (v : TaskState) : (s.setTask t v).tly = s.tly := rfl
@[simp] theorem State.setTask_ring (t : Nat) (v : TaskState) : (s.setTask t v).ring = s.ring := rfl
@[simp] theorem State.setTask_met (t : Nat) (v : TaskState) : (s.setTask t v).met = s.met := rfl
@[simp] theorem State.setTask_lpe (t : Nat) (v : TaskState) : (s.setTask t v).lpe = s.lpe := rfl
@[simp] theorem State.setTask_key (t : Nat) (v : TaskState) : (s.setTask t v).key = s.key := rfl
@[simp] theorem State.setTask_tim (t : Nat) (v : TaskState) : (s.setTask t v).tim = s.tim := rfl
@[simp] theorem State.setTask_rtc (t : Nat) (v : TaskState) : (s.setTask t v).rtc = s.rtc := rfl
@[simp] theorem State.setTask_net (t : Nat) (v : TaskState) : (s.setTask t v).net = s.net := rfl
@[simp] theorem State.setTask_host (t : Nat) (v : TaskState) : (s.setTask t v).host = s.host := rfl
@[simp] theorem State.setTask_fbs (t : Nat) (v : TaskState) : (s.setTask t v).fbs = s.fbs := rfl
@[simp] theorem State.setTask_upd (t : Nat) (v : TaskState) : (s.setTask t v).upd = s.upd := rfl
@[simp] theorem State.setTask_pwr (t : Nat) (v : TaskState) : (s.setTask t v).pwr = s.pwr := rfl
@[simp] theorem State.setTask_busData (t : Nat) (v : TaskState) : (s.setTask t v).busData = s.busData := rfl
@[simp] theorem State.setTask_busPoison (t : Nat) (v : TaskState) : (s.setTask t v).busPoison = s.busPoison := rfl
@[simp] theorem State.setTask_clk (t : Nat) (v : TaskState) : (s.setTask t v).clk = s.clk := rfl
@[simp] theorem State.setTask_free (t : Nat) (v : TaskState) : (s.setTask t v).free = s.free := rfl
@[simp] theorem State.setTask_lastReport (t : Nat) (v : TaskState) : (s.setTask t v).lastReport = s.lastReport := rfl
@[simp] theorem State.setTask_pending (t : Nat) (v : TaskState) : (s.setTask t v).pending = s.pending := rfl

@[simp] theorem State.setCw_regs (a : Nat) (c : CwErr) : (s.setCw a c).regs = s.regs := rfl
@[simp] theorem State.setCw_mem (a : Nat) (c : CwErr) : (s.setCw a c).mem = s.mem := rfl
@[simp] theorem State.setCw_flash (a : Nat) (c : CwErr) : (s.setCw a c).flash = s.flash := rfl
@[simp] theorem State.setCw_nvs (a : Nat) (c : CwErr) : (s.setCw a c).nvs = s.nvs := rfl
@[simp] theorem State.setCw_phs (a : Nat) (c : CwErr) : (s.setCw a c).phs = s.phs := rfl
@[simp] theorem State.setCw_tsk (a : Nat) (c : CwErr) : (s.setCw a c).tsk = s.tsk := rfl
@[simp] theorem State.setCw_engTicks (a : Nat) (c : CwErr) : (s.setCw a c).engTicks = s.engTicks := rfl
@[simp] theorem State.setCw_img (a : Nat) (c : CwErr) : (s.setCw a c).img = s.img := rfl
@[simp] theorem State.setCw_ledger (a : Nat) (c : CwErr) : (s.setCw a c).ledger = s.ledger := rfl
@[simp] theorem State.setCw_admission (a : Nat) (c : CwErr) : (s.setCw a c).admission = s.admission := rfl
@[simp] theorem State.setCw_loading (a : Nat) (c : CwErr) : (s.setCw a c).loading = s.loading := rfl
@[simp] theorem State.setCw_tly (a : Nat) (c : CwErr) : (s.setCw a c).tly = s.tly := rfl
@[simp] theorem State.setCw_ring (a : Nat) (c : CwErr) : (s.setCw a c).ring = s.ring := rfl
@[simp] theorem State.setCw_met (a : Nat) (c : CwErr) : (s.setCw a c).met = s.met := rfl
@[simp] theorem State.setCw_lpe (a : Nat) (c : CwErr) : (s.setCw a c).lpe = s.lpe := rfl
@[simp] theorem State.setCw_key (a : Nat) (c : CwErr) : (s.setCw a c).key = s.key := rfl
@[simp] theorem State.setCw_tim (a : Nat) (c : CwErr) : (s.setCw a c).tim = s.tim := rfl
@[simp] theorem State.setCw_rtc (a : Nat) (c : CwErr) : (s.setCw a c).rtc = s.rtc := rfl
@[simp] theorem State.setCw_net (a : Nat) (c : CwErr) : (s.setCw a c).net = s.net := rfl
@[simp] theorem State.setCw_host (a : Nat) (c : CwErr) : (s.setCw a c).host = s.host := rfl
@[simp] theorem State.setCw_fbs (a : Nat) (c : CwErr) : (s.setCw a c).fbs = s.fbs := rfl
@[simp] theorem State.setCw_upd (a : Nat) (c : CwErr) : (s.setCw a c).upd = s.upd := rfl
@[simp] theorem State.setCw_pwr (a : Nat) (c : CwErr) : (s.setCw a c).pwr = s.pwr := rfl
@[simp] theorem State.setCw_busData (a : Nat) (c : CwErr) : (s.setCw a c).busData = s.busData := rfl
@[simp] theorem State.setCw_busPoison (a : Nat) (c : CwErr) : (s.setCw a c).busPoison = s.busPoison := rfl
@[simp] theorem State.setCw_clk (a : Nat) (c : CwErr) : (s.setCw a c).clk = s.clk := rfl
@[simp] theorem State.setCw_free (a : Nat) (c : CwErr) : (s.setCw a c).free = s.free := rfl
@[simp] theorem State.setCw_lastReport (a : Nat) (c : CwErr) : (s.setCw a c).lastReport = s.lastReport := rfl
@[simp] theorem State.setCw_pending (a : Nat) (c : CwErr) : (s.setCw a c).pending = s.pending := rfl

@[simp] theorem State.spend_regs (e n : Nat) : (s.spend e n).regs = s.regs := rfl
@[simp] theorem State.spend_mem (e n : Nat) : (s.spend e n).mem = s.mem := rfl
@[simp] theorem State.spend_flash (e n : Nat) : (s.spend e n).flash = s.flash := rfl
@[simp] theorem State.spend_memx (e n : Nat) : (s.spend e n).memx = s.memx := rfl
@[simp] theorem State.spend_nvs (e n : Nat) : (s.spend e n).nvs = s.nvs := rfl
@[simp] theorem State.spend_phs (e n : Nat) : (s.spend e n).phs = s.phs := rfl
@[simp] theorem State.spend_tsk (e n : Nat) : (s.spend e n).tsk = s.tsk := rfl
@[simp] theorem State.spend_img (e n : Nat) : (s.spend e n).img = s.img := rfl
@[simp] theorem State.spend_ledger (e n : Nat) : (s.spend e n).ledger = s.ledger := rfl
@[simp] theorem State.spend_admission (e n : Nat) : (s.spend e n).admission = s.admission := rfl
@[simp] theorem State.spend_loading (e n : Nat) : (s.spend e n).loading = s.loading := rfl
@[simp] theorem State.spend_tly (e n : Nat) : (s.spend e n).tly = s.tly := rfl
@[simp] theorem State.spend_ring (e n : Nat) : (s.spend e n).ring = s.ring := rfl
@[simp] theorem State.spend_met (e n : Nat) : (s.spend e n).met = s.met := rfl
@[simp] theorem State.spend_lpe (e n : Nat) : (s.spend e n).lpe = s.lpe := rfl
@[simp] theorem State.spend_key (e n : Nat) : (s.spend e n).key = s.key := rfl
@[simp] theorem State.spend_tim (e n : Nat) : (s.spend e n).tim = s.tim := rfl
@[simp] theorem State.spend_rtc (e n : Nat) : (s.spend e n).rtc = s.rtc := rfl
@[simp] theorem State.spend_net (e n : Nat) : (s.spend e n).net = s.net := rfl
@[simp] theorem State.spend_host (e n : Nat) : (s.spend e n).host = s.host := rfl
@[simp] theorem State.spend_fbs (e n : Nat) : (s.spend e n).fbs = s.fbs := rfl
@[simp] theorem State.spend_upd (e n : Nat) : (s.spend e n).upd = s.upd := rfl
@[simp] theorem State.spend_pwr (e n : Nat) : (s.spend e n).pwr = s.pwr := rfl
@[simp] theorem State.spend_busData (e n : Nat) : (s.spend e n).busData = s.busData := rfl
@[simp] theorem State.spend_busPoison (e n : Nat) : (s.spend e n).busPoison = s.busPoison := rfl
@[simp] theorem State.spend_clk (e n : Nat) : (s.spend e n).clk = s.clk := rfl
@[simp] theorem State.spend_free (e n : Nat) : (s.spend e n).free = s.free := rfl
@[simp] theorem State.spend_lastReport (e n : Nat) : (s.spend e n).lastReport = s.lastReport := rfl
@[simp] theorem State.spend_pending (e n : Nat) : (s.spend e n).pending = s.pending := rfl

@[simp] theorem State.tallyEvent_regs (c : Nat) (p : List (BitVec 8)) : (s.tallyEvent c p).regs = s.regs := rfl
@[simp] theorem State.tallyEvent_mem (c : Nat) (p : List (BitVec 8)) : (s.tallyEvent c p).mem = s.mem := rfl
@[simp] theorem State.tallyEvent_flash (c : Nat) (p : List (BitVec 8)) : (s.tallyEvent c p).flash = s.flash := rfl
@[simp] theorem State.tallyEvent_memx (c : Nat) (p : List (BitVec 8)) : (s.tallyEvent c p).memx = s.memx := rfl
@[simp] theorem State.tallyEvent_nvs (c : Nat) (p : List (BitVec 8)) : (s.tallyEvent c p).nvs = s.nvs := rfl
@[simp] theorem State.tallyEvent_phs (c : Nat) (p : List (BitVec 8)) : (s.tallyEvent c p).phs = s.phs := rfl
@[simp] theorem State.tallyEvent_tsk (c : Nat) (p : List (BitVec 8)) : (s.tallyEvent c p).tsk = s.tsk := rfl
@[simp] theorem State.tallyEvent_engTicks (c : Nat) (p : List (BitVec 8)) : (s.tallyEvent c p).engTicks = s.engTicks := rfl
@[simp] theorem State.tallyEvent_img (c : Nat) (p : List (BitVec 8)) : (s.tallyEvent c p).img = s.img := rfl
@[simp] theorem State.tallyEvent_ledger (c : Nat) (p : List (BitVec 8)) : (s.tallyEvent c p).ledger = s.ledger := rfl
@[simp] theorem State.tallyEvent_admission (c : Nat) (p : List (BitVec 8)) : (s.tallyEvent c p).admission = s.admission := rfl
@[simp] theorem State.tallyEvent_loading (c : Nat) (p : List (BitVec 8)) : (s.tallyEvent c p).loading = s.loading := rfl
@[simp] theorem State.tallyEvent_ring (c : Nat) (p : List (BitVec 8)) : (s.tallyEvent c p).ring = s.ring := rfl
@[simp] theorem State.tallyEvent_met (c : Nat) (p : List (BitVec 8)) : (s.tallyEvent c p).met = s.met := rfl
@[simp] theorem State.tallyEvent_lpe (c : Nat) (p : List (BitVec 8)) : (s.tallyEvent c p).lpe = s.lpe := rfl
@[simp] theorem State.tallyEvent_key (c : Nat) (p : List (BitVec 8)) : (s.tallyEvent c p).key = s.key := rfl
@[simp] theorem State.tallyEvent_tim (c : Nat) (p : List (BitVec 8)) : (s.tallyEvent c p).tim = s.tim := rfl
@[simp] theorem State.tallyEvent_rtc (c : Nat) (p : List (BitVec 8)) : (s.tallyEvent c p).rtc = s.rtc := rfl
@[simp] theorem State.tallyEvent_net (c : Nat) (p : List (BitVec 8)) : (s.tallyEvent c p).net = s.net := rfl
@[simp] theorem State.tallyEvent_host (c : Nat) (p : List (BitVec 8)) : (s.tallyEvent c p).host = s.host := rfl
@[simp] theorem State.tallyEvent_fbs (c : Nat) (p : List (BitVec 8)) : (s.tallyEvent c p).fbs = s.fbs := rfl
@[simp] theorem State.tallyEvent_upd (c : Nat) (p : List (BitVec 8)) : (s.tallyEvent c p).upd = s.upd := rfl
@[simp] theorem State.tallyEvent_pwr (c : Nat) (p : List (BitVec 8)) : (s.tallyEvent c p).pwr = s.pwr := rfl
@[simp] theorem State.tallyEvent_busData (c : Nat) (p : List (BitVec 8)) : (s.tallyEvent c p).busData = s.busData := rfl
@[simp] theorem State.tallyEvent_busPoison (c : Nat) (p : List (BitVec 8)) : (s.tallyEvent c p).busPoison = s.busPoison := rfl
@[simp] theorem State.tallyEvent_clk (c : Nat) (p : List (BitVec 8)) : (s.tallyEvent c p).clk = s.clk := rfl
@[simp] theorem State.tallyEvent_free (c : Nat) (p : List (BitVec 8)) : (s.tallyEvent c p).free = s.free := rfl
@[simp] theorem State.tallyEvent_lastReport (c : Nat) (p : List (BitVec 8)) : (s.tallyEvent c p).lastReport = s.lastReport := rfl
@[simp] theorem State.tallyEvent_pending (c : Nat) (p : List (BitVec 8)) : (s.tallyEvent c p).pending = s.pending := rfl

@[simp] theorem State.setX_mem (e : Eng) (n : BitVec 4) (v : Nat) : (s.setX e n v).mem = s.mem := rfl
@[simp] theorem State.setX_flash (e : Eng) (n : BitVec 4) (v : Nat) : (s.setX e n v).flash = s.flash := rfl
@[simp] theorem State.setX_memx (e : Eng) (n : BitVec 4) (v : Nat) : (s.setX e n v).memx = s.memx := rfl
@[simp] theorem State.setX_nvs (e : Eng) (n : BitVec 4) (v : Nat) : (s.setX e n v).nvs = s.nvs := rfl
@[simp] theorem State.setX_phs (e : Eng) (n : BitVec 4) (v : Nat) : (s.setX e n v).phs = s.phs := rfl
@[simp] theorem State.setX_tsk (e : Eng) (n : BitVec 4) (v : Nat) : (s.setX e n v).tsk = s.tsk := rfl
@[simp] theorem State.setX_engTicks (e : Eng) (n : BitVec 4) (v : Nat) : (s.setX e n v).engTicks = s.engTicks := rfl
@[simp] theorem State.setX_img (e : Eng) (n : BitVec 4) (v : Nat) : (s.setX e n v).img = s.img := rfl
@[simp] theorem State.setX_ledger (e : Eng) (n : BitVec 4) (v : Nat) : (s.setX e n v).ledger = s.ledger := rfl
@[simp] theorem State.setX_admission (e : Eng) (n : BitVec 4) (v : Nat) : (s.setX e n v).admission = s.admission := rfl
@[simp] theorem State.setX_loading (e : Eng) (n : BitVec 4) (v : Nat) : (s.setX e n v).loading = s.loading := rfl
@[simp] theorem State.setX_tly (e : Eng) (n : BitVec 4) (v : Nat) : (s.setX e n v).tly = s.tly := rfl
@[simp] theorem State.setX_ring (e : Eng) (n : BitVec 4) (v : Nat) : (s.setX e n v).ring = s.ring := rfl
@[simp] theorem State.setX_met (e : Eng) (n : BitVec 4) (v : Nat) : (s.setX e n v).met = s.met := rfl
@[simp] theorem State.setX_lpe (e : Eng) (n : BitVec 4) (v : Nat) : (s.setX e n v).lpe = s.lpe := rfl
@[simp] theorem State.setX_key (e : Eng) (n : BitVec 4) (v : Nat) : (s.setX e n v).key = s.key := rfl
@[simp] theorem State.setX_tim (e : Eng) (n : BitVec 4) (v : Nat) : (s.setX e n v).tim = s.tim := rfl
@[simp] theorem State.setX_rtc (e : Eng) (n : BitVec 4) (v : Nat) : (s.setX e n v).rtc = s.rtc := rfl
@[simp] theorem State.setX_net (e : Eng) (n : BitVec 4) (v : Nat) : (s.setX e n v).net = s.net := rfl
@[simp] theorem State.setX_host (e : Eng) (n : BitVec 4) (v : Nat) : (s.setX e n v).host = s.host := rfl
@[simp] theorem State.setX_fbs (e : Eng) (n : BitVec 4) (v : Nat) : (s.setX e n v).fbs = s.fbs := rfl
@[simp] theorem State.setX_upd (e : Eng) (n : BitVec 4) (v : Nat) : (s.setX e n v).upd = s.upd := rfl
@[simp] theorem State.setX_pwr (e : Eng) (n : BitVec 4) (v : Nat) : (s.setX e n v).pwr = s.pwr := rfl
@[simp] theorem State.setX_busData (e : Eng) (n : BitVec 4) (v : Nat) : (s.setX e n v).busData = s.busData := rfl
@[simp] theorem State.setX_busPoison (e : Eng) (n : BitVec 4) (v : Nat) : (s.setX e n v).busPoison = s.busPoison := rfl
@[simp] theorem State.setX_clk (e : Eng) (n : BitVec 4) (v : Nat) : (s.setX e n v).clk = s.clk := rfl
@[simp] theorem State.setX_free (e : Eng) (n : BitVec 4) (v : Nat) : (s.setX e n v).free = s.free := rfl
@[simp] theorem State.setX_lastReport (e : Eng) (n : BitVec 4) (v : Nat) : (s.setX e n v).lastReport = s.lastReport := rfl
@[simp] theorem State.setX_pending (e : Eng) (n : BitVec 4) (v : Nat) : (s.setX e n v).pending = s.pending := rfl

@[simp] theorem State.setIp_mem (e : Eng) (v : Nat) : (s.setIp e v).mem = s.mem := rfl
@[simp] theorem State.setIp_flash (e : Eng) (v : Nat) : (s.setIp e v).flash = s.flash := rfl
@[simp] theorem State.setIp_memx (e : Eng) (v : Nat) : (s.setIp e v).memx = s.memx := rfl
@[simp] theorem State.setIp_nvs (e : Eng) (v : Nat) : (s.setIp e v).nvs = s.nvs := rfl
@[simp] theorem State.setIp_phs (e : Eng) (v : Nat) : (s.setIp e v).phs = s.phs := rfl
@[simp] theorem State.setIp_tsk (e : Eng) (v : Nat) : (s.setIp e v).tsk = s.tsk := rfl
@[simp] theorem State.setIp_engTicks (e : Eng) (v : Nat) : (s.setIp e v).engTicks = s.engTicks := rfl
@[simp] theorem State.setIp_img (e : Eng) (v : Nat) : (s.setIp e v).img = s.img := rfl
@[simp] theorem State.setIp_ledger (e : Eng) (v : Nat) : (s.setIp e v).ledger = s.ledger := rfl
@[simp] theorem State.setIp_admission (e : Eng) (v : Nat) : (s.setIp e v).admission = s.admission := rfl
@[simp] theorem State.setIp_loading (e : Eng) (v : Nat) : (s.setIp e v).loading = s.loading := rfl
@[simp] theorem State.setIp_tly (e : Eng) (v : Nat) : (s.setIp e v).tly = s.tly := rfl
@[simp] theorem State.setIp_ring (e : Eng) (v : Nat) : (s.setIp e v).ring = s.ring := rfl
@[simp] theorem State.setIp_met (e : Eng) (v : Nat) : (s.setIp e v).met = s.met := rfl
@[simp] theorem State.setIp_lpe (e : Eng) (v : Nat) : (s.setIp e v).lpe = s.lpe := rfl
@[simp] theorem State.setIp_key (e : Eng) (v : Nat) : (s.setIp e v).key = s.key := rfl
@[simp] theorem State.setIp_tim (e : Eng) (v : Nat) : (s.setIp e v).tim = s.tim := rfl
@[simp] theorem State.setIp_rtc (e : Eng) (v : Nat) : (s.setIp e v).rtc = s.rtc := rfl
@[simp] theorem State.setIp_net (e : Eng) (v : Nat) : (s.setIp e v).net = s.net := rfl
@[simp] theorem State.setIp_host (e : Eng) (v : Nat) : (s.setIp e v).host = s.host := rfl
@[simp] theorem State.setIp_fbs (e : Eng) (v : Nat) : (s.setIp e v).fbs = s.fbs := rfl
@[simp] theorem State.setIp_upd (e : Eng) (v : Nat) : (s.setIp e v).upd = s.upd := rfl
@[simp] theorem State.setIp_pwr (e : Eng) (v : Nat) : (s.setIp e v).pwr = s.pwr := rfl
@[simp] theorem State.setIp_busData (e : Eng) (v : Nat) : (s.setIp e v).busData = s.busData := rfl
@[simp] theorem State.setIp_busPoison (e : Eng) (v : Nat) : (s.setIp e v).busPoison = s.busPoison := rfl
@[simp] theorem State.setIp_clk (e : Eng) (v : Nat) : (s.setIp e v).clk = s.clk := rfl
@[simp] theorem State.setIp_free (e : Eng) (v : Nat) : (s.setIp e v).free = s.free := rfl
@[simp] theorem State.setIp_lastReport (e : Eng) (v : Nat) : (s.setIp e v).lastReport = s.lastReport := rfl
@[simp] theorem State.setIp_pending (e : Eng) (v : Nat) : (s.setIp e v).pending = s.pending := rfl

@[simp] theorem State.setFlags_mem (e : Eng) (f : Flags) : (s.setFlags e f).mem = s.mem := rfl
@[simp] theorem State.setFlags_flash (e : Eng) (f : Flags) : (s.setFlags e f).flash = s.flash := rfl
@[simp] theorem State.setFlags_memx (e : Eng) (f : Flags) : (s.setFlags e f).memx = s.memx := rfl
@[simp] theorem State.setFlags_nvs (e : Eng) (f : Flags) : (s.setFlags e f).nvs = s.nvs := rfl
@[simp] theorem State.setFlags_phs (e : Eng) (f : Flags) : (s.setFlags e f).phs = s.phs := rfl
@[simp] theorem State.setFlags_tsk (e : Eng) (f : Flags) : (s.setFlags e f).tsk = s.tsk := rfl
@[simp] theorem State.setFlags_engTicks (e : Eng) (f : Flags) : (s.setFlags e f).engTicks = s.engTicks := rfl
@[simp] theorem State.setFlags_img (e : Eng) (f : Flags) : (s.setFlags e f).img = s.img := rfl
@[simp] theorem State.setFlags_ledger (e : Eng) (f : Flags) : (s.setFlags e f).ledger = s.ledger := rfl
@[simp] theorem State.setFlags_admission (e : Eng) (f : Flags) : (s.setFlags e f).admission = s.admission := rfl
@[simp] theorem State.setFlags_loading (e : Eng) (f : Flags) : (s.setFlags e f).loading = s.loading := rfl
@[simp] theorem State.setFlags_tly (e : Eng) (f : Flags) : (s.setFlags e f).tly = s.tly := rfl
@[simp] theorem State.setFlags_ring (e : Eng) (f : Flags) : (s.setFlags e f).ring = s.ring := rfl
@[simp] theorem State.setFlags_met (e : Eng) (f : Flags) : (s.setFlags e f).met = s.met := rfl
@[simp] theorem State.setFlags_lpe (e : Eng) (f : Flags) : (s.setFlags e f).lpe = s.lpe := rfl
@[simp] theorem State.setFlags_key (e : Eng) (f : Flags) : (s.setFlags e f).key = s.key := rfl
@[simp] theorem State.setFlags_tim (e : Eng) (f : Flags) : (s.setFlags e f).tim = s.tim := rfl
@[simp] theorem State.setFlags_rtc (e : Eng) (f : Flags) : (s.setFlags e f).rtc = s.rtc := rfl
@[simp] theorem State.setFlags_net (e : Eng) (f : Flags) : (s.setFlags e f).net = s.net := rfl
@[simp] theorem State.setFlags_host (e : Eng) (f : Flags) : (s.setFlags e f).host = s.host := rfl
@[simp] theorem State.setFlags_fbs (e : Eng) (f : Flags) : (s.setFlags e f).fbs = s.fbs := rfl
@[simp] theorem State.setFlags_upd (e : Eng) (f : Flags) : (s.setFlags e f).upd = s.upd := rfl
@[simp] theorem State.setFlags_pwr (e : Eng) (f : Flags) : (s.setFlags e f).pwr = s.pwr := rfl
@[simp] theorem State.setFlags_busData (e : Eng) (f : Flags) : (s.setFlags e f).busData = s.busData := rfl
@[simp] theorem State.setFlags_busPoison (e : Eng) (f : Flags) : (s.setFlags e f).busPoison = s.busPoison := rfl
@[simp] theorem State.setFlags_clk (e : Eng) (f : Flags) : (s.setFlags e f).clk = s.clk := rfl
@[simp] theorem State.setFlags_free (e : Eng) (f : Flags) : (s.setFlags e f).free = s.free := rfl
@[simp] theorem State.setFlags_lastReport (e : Eng) (f : Flags) : (s.setFlags e f).lastReport = s.lastReport := rfl
@[simp] theorem State.setFlags_pending (e : Eng) (f : Flags) : (s.setFlags e f).pending = s.pending := rfl

@[simp] theorem State.setFlash_regs (a n : Nat) (fl : Sparse (BitVec 8)) : (s.setFlash a n fl).regs = s.regs := rfl
@[simp] theorem State.setFlash_mem (a n : Nat) (fl : Sparse (BitVec 8)) : (s.setFlash a n fl).mem = s.mem := rfl
@[simp] theorem State.setFlash_memx (a n : Nat) (fl : Sparse (BitVec 8)) : (s.setFlash a n fl).memx = s.memx := rfl
@[simp] theorem State.setFlash_phs (a n : Nat) (fl : Sparse (BitVec 8)) : (s.setFlash a n fl).phs = s.phs := rfl
@[simp] theorem State.setFlash_tsk (a n : Nat) (fl : Sparse (BitVec 8)) : (s.setFlash a n fl).tsk = s.tsk := rfl
@[simp] theorem State.setFlash_engTicks (a n : Nat) (fl : Sparse (BitVec 8)) : (s.setFlash a n fl).engTicks = s.engTicks := rfl
@[simp] theorem State.setFlash_img (a n : Nat) (fl : Sparse (BitVec 8)) : (s.setFlash a n fl).img = s.img := rfl
@[simp] theorem State.setFlash_ledger (a n : Nat) (fl : Sparse (BitVec 8)) : (s.setFlash a n fl).ledger = s.ledger := rfl
@[simp] theorem State.setFlash_admission (a n : Nat) (fl : Sparse (BitVec 8)) : (s.setFlash a n fl).admission = s.admission := rfl
@[simp] theorem State.setFlash_loading (a n : Nat) (fl : Sparse (BitVec 8)) : (s.setFlash a n fl).loading = s.loading := rfl
@[simp] theorem State.setFlash_tly (a n : Nat) (fl : Sparse (BitVec 8)) : (s.setFlash a n fl).tly = s.tly := rfl
@[simp] theorem State.setFlash_ring (a n : Nat) (fl : Sparse (BitVec 8)) : (s.setFlash a n fl).ring = s.ring := rfl
@[simp] theorem State.setFlash_met (a n : Nat) (fl : Sparse (BitVec 8)) : (s.setFlash a n fl).met = s.met := rfl
@[simp] theorem State.setFlash_lpe (a n : Nat) (fl : Sparse (BitVec 8)) : (s.setFlash a n fl).lpe = s.lpe := rfl
@[simp] theorem State.setFlash_key (a n : Nat) (fl : Sparse (BitVec 8)) : (s.setFlash a n fl).key = s.key := rfl
@[simp] theorem State.setFlash_tim (a n : Nat) (fl : Sparse (BitVec 8)) : (s.setFlash a n fl).tim = s.tim := rfl
@[simp] theorem State.setFlash_rtc (a n : Nat) (fl : Sparse (BitVec 8)) : (s.setFlash a n fl).rtc = s.rtc := rfl
@[simp] theorem State.setFlash_net (a n : Nat) (fl : Sparse (BitVec 8)) : (s.setFlash a n fl).net = s.net := rfl
@[simp] theorem State.setFlash_host (a n : Nat) (fl : Sparse (BitVec 8)) : (s.setFlash a n fl).host = s.host := rfl
@[simp] theorem State.setFlash_fbs (a n : Nat) (fl : Sparse (BitVec 8)) : (s.setFlash a n fl).fbs = s.fbs := rfl
@[simp] theorem State.setFlash_upd (a n : Nat) (fl : Sparse (BitVec 8)) : (s.setFlash a n fl).upd = s.upd := rfl
@[simp] theorem State.setFlash_pwr (a n : Nat) (fl : Sparse (BitVec 8)) : (s.setFlash a n fl).pwr = s.pwr := rfl
@[simp] theorem State.setFlash_busData (a n : Nat) (fl : Sparse (BitVec 8)) : (s.setFlash a n fl).busData = s.busData := rfl
@[simp] theorem State.setFlash_busPoison (a n : Nat) (fl : Sparse (BitVec 8)) : (s.setFlash a n fl).busPoison = s.busPoison := rfl
@[simp] theorem State.setFlash_clk (a n : Nat) (fl : Sparse (BitVec 8)) : (s.setFlash a n fl).clk = s.clk := rfl
@[simp] theorem State.setFlash_free (a n : Nat) (fl : Sparse (BitVec 8)) : (s.setFlash a n fl).free = s.free := rfl
@[simp] theorem State.setFlash_lastReport (a n : Nat) (fl : Sparse (BitVec 8)) : (s.setFlash a n fl).lastReport = s.lastReport := rfl
@[simp] theorem State.setFlash_pending (a n : Nat) (fl : Sparse (BitVec 8)) : (s.setFlash a n fl).pending = s.pending := rfl

@[simp] theorem State.writeFailure_mem : (s.writeFailure).mem = s.mem := by simp [State.writeFailure]
@[simp] theorem State.writeFailure_flash : (s.writeFailure).flash = s.flash := by simp [State.writeFailure]
@[simp] theorem State.writeFailure_memx : (s.writeFailure).memx = s.memx := by simp [State.writeFailure]
@[simp] theorem State.writeFailure_nvs : (s.writeFailure).nvs = s.nvs := by simp [State.writeFailure]
@[simp] theorem State.writeFailure_phs : (s.writeFailure).phs = s.phs := by simp [State.writeFailure]
@[simp] theorem State.writeFailure_tsk : (s.writeFailure).tsk = s.tsk := by simp [State.writeFailure]
@[simp] theorem State.writeFailure_engTicks : (s.writeFailure).engTicks = s.engTicks := by simp [State.writeFailure]
@[simp] theorem State.writeFailure_img : (s.writeFailure).img = s.img := by simp [State.writeFailure]
@[simp] theorem State.writeFailure_ledger : (s.writeFailure).ledger = s.ledger := by simp [State.writeFailure]
@[simp] theorem State.writeFailure_admission : (s.writeFailure).admission = s.admission := by simp [State.writeFailure]
@[simp] theorem State.writeFailure_loading : (s.writeFailure).loading = s.loading := by simp [State.writeFailure]
@[simp] theorem State.writeFailure_tly : (s.writeFailure).tly = s.tly := by simp [State.writeFailure]
@[simp] theorem State.writeFailure_ring : (s.writeFailure).ring = s.ring := by simp [State.writeFailure]
@[simp] theorem State.writeFailure_met : (s.writeFailure).met = s.met := by simp [State.writeFailure]
@[simp] theorem State.writeFailure_lpe : (s.writeFailure).lpe = s.lpe := by simp [State.writeFailure]
@[simp] theorem State.writeFailure_key : (s.writeFailure).key = s.key := by simp [State.writeFailure]
@[simp] theorem State.writeFailure_tim : (s.writeFailure).tim = s.tim := by simp [State.writeFailure]
@[simp] theorem State.writeFailure_rtc : (s.writeFailure).rtc = s.rtc := by simp [State.writeFailure]
@[simp] theorem State.writeFailure_net : (s.writeFailure).net = s.net := by simp [State.writeFailure]
@[simp] theorem State.writeFailure_host : (s.writeFailure).host = s.host := by simp [State.writeFailure]
@[simp] theorem State.writeFailure_fbs : (s.writeFailure).fbs = s.fbs := by simp [State.writeFailure]
@[simp] theorem State.writeFailure_upd : (s.writeFailure).upd = s.upd := by simp [State.writeFailure]
@[simp] theorem State.writeFailure_pwr : (s.writeFailure).pwr = s.pwr := by simp [State.writeFailure]
@[simp] theorem State.writeFailure_busData : (s.writeFailure).busData = s.busData := by simp [State.writeFailure]
@[simp] theorem State.writeFailure_busPoison : (s.writeFailure).busPoison = s.busPoison := by simp [State.writeFailure]
@[simp] theorem State.writeFailure_clk : (s.writeFailure).clk = s.clk := by simp [State.writeFailure]
@[simp] theorem State.writeFailure_free : (s.writeFailure).free = s.free := by simp [State.writeFailure]
@[simp] theorem State.writeFailure_pending : (s.writeFailure).pending = s.pending := by simp [State.writeFailure]

@[simp] theorem State.flashPut_mem (a : Nat) (bs : List (BitVec 8)) : (s.flashPut a bs).mem = s.mem := by unfold State.flashPut; dsimp only; split <;> simp [State.writeFailure]
@[simp] theorem State.flashPut_memx (a : Nat) (bs : List (BitVec 8)) : (s.flashPut a bs).memx = s.memx := by unfold State.flashPut; dsimp only; split <;> simp [State.writeFailure]
@[simp] theorem State.flashPut_phs (a : Nat) (bs : List (BitVec 8)) : (s.flashPut a bs).phs = s.phs := by unfold State.flashPut; dsimp only; split <;> simp [State.writeFailure]
@[simp] theorem State.flashPut_tsk (a : Nat) (bs : List (BitVec 8)) : (s.flashPut a bs).tsk = s.tsk := by unfold State.flashPut; dsimp only; split <;> simp [State.writeFailure]
@[simp] theorem State.flashPut_engTicks (a : Nat) (bs : List (BitVec 8)) : (s.flashPut a bs).engTicks = s.engTicks := by unfold State.flashPut; dsimp only; split <;> simp [State.writeFailure]
@[simp] theorem State.flashPut_img (a : Nat) (bs : List (BitVec 8)) : (s.flashPut a bs).img = s.img := by unfold State.flashPut; dsimp only; split <;> simp [State.writeFailure]
@[simp] theorem State.flashPut_ledger (a : Nat) (bs : List (BitVec 8)) : (s.flashPut a bs).ledger = s.ledger := by unfold State.flashPut; dsimp only; split <;> simp [State.writeFailure]
@[simp] theorem State.flashPut_admission (a : Nat) (bs : List (BitVec 8)) : (s.flashPut a bs).admission = s.admission := by unfold State.flashPut; dsimp only; split <;> simp [State.writeFailure]
@[simp] theorem State.flashPut_loading (a : Nat) (bs : List (BitVec 8)) : (s.flashPut a bs).loading = s.loading := by unfold State.flashPut; dsimp only; split <;> simp [State.writeFailure]
@[simp] theorem State.flashPut_tly (a : Nat) (bs : List (BitVec 8)) : (s.flashPut a bs).tly = s.tly := by unfold State.flashPut; dsimp only; split <;> simp [State.writeFailure]
@[simp] theorem State.flashPut_ring (a : Nat) (bs : List (BitVec 8)) : (s.flashPut a bs).ring = s.ring := by unfold State.flashPut; dsimp only; split <;> simp [State.writeFailure]
@[simp] theorem State.flashPut_met (a : Nat) (bs : List (BitVec 8)) : (s.flashPut a bs).met = s.met := by unfold State.flashPut; dsimp only; split <;> simp [State.writeFailure]
@[simp] theorem State.flashPut_lpe (a : Nat) (bs : List (BitVec 8)) : (s.flashPut a bs).lpe = s.lpe := by unfold State.flashPut; dsimp only; split <;> simp [State.writeFailure]
@[simp] theorem State.flashPut_key (a : Nat) (bs : List (BitVec 8)) : (s.flashPut a bs).key = s.key := by unfold State.flashPut; dsimp only; split <;> simp [State.writeFailure]
@[simp] theorem State.flashPut_tim (a : Nat) (bs : List (BitVec 8)) : (s.flashPut a bs).tim = s.tim := by unfold State.flashPut; dsimp only; split <;> simp [State.writeFailure]
@[simp] theorem State.flashPut_rtc (a : Nat) (bs : List (BitVec 8)) : (s.flashPut a bs).rtc = s.rtc := by unfold State.flashPut; dsimp only; split <;> simp [State.writeFailure]
@[simp] theorem State.flashPut_net (a : Nat) (bs : List (BitVec 8)) : (s.flashPut a bs).net = s.net := by unfold State.flashPut; dsimp only; split <;> simp [State.writeFailure]
@[simp] theorem State.flashPut_host (a : Nat) (bs : List (BitVec 8)) : (s.flashPut a bs).host = s.host := by unfold State.flashPut; dsimp only; split <;> simp [State.writeFailure]
@[simp] theorem State.flashPut_fbs (a : Nat) (bs : List (BitVec 8)) : (s.flashPut a bs).fbs = s.fbs := by unfold State.flashPut; dsimp only; split <;> simp [State.writeFailure]
@[simp] theorem State.flashPut_upd (a : Nat) (bs : List (BitVec 8)) : (s.flashPut a bs).upd = s.upd := by unfold State.flashPut; dsimp only; split <;> simp [State.writeFailure]
@[simp] theorem State.flashPut_pwr (a : Nat) (bs : List (BitVec 8)) : (s.flashPut a bs).pwr = s.pwr := by unfold State.flashPut; dsimp only; split <;> simp [State.writeFailure]
@[simp] theorem State.flashPut_busData (a : Nat) (bs : List (BitVec 8)) : (s.flashPut a bs).busData = s.busData := by unfold State.flashPut; dsimp only; split <;> simp [State.writeFailure]
@[simp] theorem State.flashPut_busPoison (a : Nat) (bs : List (BitVec 8)) : (s.flashPut a bs).busPoison = s.busPoison := by unfold State.flashPut; dsimp only; split <;> simp [State.writeFailure]
@[simp] theorem State.flashPut_clk (a : Nat) (bs : List (BitVec 8)) : (s.flashPut a bs).clk = s.clk := by unfold State.flashPut; dsimp only; split <;> simp [State.writeFailure]
@[simp] theorem State.flashPut_free (a : Nat) (bs : List (BitVec 8)) : (s.flashPut a bs).free = s.free := by unfold State.flashPut; dsimp only; split <;> simp [State.writeFailure]
@[simp] theorem State.flashPut_pending (a : Nat) (bs : List (BitVec 8)) : (s.flashPut a bs).pending = s.pending := by unfold State.flashPut; dsimp only; split <;> simp [State.writeFailure]

@[simp] theorem State.claimBlocks_mem (lba n : Nat) : (s.claimBlocks lba n).mem = s.mem := foldl_keeps (fun (s : State) (_ : Nat) => s.writeFailure) (·.mem) (fun s _ => s.writeFailure_mem) _ s
@[simp] theorem State.claimBlocks_flash (lba n : Nat) : (s.claimBlocks lba n).flash = s.flash := foldl_keeps (fun (s : State) (_ : Nat) => s.writeFailure) (·.flash) (fun s _ => s.writeFailure_flash) _ s
@[simp] theorem State.claimBlocks_memx (lba n : Nat) : (s.claimBlocks lba n).memx = s.memx := foldl_keeps (fun (s : State) (_ : Nat) => s.writeFailure) (·.memx) (fun s _ => s.writeFailure_memx) _ s
@[simp] theorem State.claimBlocks_phs (lba n : Nat) : (s.claimBlocks lba n).phs = s.phs := foldl_keeps (fun (s : State) (_ : Nat) => s.writeFailure) (·.phs) (fun s _ => s.writeFailure_phs) _ s
@[simp] theorem State.claimBlocks_tsk (lba n : Nat) : (s.claimBlocks lba n).tsk = s.tsk := foldl_keeps (fun (s : State) (_ : Nat) => s.writeFailure) (·.tsk) (fun s _ => s.writeFailure_tsk) _ s
@[simp] theorem State.claimBlocks_engTicks (lba n : Nat) : (s.claimBlocks lba n).engTicks = s.engTicks := foldl_keeps (fun (s : State) (_ : Nat) => s.writeFailure) (·.engTicks) (fun s _ => s.writeFailure_engTicks) _ s
@[simp] theorem State.claimBlocks_img (lba n : Nat) : (s.claimBlocks lba n).img = s.img := foldl_keeps (fun (s : State) (_ : Nat) => s.writeFailure) (·.img) (fun s _ => s.writeFailure_img) _ s
@[simp] theorem State.claimBlocks_ledger (lba n : Nat) : (s.claimBlocks lba n).ledger = s.ledger := foldl_keeps (fun (s : State) (_ : Nat) => s.writeFailure) (·.ledger) (fun s _ => s.writeFailure_ledger) _ s
@[simp] theorem State.claimBlocks_admission (lba n : Nat) : (s.claimBlocks lba n).admission = s.admission := foldl_keeps (fun (s : State) (_ : Nat) => s.writeFailure) (·.admission) (fun s _ => s.writeFailure_admission) _ s
@[simp] theorem State.claimBlocks_loading (lba n : Nat) : (s.claimBlocks lba n).loading = s.loading := foldl_keeps (fun (s : State) (_ : Nat) => s.writeFailure) (·.loading) (fun s _ => s.writeFailure_loading) _ s
@[simp] theorem State.claimBlocks_tly (lba n : Nat) : (s.claimBlocks lba n).tly = s.tly := foldl_keeps (fun (s : State) (_ : Nat) => s.writeFailure) (·.tly) (fun s _ => s.writeFailure_tly) _ s
@[simp] theorem State.claimBlocks_ring (lba n : Nat) : (s.claimBlocks lba n).ring = s.ring := foldl_keeps (fun (s : State) (_ : Nat) => s.writeFailure) (·.ring) (fun s _ => s.writeFailure_ring) _ s
@[simp] theorem State.claimBlocks_met (lba n : Nat) : (s.claimBlocks lba n).met = s.met := foldl_keeps (fun (s : State) (_ : Nat) => s.writeFailure) (·.met) (fun s _ => s.writeFailure_met) _ s
@[simp] theorem State.claimBlocks_lpe (lba n : Nat) : (s.claimBlocks lba n).lpe = s.lpe := foldl_keeps (fun (s : State) (_ : Nat) => s.writeFailure) (·.lpe) (fun s _ => s.writeFailure_lpe) _ s
@[simp] theorem State.claimBlocks_key (lba n : Nat) : (s.claimBlocks lba n).key = s.key := foldl_keeps (fun (s : State) (_ : Nat) => s.writeFailure) (·.key) (fun s _ => s.writeFailure_key) _ s
@[simp] theorem State.claimBlocks_tim (lba n : Nat) : (s.claimBlocks lba n).tim = s.tim := foldl_keeps (fun (s : State) (_ : Nat) => s.writeFailure) (·.tim) (fun s _ => s.writeFailure_tim) _ s
@[simp] theorem State.claimBlocks_rtc (lba n : Nat) : (s.claimBlocks lba n).rtc = s.rtc := foldl_keeps (fun (s : State) (_ : Nat) => s.writeFailure) (·.rtc) (fun s _ => s.writeFailure_rtc) _ s
@[simp] theorem State.claimBlocks_net (lba n : Nat) : (s.claimBlocks lba n).net = s.net := foldl_keeps (fun (s : State) (_ : Nat) => s.writeFailure) (·.net) (fun s _ => s.writeFailure_net) _ s
@[simp] theorem State.claimBlocks_host (lba n : Nat) : (s.claimBlocks lba n).host = s.host := foldl_keeps (fun (s : State) (_ : Nat) => s.writeFailure) (·.host) (fun s _ => s.writeFailure_host) _ s
@[simp] theorem State.claimBlocks_fbs (lba n : Nat) : (s.claimBlocks lba n).fbs = s.fbs := foldl_keeps (fun (s : State) (_ : Nat) => s.writeFailure) (·.fbs) (fun s _ => s.writeFailure_fbs) _ s
@[simp] theorem State.claimBlocks_upd (lba n : Nat) : (s.claimBlocks lba n).upd = s.upd := foldl_keeps (fun (s : State) (_ : Nat) => s.writeFailure) (·.upd) (fun s _ => s.writeFailure_upd) _ s
@[simp] theorem State.claimBlocks_pwr (lba n : Nat) : (s.claimBlocks lba n).pwr = s.pwr := foldl_keeps (fun (s : State) (_ : Nat) => s.writeFailure) (·.pwr) (fun s _ => s.writeFailure_pwr) _ s
@[simp] theorem State.claimBlocks_busData (lba n : Nat) : (s.claimBlocks lba n).busData = s.busData := foldl_keeps (fun (s : State) (_ : Nat) => s.writeFailure) (·.busData) (fun s _ => s.writeFailure_busData) _ s
@[simp] theorem State.claimBlocks_busPoison (lba n : Nat) : (s.claimBlocks lba n).busPoison = s.busPoison := foldl_keeps (fun (s : State) (_ : Nat) => s.writeFailure) (·.busPoison) (fun s _ => s.writeFailure_busPoison) _ s
@[simp] theorem State.claimBlocks_clk (lba n : Nat) : (s.claimBlocks lba n).clk = s.clk := foldl_keeps (fun (s : State) (_ : Nat) => s.writeFailure) (·.clk) (fun s _ => s.writeFailure_clk) _ s
@[simp] theorem State.claimBlocks_free (lba n : Nat) : (s.claimBlocks lba n).free = s.free := foldl_keeps (fun (s : State) (_ : Nat) => s.writeFailure) (·.free) (fun s _ => s.writeFailure_free) _ s
@[simp] theorem State.claimBlocks_pending (lba n : Nat) : (s.claimBlocks lba n).pending = s.pending := foldl_keeps (fun (s : State) (_ : Nat) => s.writeFailure) (·.pending) (fun s _ => s.writeFailure_pending) _ s

@[simp] theorem State.overwrite_regs (lba n : Nat) : (s.overwrite lba n).regs = s.regs := rfl
@[simp] theorem State.overwrite_mem (lba n : Nat) : (s.overwrite lba n).mem = s.mem := rfl
@[simp] theorem State.overwrite_flash (lba n : Nat) : (s.overwrite lba n).flash = s.flash := rfl
@[simp] theorem State.overwrite_memx (lba n : Nat) : (s.overwrite lba n).memx = s.memx := rfl
@[simp] theorem State.overwrite_phs (lba n : Nat) : (s.overwrite lba n).phs = s.phs := rfl
@[simp] theorem State.overwrite_tsk (lba n : Nat) : (s.overwrite lba n).tsk = s.tsk := rfl
@[simp] theorem State.overwrite_engTicks (lba n : Nat) : (s.overwrite lba n).engTicks = s.engTicks := rfl
@[simp] theorem State.overwrite_img (lba n : Nat) : (s.overwrite lba n).img = s.img := rfl
@[simp] theorem State.overwrite_ledger (lba n : Nat) : (s.overwrite lba n).ledger = s.ledger := rfl
@[simp] theorem State.overwrite_admission (lba n : Nat) : (s.overwrite lba n).admission = s.admission := rfl
@[simp] theorem State.overwrite_loading (lba n : Nat) : (s.overwrite lba n).loading = s.loading := rfl
@[simp] theorem State.overwrite_tly (lba n : Nat) : (s.overwrite lba n).tly = s.tly := rfl
@[simp] theorem State.overwrite_ring (lba n : Nat) : (s.overwrite lba n).ring = s.ring := rfl
@[simp] theorem State.overwrite_met (lba n : Nat) : (s.overwrite lba n).met = s.met := rfl
@[simp] theorem State.overwrite_lpe (lba n : Nat) : (s.overwrite lba n).lpe = s.lpe := rfl
@[simp] theorem State.overwrite_key (lba n : Nat) : (s.overwrite lba n).key = s.key := rfl
@[simp] theorem State.overwrite_tim (lba n : Nat) : (s.overwrite lba n).tim = s.tim := rfl
@[simp] theorem State.overwrite_rtc (lba n : Nat) : (s.overwrite lba n).rtc = s.rtc := rfl
@[simp] theorem State.overwrite_net (lba n : Nat) : (s.overwrite lba n).net = s.net := rfl
@[simp] theorem State.overwrite_host (lba n : Nat) : (s.overwrite lba n).host = s.host := rfl
@[simp] theorem State.overwrite_fbs (lba n : Nat) : (s.overwrite lba n).fbs = s.fbs := rfl
@[simp] theorem State.overwrite_upd (lba n : Nat) : (s.overwrite lba n).upd = s.upd := rfl
@[simp] theorem State.overwrite_pwr (lba n : Nat) : (s.overwrite lba n).pwr = s.pwr := rfl
@[simp] theorem State.overwrite_busData (lba n : Nat) : (s.overwrite lba n).busData = s.busData := rfl
@[simp] theorem State.overwrite_busPoison (lba n : Nat) : (s.overwrite lba n).busPoison = s.busPoison := rfl
@[simp] theorem State.overwrite_clk (lba n : Nat) : (s.overwrite lba n).clk = s.clk := rfl
@[simp] theorem State.overwrite_free (lba n : Nat) : (s.overwrite lba n).free = s.free := rfl
@[simp] theorem State.overwrite_lastReport (lba n : Nat) : (s.overwrite lba n).lastReport = s.lastReport := rfl
@[simp] theorem State.overwrite_pending (lba n : Nat) : (s.overwrite lba n).pending = s.pending := rfl

@[simp] theorem State.send_regs (rs : List HostReply) : (s.send rs).regs = s.regs := by unfold State.send; split <;> rfl
@[simp] theorem State.send_mem (rs : List HostReply) : (s.send rs).mem = s.mem := by unfold State.send; split <;> rfl
@[simp] theorem State.send_flash (rs : List HostReply) : (s.send rs).flash = s.flash := by unfold State.send; split <;> rfl
@[simp] theorem State.send_memx (rs : List HostReply) : (s.send rs).memx = s.memx := by unfold State.send; split <;> rfl
@[simp] theorem State.send_nvs (rs : List HostReply) : (s.send rs).nvs = s.nvs := by unfold State.send; split <;> rfl
@[simp] theorem State.send_phs (rs : List HostReply) : (s.send rs).phs = s.phs := by unfold State.send; split <;> rfl
@[simp] theorem State.send_tsk (rs : List HostReply) : (s.send rs).tsk = s.tsk := by unfold State.send; split <;> rfl
@[simp] theorem State.send_engTicks (rs : List HostReply) : (s.send rs).engTicks = s.engTicks := by unfold State.send; split <;> rfl
@[simp] theorem State.send_img (rs : List HostReply) : (s.send rs).img = s.img := by unfold State.send; split <;> rfl
@[simp] theorem State.send_ledger (rs : List HostReply) : (s.send rs).ledger = s.ledger := by unfold State.send; split <;> rfl
@[simp] theorem State.send_admission (rs : List HostReply) : (s.send rs).admission = s.admission := by unfold State.send; split <;> rfl
@[simp] theorem State.send_loading (rs : List HostReply) : (s.send rs).loading = s.loading := by unfold State.send; split <;> rfl
@[simp] theorem State.send_tly (rs : List HostReply) : (s.send rs).tly = s.tly := by unfold State.send; split <;> rfl
@[simp] theorem State.send_ring (rs : List HostReply) : (s.send rs).ring = s.ring := by unfold State.send; split <;> rfl
@[simp] theorem State.send_met (rs : List HostReply) : (s.send rs).met = s.met := by unfold State.send; split <;> rfl
@[simp] theorem State.send_lpe (rs : List HostReply) : (s.send rs).lpe = s.lpe := by unfold State.send; split <;> rfl
@[simp] theorem State.send_key (rs : List HostReply) : (s.send rs).key = s.key := by unfold State.send; split <;> rfl
@[simp] theorem State.send_tim (rs : List HostReply) : (s.send rs).tim = s.tim := by unfold State.send; split <;> rfl
@[simp] theorem State.send_rtc (rs : List HostReply) : (s.send rs).rtc = s.rtc := by unfold State.send; split <;> rfl
@[simp] theorem State.send_net (rs : List HostReply) : (s.send rs).net = s.net := by unfold State.send; split <;> rfl
@[simp] theorem State.send_fbs (rs : List HostReply) : (s.send rs).fbs = s.fbs := by unfold State.send; split <;> rfl
@[simp] theorem State.send_upd (rs : List HostReply) : (s.send rs).upd = s.upd := by unfold State.send; split <;> rfl
@[simp] theorem State.send_pwr (rs : List HostReply) : (s.send rs).pwr = s.pwr := by unfold State.send; split <;> rfl
@[simp] theorem State.send_busData (rs : List HostReply) : (s.send rs).busData = s.busData := by unfold State.send; split <;> rfl
@[simp] theorem State.send_busPoison (rs : List HostReply) : (s.send rs).busPoison = s.busPoison := by unfold State.send; split <;> rfl
@[simp] theorem State.send_clk (rs : List HostReply) : (s.send rs).clk = s.clk := by unfold State.send; split <;> rfl
@[simp] theorem State.send_free (rs : List HostReply) : (s.send rs).free = s.free := by unfold State.send; split <;> rfl
@[simp] theorem State.send_lastReport (rs : List HostReply) : (s.send rs).lastReport = s.lastReport := by unfold State.send; split <;> rfl
@[simp] theorem State.send_pending (rs : List HostReply) : (s.send rs).pending = s.pending := by unfold State.send; split <;> rfl

@[simp] theorem State.owe_regs (q : Ask) : (s.owe q).regs = s.regs := rfl
@[simp] theorem State.owe_mem (q : Ask) : (s.owe q).mem = s.mem := rfl
@[simp] theorem State.owe_flash (q : Ask) : (s.owe q).flash = s.flash := rfl
@[simp] theorem State.owe_memx (q : Ask) : (s.owe q).memx = s.memx := rfl
@[simp] theorem State.owe_nvs (q : Ask) : (s.owe q).nvs = s.nvs := rfl
@[simp] theorem State.owe_phs (q : Ask) : (s.owe q).phs = s.phs := rfl
@[simp] theorem State.owe_tsk (q : Ask) : (s.owe q).tsk = s.tsk := rfl
@[simp] theorem State.owe_engTicks (q : Ask) : (s.owe q).engTicks = s.engTicks := rfl
@[simp] theorem State.owe_img (q : Ask) : (s.owe q).img = s.img := rfl
@[simp] theorem State.owe_ledger (q : Ask) : (s.owe q).ledger = s.ledger := rfl
@[simp] theorem State.owe_admission (q : Ask) : (s.owe q).admission = s.admission := rfl
@[simp] theorem State.owe_loading (q : Ask) : (s.owe q).loading = s.loading := rfl
@[simp] theorem State.owe_tly (q : Ask) : (s.owe q).tly = s.tly := rfl
@[simp] theorem State.owe_ring (q : Ask) : (s.owe q).ring = s.ring := rfl
@[simp] theorem State.owe_met (q : Ask) : (s.owe q).met = s.met := rfl
@[simp] theorem State.owe_lpe (q : Ask) : (s.owe q).lpe = s.lpe := rfl
@[simp] theorem State.owe_key (q : Ask) : (s.owe q).key = s.key := rfl
@[simp] theorem State.owe_tim (q : Ask) : (s.owe q).tim = s.tim := rfl
@[simp] theorem State.owe_rtc (q : Ask) : (s.owe q).rtc = s.rtc := rfl
@[simp] theorem State.owe_net (q : Ask) : (s.owe q).net = s.net := rfl
@[simp] theorem State.owe_fbs (q : Ask) : (s.owe q).fbs = s.fbs := rfl
@[simp] theorem State.owe_upd (q : Ask) : (s.owe q).upd = s.upd := rfl
@[simp] theorem State.owe_pwr (q : Ask) : (s.owe q).pwr = s.pwr := rfl
@[simp] theorem State.owe_busData (q : Ask) : (s.owe q).busData = s.busData := rfl
@[simp] theorem State.owe_busPoison (q : Ask) : (s.owe q).busPoison = s.busPoison := rfl
@[simp] theorem State.owe_clk (q : Ask) : (s.owe q).clk = s.clk := rfl
@[simp] theorem State.owe_free (q : Ask) : (s.owe q).free = s.free := rfl
@[simp] theorem State.owe_lastReport (q : Ask) : (s.owe q).lastReport = s.lastReport := rfl
@[simp] theorem State.owe_pending (q : Ask) : (s.owe q).pending = s.pending := rfl

@[simp] theorem State.answer_regs (q : Ask) (fault : Nat) (body : List (BitVec 8)) : (s.answer q fault body).regs = s.regs := by unfold State.answer; dsimp only; split <;> simp
@[simp] theorem State.answer_mem (q : Ask) (fault : Nat) (body : List (BitVec 8)) : (s.answer q fault body).mem = s.mem := by unfold State.answer; dsimp only; split <;> simp
@[simp] theorem State.answer_flash (q : Ask) (fault : Nat) (body : List (BitVec 8)) : (s.answer q fault body).flash = s.flash := by unfold State.answer; dsimp only; split <;> simp
@[simp] theorem State.answer_memx (q : Ask) (fault : Nat) (body : List (BitVec 8)) : (s.answer q fault body).memx = s.memx := by unfold State.answer; dsimp only; split <;> simp
@[simp] theorem State.answer_nvs (q : Ask) (fault : Nat) (body : List (BitVec 8)) : (s.answer q fault body).nvs = s.nvs := by unfold State.answer; dsimp only; split <;> simp
@[simp] theorem State.answer_phs (q : Ask) (fault : Nat) (body : List (BitVec 8)) : (s.answer q fault body).phs = s.phs := by unfold State.answer; dsimp only; split <;> simp
@[simp] theorem State.answer_tsk (q : Ask) (fault : Nat) (body : List (BitVec 8)) : (s.answer q fault body).tsk = s.tsk := by unfold State.answer; dsimp only; split <;> simp
@[simp] theorem State.answer_engTicks (q : Ask) (fault : Nat) (body : List (BitVec 8)) : (s.answer q fault body).engTicks = s.engTicks := by unfold State.answer; dsimp only; split <;> simp
@[simp] theorem State.answer_img (q : Ask) (fault : Nat) (body : List (BitVec 8)) : (s.answer q fault body).img = s.img := by unfold State.answer; dsimp only; split <;> simp
@[simp] theorem State.answer_ledger (q : Ask) (fault : Nat) (body : List (BitVec 8)) : (s.answer q fault body).ledger = s.ledger := by unfold State.answer; dsimp only; split <;> simp
@[simp] theorem State.answer_admission (q : Ask) (fault : Nat) (body : List (BitVec 8)) : (s.answer q fault body).admission = s.admission := by unfold State.answer; dsimp only; split <;> simp
@[simp] theorem State.answer_loading (q : Ask) (fault : Nat) (body : List (BitVec 8)) : (s.answer q fault body).loading = s.loading := by unfold State.answer; dsimp only; split <;> simp
@[simp] theorem State.answer_tly (q : Ask) (fault : Nat) (body : List (BitVec 8)) : (s.answer q fault body).tly = s.tly := by unfold State.answer; dsimp only; split <;> simp
@[simp] theorem State.answer_ring (q : Ask) (fault : Nat) (body : List (BitVec 8)) : (s.answer q fault body).ring = s.ring := by unfold State.answer; dsimp only; split <;> simp
@[simp] theorem State.answer_met (q : Ask) (fault : Nat) (body : List (BitVec 8)) : (s.answer q fault body).met = s.met := by unfold State.answer; dsimp only; split <;> simp
@[simp] theorem State.answer_lpe (q : Ask) (fault : Nat) (body : List (BitVec 8)) : (s.answer q fault body).lpe = s.lpe := by unfold State.answer; dsimp only; split <;> simp
@[simp] theorem State.answer_key (q : Ask) (fault : Nat) (body : List (BitVec 8)) : (s.answer q fault body).key = s.key := by unfold State.answer; dsimp only; split <;> simp
@[simp] theorem State.answer_tim (q : Ask) (fault : Nat) (body : List (BitVec 8)) : (s.answer q fault body).tim = s.tim := by unfold State.answer; dsimp only; split <;> simp
@[simp] theorem State.answer_rtc (q : Ask) (fault : Nat) (body : List (BitVec 8)) : (s.answer q fault body).rtc = s.rtc := by unfold State.answer; dsimp only; split <;> simp
@[simp] theorem State.answer_net (q : Ask) (fault : Nat) (body : List (BitVec 8)) : (s.answer q fault body).net = s.net := by unfold State.answer; dsimp only; split <;> simp
@[simp] theorem State.answer_fbs (q : Ask) (fault : Nat) (body : List (BitVec 8)) : (s.answer q fault body).fbs = s.fbs := by unfold State.answer; dsimp only; split <;> simp
@[simp] theorem State.answer_upd (q : Ask) (fault : Nat) (body : List (BitVec 8)) : (s.answer q fault body).upd = s.upd := by unfold State.answer; dsimp only; split <;> simp
@[simp] theorem State.answer_pwr (q : Ask) (fault : Nat) (body : List (BitVec 8)) : (s.answer q fault body).pwr = s.pwr := by unfold State.answer; dsimp only; split <;> simp
@[simp] theorem State.answer_busData (q : Ask) (fault : Nat) (body : List (BitVec 8)) : (s.answer q fault body).busData = s.busData := by unfold State.answer; dsimp only; split <;> simp
@[simp] theorem State.answer_busPoison (q : Ask) (fault : Nat) (body : List (BitVec 8)) : (s.answer q fault body).busPoison = s.busPoison := by unfold State.answer; dsimp only; split <;> simp
@[simp] theorem State.answer_clk (q : Ask) (fault : Nat) (body : List (BitVec 8)) : (s.answer q fault body).clk = s.clk := by unfold State.answer; dsimp only; split <;> simp
@[simp] theorem State.answer_free (q : Ask) (fault : Nat) (body : List (BitVec 8)) : (s.answer q fault body).free = s.free := by unfold State.answer; dsimp only; split <;> simp
@[simp] theorem State.answer_lastReport (q : Ask) (fault : Nat) (body : List (BitVec 8)) : (s.answer q fault body).lastReport = s.lastReport := by unfold State.answer; dsimp only; split <;> simp
@[simp] theorem State.answer_pending (q : Ask) (fault : Nat) (body : List (BitVec 8)) : (s.answer q fault body).pending = s.pending := by unfold State.answer; dsimp only; split <;> simp

@[simp] theorem State.settle_regs (q : Ask) (fault : Nat) (body : List (BitVec 8)) : (s.settle q fault body).regs = s.regs := by unfold State.settle; simp
@[simp] theorem State.settle_mem (q : Ask) (fault : Nat) (body : List (BitVec 8)) : (s.settle q fault body).mem = s.mem := by unfold State.settle; simp
@[simp] theorem State.settle_flash (q : Ask) (fault : Nat) (body : List (BitVec 8)) : (s.settle q fault body).flash = s.flash := by unfold State.settle; simp
@[simp] theorem State.settle_memx (q : Ask) (fault : Nat) (body : List (BitVec 8)) : (s.settle q fault body).memx = s.memx := by unfold State.settle; simp
@[simp] theorem State.settle_nvs (q : Ask) (fault : Nat) (body : List (BitVec 8)) : (s.settle q fault body).nvs = s.nvs := by unfold State.settle; simp
@[simp] theorem State.settle_phs (q : Ask) (fault : Nat) (body : List (BitVec 8)) : (s.settle q fault body).phs = s.phs := by unfold State.settle; simp
@[simp] theorem State.settle_tsk (q : Ask) (fault : Nat) (body : List (BitVec 8)) : (s.settle q fault body).tsk = s.tsk := by unfold State.settle; simp
@[simp] theorem State.settle_engTicks (q : Ask) (fault : Nat) (body : List (BitVec 8)) : (s.settle q fault body).engTicks = s.engTicks := by unfold State.settle; simp
@[simp] theorem State.settle_img (q : Ask) (fault : Nat) (body : List (BitVec 8)) : (s.settle q fault body).img = s.img := by unfold State.settle; simp
@[simp] theorem State.settle_ledger (q : Ask) (fault : Nat) (body : List (BitVec 8)) : (s.settle q fault body).ledger = s.ledger := by unfold State.settle; simp
@[simp] theorem State.settle_admission (q : Ask) (fault : Nat) (body : List (BitVec 8)) : (s.settle q fault body).admission = s.admission := by unfold State.settle; simp
@[simp] theorem State.settle_loading (q : Ask) (fault : Nat) (body : List (BitVec 8)) : (s.settle q fault body).loading = s.loading := by unfold State.settle; simp
@[simp] theorem State.settle_tly (q : Ask) (fault : Nat) (body : List (BitVec 8)) : (s.settle q fault body).tly = s.tly := by unfold State.settle; simp
@[simp] theorem State.settle_ring (q : Ask) (fault : Nat) (body : List (BitVec 8)) : (s.settle q fault body).ring = s.ring := by unfold State.settle; simp
@[simp] theorem State.settle_met (q : Ask) (fault : Nat) (body : List (BitVec 8)) : (s.settle q fault body).met = s.met := by unfold State.settle; simp
@[simp] theorem State.settle_lpe (q : Ask) (fault : Nat) (body : List (BitVec 8)) : (s.settle q fault body).lpe = s.lpe := by unfold State.settle; simp
@[simp] theorem State.settle_key (q : Ask) (fault : Nat) (body : List (BitVec 8)) : (s.settle q fault body).key = s.key := by unfold State.settle; simp
@[simp] theorem State.settle_tim (q : Ask) (fault : Nat) (body : List (BitVec 8)) : (s.settle q fault body).tim = s.tim := by unfold State.settle; simp
@[simp] theorem State.settle_rtc (q : Ask) (fault : Nat) (body : List (BitVec 8)) : (s.settle q fault body).rtc = s.rtc := by unfold State.settle; simp
@[simp] theorem State.settle_net (q : Ask) (fault : Nat) (body : List (BitVec 8)) : (s.settle q fault body).net = s.net := by unfold State.settle; simp
@[simp] theorem State.settle_fbs (q : Ask) (fault : Nat) (body : List (BitVec 8)) : (s.settle q fault body).fbs = s.fbs := by unfold State.settle; simp
@[simp] theorem State.settle_upd (q : Ask) (fault : Nat) (body : List (BitVec 8)) : (s.settle q fault body).upd = s.upd := by unfold State.settle; simp
@[simp] theorem State.settle_pwr (q : Ask) (fault : Nat) (body : List (BitVec 8)) : (s.settle q fault body).pwr = s.pwr := by unfold State.settle; simp
@[simp] theorem State.settle_busData (q : Ask) (fault : Nat) (body : List (BitVec 8)) : (s.settle q fault body).busData = s.busData := by unfold State.settle; simp
@[simp] theorem State.settle_busPoison (q : Ask) (fault : Nat) (body : List (BitVec 8)) : (s.settle q fault body).busPoison = s.busPoison := by unfold State.settle; simp
@[simp] theorem State.settle_clk (q : Ask) (fault : Nat) (body : List (BitVec 8)) : (s.settle q fault body).clk = s.clk := by unfold State.settle; simp
@[simp] theorem State.settle_free (q : Ask) (fault : Nat) (body : List (BitVec 8)) : (s.settle q fault body).free = s.free := by unfold State.settle; simp
@[simp] theorem State.settle_lastReport (q : Ask) (fault : Nat) (body : List (BitVec 8)) : (s.settle q fault body).lastReport = s.lastReport := by unfold State.settle; simp
@[simp] theorem State.settle_pending (q : Ask) (fault : Nat) (body : List (BitVec 8)) : (s.settle q fault body).pending = s.pending := by unfold State.settle; simp

@[simp] theorem State.dropRun_regs : (s.dropRun).regs = s.regs := by unfold State.dropRun; split <;> simp
@[simp] theorem State.dropRun_mem : (s.dropRun).mem = s.mem := by unfold State.dropRun; split <;> simp
@[simp] theorem State.dropRun_flash : (s.dropRun).flash = s.flash := by unfold State.dropRun; split <;> simp
@[simp] theorem State.dropRun_memx : (s.dropRun).memx = s.memx := by unfold State.dropRun; split <;> simp
@[simp] theorem State.dropRun_nvs : (s.dropRun).nvs = s.nvs := by unfold State.dropRun; split <;> simp
@[simp] theorem State.dropRun_phs : (s.dropRun).phs = s.phs := by unfold State.dropRun; split <;> simp
@[simp] theorem State.dropRun_tsk : (s.dropRun).tsk = s.tsk := by unfold State.dropRun; split <;> simp
@[simp] theorem State.dropRun_engTicks : (s.dropRun).engTicks = s.engTicks := by unfold State.dropRun; split <;> simp
@[simp] theorem State.dropRun_img : (s.dropRun).img = s.img := by unfold State.dropRun; split <;> simp
@[simp] theorem State.dropRun_ledger : (s.dropRun).ledger = s.ledger := by unfold State.dropRun; split <;> simp
@[simp] theorem State.dropRun_admission : (s.dropRun).admission = s.admission := by unfold State.dropRun; split <;> simp
@[simp] theorem State.dropRun_loading : (s.dropRun).loading = s.loading := by unfold State.dropRun; split <;> simp
@[simp] theorem State.dropRun_tly : (s.dropRun).tly = s.tly := by unfold State.dropRun; split <;> simp
@[simp] theorem State.dropRun_ring : (s.dropRun).ring = s.ring := by unfold State.dropRun; split <;> simp
@[simp] theorem State.dropRun_met : (s.dropRun).met = s.met := by unfold State.dropRun; split <;> simp
@[simp] theorem State.dropRun_lpe : (s.dropRun).lpe = s.lpe := by unfold State.dropRun; split <;> simp
@[simp] theorem State.dropRun_key : (s.dropRun).key = s.key := by unfold State.dropRun; split <;> simp
@[simp] theorem State.dropRun_tim : (s.dropRun).tim = s.tim := by unfold State.dropRun; split <;> simp
@[simp] theorem State.dropRun_rtc : (s.dropRun).rtc = s.rtc := by unfold State.dropRun; split <;> simp
@[simp] theorem State.dropRun_net : (s.dropRun).net = s.net := by unfold State.dropRun; split <;> simp
@[simp] theorem State.dropRun_fbs : (s.dropRun).fbs = s.fbs := by unfold State.dropRun; split <;> simp
@[simp] theorem State.dropRun_upd : (s.dropRun).upd = s.upd := by unfold State.dropRun; split <;> simp
@[simp] theorem State.dropRun_pwr : (s.dropRun).pwr = s.pwr := by unfold State.dropRun; split <;> simp
@[simp] theorem State.dropRun_busData : (s.dropRun).busData = s.busData := by unfold State.dropRun; split <;> simp
@[simp] theorem State.dropRun_busPoison : (s.dropRun).busPoison = s.busPoison := by unfold State.dropRun; split <;> simp
@[simp] theorem State.dropRun_clk : (s.dropRun).clk = s.clk := by unfold State.dropRun; split <;> simp
@[simp] theorem State.dropRun_free : (s.dropRun).free = s.free := by unfold State.dropRun; split <;> simp
@[simp] theorem State.dropRun_lastReport : (s.dropRun).lastReport = s.lastReport := by unfold State.dropRun; split <;> simp
@[simp] theorem State.dropRun_pending : (s.dropRun).pending = s.pending := by unfold State.dropRun; split <;> simp

@[simp] theorem State.setTrack_regs (i : Nat) : (s.setTrack i).regs = s.regs := rfl
@[simp] theorem State.setTrack_mem (i : Nat) : (s.setTrack i).mem = s.mem := rfl
@[simp] theorem State.setTrack_flash (i : Nat) : (s.setTrack i).flash = s.flash := rfl
@[simp] theorem State.setTrack_memx (i : Nat) : (s.setTrack i).memx = s.memx := rfl
@[simp] theorem State.setTrack_nvs (i : Nat) : (s.setTrack i).nvs = s.nvs := rfl
@[simp] theorem State.setTrack_tsk (i : Nat) : (s.setTrack i).tsk = s.tsk := rfl
@[simp] theorem State.setTrack_engTicks (i : Nat) : (s.setTrack i).engTicks = s.engTicks := rfl
@[simp] theorem State.setTrack_img (i : Nat) : (s.setTrack i).img = s.img := rfl
@[simp] theorem State.setTrack_ledger (i : Nat) : (s.setTrack i).ledger = s.ledger := rfl
@[simp] theorem State.setTrack_admission (i : Nat) : (s.setTrack i).admission = s.admission := rfl
@[simp] theorem State.setTrack_loading (i : Nat) : (s.setTrack i).loading = s.loading := rfl
@[simp] theorem State.setTrack_tly (i : Nat) : (s.setTrack i).tly = s.tly := rfl
@[simp] theorem State.setTrack_ring (i : Nat) : (s.setTrack i).ring = s.ring := rfl
@[simp] theorem State.setTrack_met (i : Nat) : (s.setTrack i).met = s.met := rfl
@[simp] theorem State.setTrack_lpe (i : Nat) : (s.setTrack i).lpe = s.lpe := rfl
@[simp] theorem State.setTrack_key (i : Nat) : (s.setTrack i).key = s.key := rfl
@[simp] theorem State.setTrack_tim (i : Nat) : (s.setTrack i).tim = s.tim := rfl
@[simp] theorem State.setTrack_rtc (i : Nat) : (s.setTrack i).rtc = s.rtc := rfl
@[simp] theorem State.setTrack_net (i : Nat) : (s.setTrack i).net = s.net := rfl
@[simp] theorem State.setTrack_host (i : Nat) : (s.setTrack i).host = s.host := rfl
@[simp] theorem State.setTrack_fbs (i : Nat) : (s.setTrack i).fbs = s.fbs := rfl
@[simp] theorem State.setTrack_upd (i : Nat) : (s.setTrack i).upd = s.upd := rfl
@[simp] theorem State.setTrack_pwr (i : Nat) : (s.setTrack i).pwr = s.pwr := rfl
@[simp] theorem State.setTrack_busData (i : Nat) : (s.setTrack i).busData = s.busData := rfl
@[simp] theorem State.setTrack_busPoison (i : Nat) : (s.setTrack i).busPoison = s.busPoison := rfl
@[simp] theorem State.setTrack_clk (i : Nat) : (s.setTrack i).clk = s.clk := rfl
@[simp] theorem State.setTrack_free (i : Nat) : (s.setTrack i).free = s.free := rfl
@[simp] theorem State.setTrack_lastReport (i : Nat) : (s.setTrack i).lastReport = s.lastReport := rfl
@[simp] theorem State.setTrack_pending (i : Nat) : (s.setTrack i).pending = s.pending := rfl

end Sys2Proof.Machine
end

