-- ==== Sys2Proof/Laws/Ops.lean ====
section
/-! SUPPORT. What each shared operation can do, said once: register fields, raised lines, memory writes, checked reads, and the
course of an engine instruction. -/

namespace Sys2Proof.Machine

variable (s : State)

/-! ### Register fields -/

/-- A field just written reads as the value cut to its width. -/
@[simp] theorem State.rd_wr_same (f : Fld) (v : Nat) : (s.wr f v).rd f = v % 2 ^ f.width := by simp [State.rd, State.wr]

/-- A write leaves every field with another key alone. -/
theorem State.rd_wr_other {f g : Fld} (v : Nat) (h : g.key ≠ f.key) : (s.wr f v).rd g = s.rd g :=
  congrArg (· % 2 ^ g.width) (sget_sput_other' f.reset g.reset s.regs (v % 2 ^ f.width) h)

/-- A field's value fits its width. -/
theorem State.rd_lt (f : Fld) : s.rd f < 2 ^ f.width := Nat.mod_lt _ (Nat.two_pow_pos _)

/-- Right after reset every field reads its reset value. -/
theorem State.rd_reset (f : Fld) : State.reset.rd f = f.reset % 2 ^ f.width := rfl

/-- A field reads the same in two states with the same registers. -/
theorem State.rd_congr {s t : State} (h : t.regs = s.regs) (f : Fld) : t.rd f = s.rd f := by rw [State.rd, State.rd, h]

@[simp] theorem State.rd_note (c : Nat) (f : Fld) : (s.note c).rd f = s.rd f := rfl
@[simp] theorem State.rd_useFree (f : Fld) : s.useFree.rd f = s.rd f := rfl
@[simp] theorem State.rd_setTask (t : Nat) (v : TaskState) (f : Fld) : (s.setTask t v).rd f = s.rd f := rfl
@[simp] theorem State.rd_setCw (a : Nat) (c : CwErr) (f : Fld) : (s.setCw a c).rd f = s.rd f := rfl
@[simp] theorem State.rd_spend (e n : Nat) (f : Fld) : (s.spend e n).rd f = s.rd f := rfl
@[simp] theorem State.rd_tallyEvent (c : Nat) (p : List (BitVec 8)) (f : Fld) : (s.tallyEvent c p).rd f = s.rd f := rfl

theorem State.rd_report_same (f : Fld) (c : Nat) : (s.report f c).rd f = c % 2 ^ f.width := s.rd_wr_same f c

theorem State.rd_report_other {f g : Fld} (c : Nat) (h : g.key ≠ f.key) : (s.report f c).rd g = s.rd g := s.rd_wr_other c h

/-- The registers back at reset read their reset values, the others as before. -/
theorem State.rd_resetRegs (lo hi : Nat) (f : Fld) :
    (s.resetRegs lo hi).rd f = if lo * 64 ≤ f.key ∧ f.key < hi * 64 then f.reset % 2 ^ f.width else s.rd f := by
  unfold State.rd State.resetRegs
  rw [sget_sclear]
  split <;> rfl

/-- A task's record just written is what is read. -/
@[simp] theorem State.task_setTask_same (t : Nat) (v : TaskState) : (s.setTask t v).task t = v := by
  simp [State.task, State.setTask]

theorem State.task_setTask_other {t u : Nat} (v : TaskState) (h : u ≠ t) : (s.setTask t v).task u = s.task u :=
  sget_sput_other _ _ _ h

/-! ### Lines -/

theorem State.rd_raiseEng {e n : Nat} {f : Fld} (h : f.key ≠ (R.FBE_EVLIVE_LIVE e (n / 64)).key) :
    (s.raiseEng e n).rd f = s.rd f := by
  unfold State.raiseEng
  split
  · exact s.rd_wr_other _ h
  · rfl

/-- Raising a line touches SYS_IRQPEND and FBE_EVLIVE of its half, and nothing else. -/
theorem State.rd_raise {n : Nat} {f : Fld} (h : f.key ≠ (R.SYS_IRQPEND_PEND (n / 64)).key)
    (he : ∀ e < 4, f.key ≠ (R.FBE_EVLIVE_LIVE e (n / 64)).key) : (s.raise n).rd f = s.rd f := by
  unfold State.raise
  rw [State.rd_raiseEng _ (he 3 (by omega)), State.rd_raiseEng _ (he 2 (by omega)), State.rd_raiseEng _ (he 1 (by omega)),
    State.rd_raiseEng _ (he 0 (by omega))]
  exact s.rd_wr_other _ h

/-! ### Memory -/

theorem State.markDirty_eq (a : Nat) : s.markDirty a = s ∨ ∃ i, s.markDirty a = s.setBit R.MEM_STAT_DIRTY i := by
  unfold State.markDirty
  split
  · exact .inr ⟨_, rfl⟩
  · exact .inl rfl

@[simp] theorem State.markDirty_mem (a : Nat) : (s.markDirty a).mem = s.mem := by
  rcases s.markDirty_eq a with h | ⟨i, h⟩ <;> rw [h]; rfl

@[simp] theorem State.markDirty_flash (a : Nat) : (s.markDirty a).flash = s.flash := by
  rcases s.markDirty_eq a with h | ⟨i, h⟩ <;> rw [h]; rfl

/-- A store of bytes changes the memory by those bytes at the logical address. -/
@[simp] theorem State.poke_mem (a : Nat) (bs : List (BitVec 8)) : (s.poke a bs).mem = writeBytes s.mem (s.logical a) bs := by
  simp [State.poke]

@[simp] theorem State.poke_flash (a : Nat) (bs : List (BitVec 8)) : (s.poke a bs).flash = s.flash := by simp [State.poke]

@[simp] theorem State.pokeN_mem (a n v : Nat) : (s.pokeN a n v).mem = writeLE s.mem (s.logical a) n v := by
  simp [State.pokeN, writeLE]

/-- A store of bytes touches no register but MEM_STAT.DIRTY. -/
theorem State.rd_poke (a : Nat) (bs : List (BitVec 8)) {f : Fld} (h : f.key ≠ R.MEM_STAT_DIRTY.key) :
    (s.poke a bs).rd f = s.rd f := by
  unfold State.poke
  rcases State.markDirty_eq { s with
      mem := writeBytes s.mem (s.logical a) bs
      memx := { s.memx with ecc := rewriteCw s.memx.ecc (s.logical a) bs.length } } (s.logical a) with e | ⟨i, e⟩
  · simp only [e]; rfl
  · simp only [e, State.setBit]; rw [State.rd_wr_other _ _ h]; rfl

/-- A byte of memory outside the bytes stored reads as before. -/
theorem State.poke_frame (a : Nat) (bs : List (BitVec 8)) {k : Nat}
    (h : k < s.logical a ∨ s.logical a + bs.length ≤ k) : sget 0 (s.poke a bs).mem k = sget 0 s.mem k := by
  rw [State.poke_mem, sget_writeBytes_other _ _ _ h]

/-- Every memory operation keeps the canonical form: stores. -/
theorem State.poke_wf (a : Nat) (bs : List (BitVec 8)) (h : Sparse.wf 0 s.mem = true) :
    Sparse.wf 0 (s.poke a bs).mem = true := by
  rw [State.poke_mem]; exact writeBytes_wf _ _ h

theorem State.zeroRange_wf (lo hi : Nat) (h : Sparse.wf 0 s.mem = true) : Sparse.wf 0 (s.zeroRange lo hi).mem = true :=
  sclear_wf _ _ h

/-! ### Flash -/

@[simp] theorem State.setFlash_flash (a n : Nat) (fl : Sparse (BitVec 8)) : (s.setFlash a n fl).flash = fl := rfl
/-- With no block that a WRITE could not write, all of a record can be written (R292). -/
@[simp] theorem State.writable_all (a n : Nat) (h : s.nvs.worn = []) : s.writable a n = n := by
  simp [State.writable, h]
@[simp] theorem State.flashPut_flash (a : Nat) (bs : List (BitVec 8)) : (s.flashPut a bs).flash =
    writeBytes s.flash a (bs.take (s.writable a bs.length)) := by
  unfold State.flashPut; dsimp only; split <;> simp

/-! ### Checked reads -/

/-- With no codeword in error, every read is clean and changes nothing. -/
theorem State.readChecked_clean (master a n : Nat) (h : s.memx.ecc = []) : s.readChecked master a n = (s, false) := by
  simp [State.readChecked, State.dirtyCws, h, readCws]

theorem State.partCws_clean (a n : Nat) (h : s.memx.ecc = []) : s.partCws a n = [] := by
  simp [State.partCws, State.dirtyCws, h]

/-- With no codeword in error, a master's write stores its bytes. -/
theorem State.masterWrite_clean (master a : Nat) (bs : List (BitVec 8)) (h : s.memx.ecc = []) :
    s.masterWrite master a bs = s.poke a bs := by
  simp [State.masterWrite, s.partCws_clean _ _ h, readCws]

/-! ### The course of an instruction -/

/-- An engine that runs no task, and has nothing under way from the clock of a stop, executes nothing. -/
theorem engRun_idle (e : Eng) (w : Word) (len : Nat) (body : State → Eff) (h : s.rd (R.FBE_STAT_STATE e) ≠ 1)
    (hu : s.underway e = false) : engRun e w len body s = .next s := by simp [engRun, h, hu]

/-- What a running engine answers where the fetch meets no codeword in error. -/
theorem engRun_clean (e : Eng) (w : Word) (len : Nat) (body : State → Eff) (h : s.rd (R.FBE_STAT_STATE e) = 1)
    (hc : s.memx.ecc = []) :
    engRun e w len body s =
      match body s with
      | .done t cost => .next ((t.setIp e (t.ip e + len)).spend e cost)
      | .jump t cost => .next (t.spend e cost)
      | .trap t fault addr => .next (t.trap e fault addr w.toNat) := by
  simp only [engRun, h, s.readChecked_clean _ _ _ hc, if_true, Bool.false_eq_true, if_false]
  all_goals rfl

/-- An engine instruction always answers a next state. -/
theorem engRun_next (e : Eng) (w : Word) (len : Nat) (body : State → Eff) : ∃ t, engRun e w len body s = .next t := by
  unfold engRun engLate
  dsimp only
  split
  · split
    · exact ⟨_, rfl⟩
    · split <;> exact ⟨_, rfl⟩
  · split
    · split
      · exact ⟨_, rfl⟩
      · split <;> exact ⟨_, rfl⟩
    · exact ⟨_, rfl⟩

/-- Everything a running engine's instruction can answer: the trap of its fetch, or what its effect comes to. -/
theorem engRun_cases {s t : State} {e : Eng} {w : Word} {len : Nat} {body : State → Eff}
    (hs : s.rd (R.FBE_STAT_STATE e) = 1) (h : engRun e w len body s = .next t) :
    let f := s.readChecked (2 + e) (s.ip e) len
    (f.2 = true ∧ t = f.1.trap e 0x050A (s.ip e) w.toNat) ∨
    (f.2 = false ∧ ∃ u cost, body f.1 = .done u cost ∧ t = (u.setIp e (u.ip e + len)).spend e cost) ∨
    (f.2 = false ∧ ∃ u cost, body f.1 = .jump u cost ∧ t = u.spend e cost) ∨
    (f.2 = false ∧ ∃ u fault a, body f.1 = .trap u fault a ∧ t = u.trap e fault a w.toNat) := by
  unfold engRun at h
  rw [if_pos hs] at h
  dsimp only at h ⊢
  split at h
  · rename_i hf; cases h; exact .inl ⟨hf, rfl⟩
  · rename_i hf
    have hf' : (s.readChecked (2 + e) (s.ip e) len).2 = false := by simpa using hf
    split at h <;> rename_i hb <;> cases h
    · exact .inr (.inl ⟨hf', _, _, hb, rfl⟩)
    · exact .inr (.inr (.inl ⟨hf', _, _, hb, rfl⟩))
    · exact .inr (.inr (.inr ⟨hf', _, _, _, hb, rfl⟩))

/-! ### The canonical form through errors and corrections -/

@[simp] theorem State.bucketAdd_mem (b : Nat) : (s.bucketAdd b).mem = s.mem := by
  unfold State.bucketAdd; dsimp only
  split <;> split <;> split <;> simp only [State.raise_mem, State.report_mem, State.wr_mem, State.incSat_mem]

@[simp] theorem State.logError_mem (m : Nat) (scrub ue : Bool) (cw synd bit : Nat) :
    (s.logError m scrub ue cw synd bit).mem = s.mem := by
  unfold State.logError
  generalize synd % (if isDram cw then 256 else 128) = d
  dsimp only
  split
  · rw [State.wr_mem, State.wr_mem]
  · rw [State.inc_mem, State.wr_mem, State.wr_mem, State.wr_mem, State.wr_mem]

@[simp] theorem State.correct_mem (m : Nat) (scrub : Bool) (cw bit : Nat) : (s.correct m scrub cw bit).mem = s.mem := by
  simp [State.correct]

theorem State.poisonCw_wf (m : Nat) (scrub : Bool) (cw : Nat) (bits : List Nat) (h : Sparse.wf 0 s.mem = true) :
    Sparse.wf 0 (s.poisonCw m scrub cw bits).mem = true := by
  have : (s.poisonCw m scrub cw bits).mem = writeLE s.mem cw (cwSize cw)
      (flipBits (cwSize cw * 8) (readLE s.mem cw (cwSize cw)) bits) := by
    unfold State.poisonCw; dsimp only; rw [State.raise_mem, State.report_mem, State.wr_mem, State.incSat_mem, State.logError_mem]
    rfl
  rw [this]; exact writeBytes_wf _ _ h

theorem State.manyBits_wf (m : Nat) (scrub : Bool) (cw : Nat) (bits : List Nat) (h : Sparse.wf 0 s.mem = true) :
    Sparse.wf 0 (s.manyBits m scrub cw bits).1.mem = true := by
  unfold State.manyBits
  dsimp only
  split
  · exact State.poisonCw_wf _ _ _ _ _ h
  · rw [State.correct_mem]; exact writeBytes_wf _ _ h
  · exact writeBytes_wf _ _ h
  · exact writeBytes_wf _ _ h

/-- A codeword read keeps the canonical form, whatever it corrects or poisons. -/
theorem State.readCw_wf (m : Nat) (scrub : Bool) (cw : Nat) (h : Sparse.wf 0 s.mem = true) :
    Sparse.wf 0 (s.readCw m scrub cw).1.mem = true := by
  unfold State.readCw
  dsimp only
  split
  · exact h
  · split
    · exact h
    · simpa using h
    · exact State.poisonCw_wf _ _ _ _ _ h
    · exact State.manyBits_wf _ _ _ _ _ h

theorem readCws_wf (m : Nat) (cws : List Nat) {s : State} (h : Sparse.wf 0 s.mem = true) :
    Sparse.wf 0 (readCws m cws s).1.mem = true := by
  induction cws generalizing s with
  | nil => exact h
  | cons cw t ih => exact ih (State.readCw_wf _ _ _ _ h)

theorem State.readChecked_wf (m a n : Nat) (h : Sparse.wf 0 s.mem = true) :
    Sparse.wf 0 (s.readChecked m a n).1.mem = true := readCws_wf _ _ h

/-- A master's write keeps the canonical form. -/
theorem State.masterWrite_wf (m a : Nat) (bs : List (BitVec 8)) (h : Sparse.wf 0 s.mem = true) :
    Sparse.wf 0 (s.masterWrite m a bs).mem = true := by
  unfold State.masterWrite
  dsimp only
  split
  · simpa [State.poisonReport] using readCws_wf _ _ h
  · exact State.poke_wf _ _ _ (readCws_wf _ _ h)

end Sys2Proof.Machine
end

