-- ==== Sys2Proof/Laws/Machine.lean ====
section
/-! SUPPORT. What the larger shared operations do, said once: raised lines, halts, and the trap of an engine. -/

namespace Sys2Proof.Machine

/-! ### Lines -/

theorem bitOf_eq_testBit (a i : Nat) : bitOf a i = a.testBit i := by
  rw [Nat.testBit_eq_decide_div_mod_eq]; rfl

/-- Two states with the same SYS_IRQPEND have the same lines up. -/
theorem State.lineUp_congr {s t : State} (n : Nat)
    (h : t.rd (R.SYS_IRQPEND_PEND (n / 64)) = s.rd (R.SYS_IRQPEND_PEND (n / 64))) : t.lineUp n = s.lineUp n := by
  rw [State.lineUp, State.lineUp, h]

/-- A field outside SYS_IRQPEND written leaves every line as it is. -/
theorem State.lineUp_wr (s : State) {f : Fld} (v : Nat) {n : Nat} (h : (R.SYS_IRQPEND_PEND (n / 64)).key ≠ f.key) :
    (s.wr f v).lineUp n = s.lineUp n := State.lineUp_congr n (s.rd_wr_other v h)

@[simp] theorem State.lineUp_note (s : State) (c n : Nat) : (s.note c).lineUp n = s.lineUp n := rfl
@[simp] theorem State.lineUp_tallyEvent (s : State) (c : Nat) (p : List (BitVec 8)) (n : Nat) :
    (s.tallyEvent c p).lineUp n = s.lineUp n := rfl

theorem State.rd_irqpend_raise (s : State) {n m : Nat} (hn : n < 128) (hm : m ≤ 1) :
    (s.raise n).rd (R.SYS_IRQPEND_PEND m) = (s.setBit (R.SYS_IRQPEND_PEND (n / 64)) (n % 64)).rd (R.SYS_IRQPEND_PEND m) := by
  have hk : ∀ e, e < 4 → (R.SYS_IRQPEND_PEND m).key ≠ (R.FBE_EVLIVE_LIVE e (n / 64)).key := by
    intro e he; simp only [ne_eq]; omega
  unfold State.raise
  rw [State.rd_raiseEng _ (hk 3 (by omega)), State.rd_raiseEng _ (hk 2 (by omega)),
    State.rd_raiseEng _ (hk 1 (by omega)), State.rd_raiseEng _ (hk 0 (by omega))]

/-- A line just raised is up. -/
theorem State.lineUp_raise_same (s : State) {n : Nat} (hn : n < 128) : (s.raise n).lineUp n = true := by
  rw [State.lineUp, s.rd_irqpend_raise hn (by omega), State.setBit, State.rd_wr_same, bitOf_eq_testBit,
    Nat.testBit_mod_two_pow, Nat.testBit_or, Nat.testBit_two_pow_self]
  simp only [Bool.or_true, Bool.and_true, decide_eq_true_eq]
  exact Nat.mod_lt _ (by decide)

/-- Raising a line keeps every line that is up. -/
theorem State.lineUp_raise (s : State) {n m : Nat} (hn : n < 128) (hm : m < 128) (h : s.lineUp m = true) :
    (s.raise n).lineUp m = true := by
  rw [State.lineUp, s.rd_irqpend_raise hn (by omega)]
  by_cases e : m / 64 = n / 64
  · rw [e, State.setBit, State.rd_wr_same, bitOf_eq_testBit, Nat.testBit_mod_two_pow, Nat.testBit_or, ← e, ← bitOf_eq_testBit]
    have h' : bitOf (s.rd (R.SYS_IRQPEND_PEND (m / 64))) (m % 64) = true := h
    rw [h']
    simp only [Bool.true_or, Bool.and_true, decide_eq_true_eq]
    exact Nat.mod_lt _ (by decide)
  · rw [State.setBit, State.rd_wr_other _ _ (by simp only [ne_eq]; omega)]
    exact h

/-! ### Which registers an operation can touch -/

/-- No register field differs but those whose key has the property. -/
def Touches (p : Nat → Prop) (s t : State) : Prop := ∀ f : Fld, ¬p f.key → t.rd f = s.rd f

theorem Touches.refl {p : Nat → Prop} (s : State) : Touches p s s := fun _ _ => rfl

theorem Touches.trans {p : Nat → Prop} {s t u : State} (h : Touches p s t) (k : Touches p t u) : Touches p s u :=
  fun f hf => (k f hf).trans (h f hf)

theorem Touches.regs {p : Nat → Prop} {s t : State} (h : t.regs = s.regs) : Touches p s t := fun f _ => State.rd_congr h f

theorem touches_wr {p : Nat → Prop} (s : State) {f : Fld} (v : Nat) (h : p f.key) : Touches p s (s.wr f v) :=
  fun _ hg => s.rd_wr_other v fun e => hg (e ▸ h)

theorem touches_raise {p : Nat → Prop} (s : State) {n : Nat} (h : p (R.SYS_IRQPEND_PEND (n / 64)).key)
    (he : ∀ e < 4, p (R.FBE_EVLIVE_LIVE e (n / 64)).key) : Touches p s (s.raise n) :=
  fun _ hg => s.rd_raise (fun e => hg (e ▸ h)) fun e h4 k => hg (k ▸ he e h4)

theorem touches_foldl {p : Nat → Prop} {α : Type} (l : List α) (g : State → α → State)
    (h : ∀ s a, Touches p s (g s a)) (s : State) : Touches p s (l.foldl g s) := by
  induction l generalizing s with
  | nil => exact Touches.refl s
  | cons a t ih => exact (h s a).trans (ih _)

/-! ### The controller stop (R93) -/

/-- The registers that a controller stop can touch: the lines and their engine events, the engines' STATE, and registers of PHS,
TSK and NVS. -/
def stopKey (k : Nat) : Prop :=
  (∃ j ≤ 1, k = (R.SYS_IRQPEND_PEND j).key) ∨ (∃ e < 4, ∃ j ≤ 1, k = (R.FBE_EVLIVE_LIVE e j).key) ∨
    (∃ e < 4, k = (R.FBE_STAT_STATE e).key) ∨ (0x10020000 * 64 ≤ k ∧ k < 0x10040000 * 64) ∨
    (0x10130000 * 64 ≤ k ∧ k < 0x10140000 * 64)

theorem stop_raise (s : State) {n : Nat} (h : n < 128) : Touches stopKey s (s.raise n) :=
  touches_raise s (.inl ⟨n / 64, by omega, rfl⟩) fun e he => .inr (.inl ⟨e, he, n / 64, by omega, rfl⟩)

theorem stop_wr (s : State) {f : Fld} (v : Nat)
    (h : (0x10020000 * 64 ≤ f.key ∧ f.key < 0x10040000 * 64) ∨ (0x10130000 * 64 ≤ f.key ∧ f.key < 0x10140000 * 64)) :
    Touches stopKey s (s.wr f v) := touches_wr s v (.inr (.inr (.inr h)))

theorem stop_haltEng (s : State) {e : Nat} (h : e < 4) : Touches stopKey s (s.haltEng e) := by
  unfold State.haltEng
  split
  · exact Touches.refl s
  · exact touches_wr s 0 (.inr (.inr (.inl ⟨e, h, rfl⟩)))

theorem stop_haltAll (s : State) : Touches stopKey s s.haltAll :=
  (((stop_haltEng s (by decide)).trans (stop_haltEng _ (by decide))).trans (stop_haltEng _ (by decide))).trans
    (stop_haltEng _ (by decide))

theorem stop_latchStop (s : State) (fault task master : Nat) : Touches stopKey s (s.latchStop fault task master) := by
  unfold State.latchStop
  refine Touches.trans ?_ (stop_raise _ (by decide))
  refine Touches.trans ?_ (Touches.regs (State.note_regs _ _))
  repeat' refine Touches.trans ?_ (stop_wr _ _ (by decide))
  exact Touches.refl s

/-- A save that begins sets SAVING and SAVE, and no other register. -/
theorem State.beginSave_regs (s : State) (slot cause : Nat) :
    (s.beginSave slot cause).regs = ((s.wr R.TSK_RSTAT_SAVING 1).wr R.NVS_STAT_SAVE 1).regs := by
  unfold State.beginSave
  cases s.nvsReady <;> rfl

theorem stop_beginSave (s : State) (slot cause : Nat) : Touches stopKey s (s.beginSave slot cause) :=
  ((stop_wr s _ (by decide)).trans (stop_wr _ _ (by decide))).trans (Touches.regs (s.beginSave_regs slot cause))

theorem stop_startSave (s : State) (cause : Nat) : Touches stopKey s (s.startSave cause) := by
  unfold State.startSave
  split
  · exact Touches.refl s
  · split
    · split
      · exact stop_beginSave _ _ _
      · exact Touches.refl s
    · exact stop_beginSave _ _ _

theorem stop_snap (s : State) (r : Nat) : Touches stopKey s (s.snap r) :=
  Touches.trans (stop_wr s _ (by decide)) (Touches.regs rfl)

theorem stop_track (s : State) (i : Nat) : Touches stopKey s (s.track i) :=
  Touches.trans (stop_wr s _ (by decide)) (Touches.regs rfl)

theorem stop_stopEndsSlew (s : State) : Touches stopKey s s.stopEndsSlew := by
  unfold State.stopEndsSlew
  split
  · exact (((stop_snap s _).trans (stop_track _ _)).trans (stop_wr _ _ (by decide))).trans (stop_raise _ (by decide))
  · exact Touches.refl s

theorem stop_showPend (s : State) : Touches stopKey s s.showPend := stop_wr s _ (by decide)

theorem stop_quiesce (s : State) : Touches stopKey s s.quiesce :=
  (stop_haltAll s).trans (Touches.regs (by simp only [State.quiesce, State.abandonRuns]))

theorem stop_showStop (s : State) (cause : Nat) : Touches stopKey s (s.showStop cause) :=
  (((stop_wr s _ (by decide)).trans (stop_wr _ _ (by decide))).trans (stop_showPend _)).trans (stop_wr _ _ (by decide))

theorem stop_enterStop (s : State) (cause : Nat) : Touches stopKey s (s.enterStop cause) := by
  have k := (stop_quiesce s).trans (stop_showStop _ cause)
  unfold State.enterStop
  split
  · exact k
  · exact ((k.trans (stop_raise _ (by decide))).trans (stop_stopEndsSlew _)).trans (stop_startSave _ _)

theorem State.regs_tsk (s : State) (v : TskState) : ({ s with tsk := v } : State).regs = s.regs := rfl
theorem State.mem_tsk (s : State) (v : TskState) : ({ s with tsk := v } : State).mem = s.mem := rfl
theorem State.mem_phs (s : State) (v : PhsState) : ({ s with phs := v } : State).mem = s.mem := rfl

@[simp] theorem State.haltNow_regs (s : State) : s.haltNow.regs = s.haltAll.regs := by
  unfold State.haltNow; exact State.regs_tsk _ _

@[simp] theorem State.haltNow_mem (s : State) : s.haltNow.mem = s.haltAll.mem := by
  unfold State.haltNow; exact State.mem_tsk _ _

@[simp] theorem State.gapStopped_regs (s : State) : s.gapStopped.regs = s.regs := rfl
@[simp] theorem State.gapStopped_mem (s : State) : s.gapStopped.mem = s.mem := rfl

theorem State.dropEntry_regs (s : State) : s.dropEntry.regs = ({ s with tsk := { s.tsk with entry := .none } } : State).showPend.regs :=
  State.dropRun_regs _

@[simp] theorem State.dropEntry_mem (s : State) : s.dropEntry.mem = s.mem := by
  rw [State.dropEntry, State.dropRun_mem, State.showPend, State.wrB_mem, State.mem_tsk]

theorem stop_dropEntry (s : State) : Touches stopKey s s.dropEntry :=
  ((Touches.regs (s.regs_tsk _)).trans (stop_showPend _)).trans (Touches.regs s.dropEntry_regs)

/-- A controller stop touches no register of an engine's bank, none of another block, and none of the trap registers. -/
theorem stop_controllerStop (s : State) (cause fault task master : Nat) :
    Touches stopKey s (s.controllerStop cause fault task master) := by
  unfold State.controllerStop
  split
  · split
    · exact ((stop_latchStop s fault task master).trans (stop_dropEntry _)).trans (Touches.regs (State.tallyEvent_regs _ _ _))
    · exact Touches.refl s
  · have h := ((stop_haltAll s).trans (Touches.regs s.haltNow_regs)).trans (stop_latchStop _ fault task master)
    exact (h.trans (stop_enterStop _ cause)).trans (Touches.regs ((State.tallyEvent_regs _ _ _).trans (State.gapStopped_regs _)))

@[simp] theorem State.haltEng_mem (s : State) (e : Nat) : (s.haltEng e).mem = s.mem := by
  unfold State.haltEng; split <;> rfl

@[simp] theorem State.haltAll_mem (s : State) : s.haltAll.mem = s.mem := by simp [State.haltAll]

@[simp] theorem State.latchStop_mem (s : State) (f t m : Nat) : (s.latchStop f t m).mem = s.mem := by
  rw [State.latchStop, State.raise_mem, State.note_mem]
  simp only [State.wr_mem]

@[simp] theorem State.beginSave_mem (s : State) (slot c : Nat) : (s.beginSave slot c).mem = s.mem := by
  unfold State.beginSave
  cases s.nvsReady <;> rfl

@[simp] theorem State.startSave_mem (s : State) (c : Nat) : (s.startSave c).mem = s.mem := by
  unfold State.startSave
  split
  · rfl
  · split
    · split
      · exact s.beginSave_mem _ _
      · rfl
    · exact s.beginSave_mem _ _

theorem State.mem_wr_phs (s : State) (f : Fld) (v : Nat) (p : PhsState) : ({ s.wr f v with phs := p } : State).mem = s.mem := rfl

@[simp] theorem State.track_mem (s : State) (i : Nat) : (s.track i).mem = s.mem := by
  unfold State.track
  exact (State.mem_phs ((s.wr R.PHS_INC_INC (s.clampInc i)).setTrack (s.clampInc i)) _).trans
    ((State.setTrack_mem _ _).trans (s.wr_mem _ _))

@[simp] theorem State.snap_mem (s : State) (r : Nat) : (s.snap r).mem = s.mem := by
  rw [State.snap]; exact s.mem_wr_phs _ _ _

@[simp] theorem State.stopEndsSlew_mem (s : State) : s.stopEndsSlew.mem = s.mem := by
  unfold State.stopEndsSlew
  split
  · rw [State.raise_mem, State.wr_mem, State.track_mem, State.snap_mem]
  · rfl

@[simp] theorem State.quiesce_mem (s : State) : s.quiesce.mem = s.mem := by
  simp only [State.quiesce, State.abandonRuns, State.haltAll_mem]

@[simp] theorem State.showStop_mem (s : State) (c : Nat) : (s.showStop c).mem = s.mem := rfl

@[simp] theorem State.enterStop_mem (s : State) (c : Nat) : (s.enterStop c).mem = s.mem := by
  unfold State.enterStop
  split <;> simp

/-- A controller stop writes no memory. -/
@[simp] theorem State.controllerStop_mem (s : State) (c f t m : Nat) : (s.controllerStop c f t m).mem = s.mem := by
  unfold State.controllerStop
  split
  · split
    · rw [State.tallyEvent_mem, State.dropEntry_mem, State.latchStop_mem]
    · rfl
  · rw [State.tallyEvent_mem, State.gapStopped_mem, State.enterStop_mem, State.latchStop_mem]; exact s.haltNow_mem.trans s.haltAll_mem

/-- A trapped engine stays trapped when the engines halt. -/
theorem State.haltAll_trapped (s : State) {e : Nat} (h : s.rd (R.FBE_STAT_STATE e) = 3) :
    s.haltAll.rd (R.FBE_STAT_STATE e) = 3 := by
  have k : ∀ (s : State) (d : Nat), s.rd (R.FBE_STAT_STATE e) = 3 → (s.haltEng d).rd (R.FBE_STAT_STATE e) = 3 := by
    intro s d h
    unfold State.haltEng
    split
    · exact h
    · rename_i hd
      by_cases hde : d = e
      · subst hde; exact absurd h hd
      · rw [State.rd_wr_other _ _ (by simp only [ne_eq]; omega)]; exact h
  exact k _ 3 (k _ 2 (k _ 1 (k _ 0 h)))

/-! ### What stands after an entry to STOP -/

/-- What a save, the end of a slew and lines 22 and 24 touch, which is all that follows the entry to STOP itself. -/
def tailKey (k : Nat) : Prop :=
  (∃ j ≤ 1, k = (R.SYS_IRQPEND_PEND j).key) ∨ (∃ e < 4, ∃ j ≤ 1, k = (R.FBE_EVLIVE_LIVE e j).key) ∨
    (0x10020000 * 64 ≤ k ∧ k < 0x10030000 * 64) ∨ k = R.TSK_RSTAT_SAVING.key ∨
    (0x10130000 * 64 ≤ k ∧ k < 0x10140000 * 64)

theorem tail_raise (s : State) {n : Nat} (h : n < 128) : Touches tailKey s (s.raise n) :=
  touches_raise s (.inl ⟨n / 64, by omega, rfl⟩) fun e he => .inr (.inl ⟨e, he, n / 64, by omega, rfl⟩)

theorem tail_wr (s : State) {f : Fld} (v : Nat) (h : (0x10020000 * 64 ≤ f.key ∧ f.key < 0x10030000 * 64) ∨
    f.key = R.TSK_RSTAT_SAVING.key ∨ (0x10130000 * 64 ≤ f.key ∧ f.key < 0x10140000 * 64)) :
    Touches tailKey s (s.wr f v) := touches_wr s v (.inr (.inr h))

theorem tail_startSave (s : State) (cause : Nat) : Touches tailKey s (s.startSave cause) := by
  have h : ∀ slot c, Touches tailKey s (s.beginSave slot c) := fun slot c =>
    ((tail_wr s _ (by decide)).trans (tail_wr _ _ (by decide))).trans (Touches.regs (s.beginSave_regs slot c))
  unfold State.startSave
  split
  · exact Touches.refl s
  · split
    · split
      · exact h _ _
      · exact Touches.refl s
    · exact h _ _

theorem tail_stopEndsSlew (s : State) : Touches tailKey s s.stopEndsSlew := by
  unfold State.stopEndsSlew
  split
  · have h1 : Touches tailKey s (s.snap (s.rd R.PHS_CFG_REF)) :=
      Touches.trans (tail_wr s _ (by decide)) (Touches.regs rfl)
    have h2 : ∀ t : State, Touches tailKey t (t.track s.phs.trackInc) := fun t =>
      Touches.trans (tail_wr t _ (by decide)) (Touches.regs rfl)
    exact ((h1.trans (h2 _)).trans (tail_wr _ _ (by decide))).trans (tail_raise _ (by decide))
  · exact Touches.refl s

/-- After an entry to STOP from another mode, every field outside what its tail touches stands as showStop left it. -/
theorem tail_enterStop (s : State) (cause : Nat) (h : s.mode ≠ 0) :
    Touches tailKey (s.quiesce.showStop cause) (s.enterStop cause) := by
  unfold State.enterStop
  rw [if_neg h]
  exact ((tail_raise _ (by decide)).trans (tail_stopEndsSlew _)).trans (tail_startSave _ _)

/-- A key of tailKey is no key of the registers of TSK_STAT and TSK_FAULT. -/
theorem not_tailKey {k : Nat} (h : 0x10030000 * 64 ≤ k ∧ k < 0x10030048 * 64) : ¬tailKey k := by
  rintro (⟨j, hj, h1⟩ | ⟨e, he, j, hj, h1⟩ | h1 | h1 | h1)
  · simp only at h1; omega
  · simp only at h1; omega
  · omega
  · simp only at h1; omega
  · omega

@[simp] theorem State.rd_quiesce (s : State) (f : Fld) : s.quiesce.rd f = s.haltAll.rd f :=
  State.rd_congr (by simp only [State.quiesce, State.abandonRuns]) f

/-- Halting the engines touches STATE of the engines only. -/
theorem State.rd_haltAll (s : State) {f : Fld} (h : ∀ e < 4, f.key ≠ (R.FBE_STAT_STATE e).key) : s.haltAll.rd f = s.rd f := by
  have k : ∀ (s : State) e, e < 4 → (s.haltEng e).rd f = s.rd f := by
    intro s e he
    unfold State.haltEng
    split
    · rfl
    · exact s.rd_wr_other 0 (h e he)
  rw [State.haltAll, k _ _ (by decide), k _ _ (by decide), k _ _ (by decide), k _ _ (by decide)]

/-- An entry to STOP shows the mode and its cause. -/
theorem State.enterStop_stat (s : State) (cause : Nat) (h : s.mode ≠ 0) :
    (s.enterStop cause).mode = 0 ∧ (s.enterStop cause).rd R.TSK_STAT_CAUSE = cause % 16 := by
  have t := tail_enterStop s cause h
  refine ⟨?_, ?_⟩
  · rw [State.mode, t _ (not_tailKey (by decide))]
    unfold State.showStop
    rw [State.rd_wr_other _ _ (by decide), State.showPend, State.wrB, State.rd_wr_other _ _ (by decide),
      State.rd_wr_other _ _ (by decide), State.rd_wr_same]
    rfl
  · rw [t _ (not_tailKey (by decide))]
    unfold State.showStop
    rw [State.rd_wr_same]
    rfl

/-- A field of TSK_FAULT, TSK_FAULTPH or FLT stands through an entry to STOP. -/
theorem State.rd_enterStop_fault (s : State) (cause : Nat) (h : s.mode ≠ 0) {f : Fld}
    (hf : (0x10030018 * 64 ≤ f.key ∧ f.key < 0x10030028 * 64) ∨ f = R.TSK_STAT_FLT) :
    (s.enterStop cause).rd f = s.rd f := by
  have hk : 0x10030000 * 64 ≤ f.key ∧ f.key < 0x10030048 * 64 ∧ f.key ≠ R.TSK_STAT_MODE.key ∧ f.key ≠ R.TSK_STAT_STEP.key ∧
      f.key ≠ R.TSK_STAT_PEND.key ∧ f.key ≠ R.TSK_STAT_CAUSE.key := by
    rcases hf with hf | hf
    · simp only [ne_eq]; omega
    · subst hf; decide
  rw [tail_enterStop s cause h f (not_tailKey ⟨hk.1, hk.2.1⟩)]
  unfold State.showStop
  rw [State.rd_wr_other _ _ hk.2.2.2.2.2, State.showPend, State.wrB, State.rd_wr_other _ _ hk.2.2.2.2.1,
    State.rd_wr_other _ _ hk.2.2.2.1, State.rd_wr_other _ _ hk.2.2.1, State.rd_quiesce, State.rd_haltAll]
  intro e he; simp only [ne_eq]; omega

/-- What a controller stop in RUN or HOLD shows (R93): STOP with its cause, the fault latched with its task and master, FLT. -/
theorem State.controllerStop_stat (s : State) {cause : Nat} (fault task master : Nat) (h : s.mode ≠ 0) :
    let t := s.controllerStop cause fault task master
    t.mode = 0 ∧ t.rd R.TSK_STAT_CAUSE = cause % 16 ∧ t.rd R.TSK_FAULT_FAULT = fault % 65536 ∧ t.rd R.TSK_STAT_FLT = 1 ∧
      t.rd R.TSK_FAULT_TASK = task % 64 ∧ t.rd R.TSK_FAULT_MASTER = master % 16 := by
  intro t
  have hm : (s.mode = 0 && !s.inGap) = false := by simp [h]
  obtain ⟨u, hu⟩ : ∃ u : State, u = s.haltNow := ⟨_, rfl⟩
  have ht : t.regs = ((u.latchStop fault task master).enterStop cause).regs := by
    simp only [t, State.controllerStop, hm, Bool.false_eq_true, if_false, ← hu]
    rw [State.tallyEvent_regs, State.gapStopped_regs]
  have hu : u.mode = s.mode := by
    have hg : u.regs = s.haltAll.regs := by rw [hu, State.haltNow_regs]
    rw [State.mode, State.rd_congr hg, s.rd_haltAll (by intro e he; simp only [ne_eq]; omega)]
    rfl
  have hr : ∀ f : Fld, (f.key < 0x10000040 * 64 ∨ (0x10030000 * 64 ≤ f.key ∧ f.key < 0x10040000 * 64)) →
      ∀ v : State, (v.raise 25).rd f = v.rd f := by
    intro f hf v
    refine v.rd_raise ?_ ?_
    · simp only [ne_eq]; omega
    · intro e he; simp only [ne_eq]; omega
  have hl : (u.latchStop fault task master).mode ≠ 0 := by
    have : (u.latchStop fault task master).mode = u.mode := by
      rw [State.mode, State.latchStop, hr _ (by decide), State.rd_note]
      simp only [State.mode]
      rw [State.rd_wr_other _ _ (by decide), State.rd_wr_other _ _ (by decide), State.rd_wr_other _ _ (by decide),
        State.rd_wr_other _ _ (by decide), State.rd_wr_other _ _ (by decide), State.rd_wr_other _ _ (by decide)]
    rw [this, hu]; exact h
  have hs := State.enterStop_stat (u.latchStop fault task master) cause hl
  refine ⟨(State.rd_congr ht _).trans hs.1, (State.rd_congr ht _).trans hs.2, ?_, ?_, ?_, ?_⟩
  all_goals
    rw [State.rd_congr ht, State.rd_enterStop_fault _ _ hl (by first | exact .inr rfl | exact .inl (by decide)), State.latchStop,
      hr _ (by decide), State.rd_note]
  · rw [State.rd_wr_other _ _ (by decide), State.rd_wr_other _ _ (by decide), State.rd_wr_other _ _ (by decide),
      State.rd_wr_other _ _ (by decide), State.rd_wr_other _ _ (by decide), State.rd_wr_same]
    rfl
  · rw [State.rd_wr_same]
    rfl
  · rw [State.rd_wr_other _ _ (by decide), State.rd_wr_other _ _ (by decide), State.rd_wr_other _ _ (by decide),
      State.rd_wr_other _ _ (by decide), State.rd_wr_same]
    rfl
  · rw [State.rd_wr_other _ _ (by decide), State.rd_wr_other _ _ (by decide), State.rd_wr_other _ _ (by decide),
      State.rd_wr_same]
    rfl

/-! ### The trap (R131) -/

/-- What an engine's own record of a trap touches: its FBE registers but the bank, line 32 + e and the engine events. -/
theorem State.rd_recordTrap (s : State) (e : Eng) (fault addr word : Nat) {f : Fld}
    (h : (0x10040020 + 0x10000 * e.val) * 64 ≤ f.key ∨ f.key < 0x10040000 * 64)
    (hl : ∀ j ≤ 1, f.key ≠ (R.SYS_IRQPEND_PEND j).key) (hv : ∀ d < 4, ∀ j ≤ 1, f.key ≠ (R.FBE_EVLIVE_LIVE d j).key) :
    (s.recordTrap e fault addr word).rd f = s.rd f := by
  unfold State.recordTrap
  rw [State.rd_raise _ (hl _ (by omega)) (fun d hd => hv d hd _ (by omega)),
    State.rd_wr_other _ _ (by simp only [ne_eq]; omega), State.rd_wr_other _ _ (by simp only [ne_eq]; omega),
    State.rd_wr_other _ _ (by simp only [ne_eq]; omega), State.rd_wr_other _ _ (by simp only [ne_eq]; omega),
    State.rd_wr_other _ _ (by simp only [ne_eq]; omega), State.rd_wr_other _ _ (by simp only [ne_eq]; omega),
    State.rd_wr_other _ _ (by simp only [ne_eq]; omega)]

/-- What an engine's own record of a trap shows. -/
theorem State.recordTrap_shows (s : State) (e : Eng) (fault addr word : Nat) :
    let t := s.recordTrap e fault addr word
    t.rd (R.FBE_STAT_STATE e) = 3 ∧ t.rd (R.FBE_TRAP_FAULT e) = fault % 65536 ∧ t.rd (R.FBE_TRAPIP_IP e) = s.ip e % 2 ^ 32 ∧
      t.rd (R.FBE_TRAPWORD_WORD e) = word % 2 ^ 32 ∧ t.rd (R.FBE_TADDR_ADDR e) = addr % 2 ^ 40 ∧ t.lineUp (32 + e) = true ∧
      t.rd (R.FBE_STAT_BANK e) = s.rd (R.FBE_STAT_BANK e) ∧ t.mem = s.mem := by
  have hr : ∀ (v : State) (f : Fld), 0x10040000 * 64 ≤ f.key → (∀ d < 4, f.key ≠ (R.FBE_EVLIVE_LIVE d 0).key) →
      (v.raise (32 + e)).rd f = v.rd f := by
    intro v f hf hv
    have h0 : (32 + e.val) / 64 = 0 := by omega
    refine v.rd_raise ?_ ?_
    · simp only [ne_eq]; omega
    · rw [h0]; exact hv
  intro t
  have ht : t = s.recordTrap e fault addr word := rfl
  unfold State.recordTrap at ht
  have ho : ∀ {u : State} {f g : Fld} (v : Nat), g.key ≠ f.key → (u.wr f v).rd g = u.rd g := fun v h => State.rd_wr_other _ v h
  rw [ht]
  refine ⟨?_, ?_, ?_, ?_, ?_, ?_, ?_, ?_⟩
  · rw [hr _ _ (by simp only []; omega) (by intro d hd; simp only [ne_eq]; omega), State.rd_wr_same]
    rfl
  · rw [hr _ _ (by simp only []; omega) (by intro d hd; simp only [ne_eq]; omega), ho _ (by simp only [ne_eq]; omega),
      ho _ (by simp only [ne_eq]; omega), ho _ (by simp only [ne_eq]; omega), ho _ (by simp only [ne_eq]; omega),
      ho _ (by simp only [ne_eq]; omega), ho _ (by simp only [ne_eq]; omega), State.rd_wr_same]
    rfl
  · rw [hr _ _ (by simp only []; omega) (by intro d hd; simp only [ne_eq]; omega), ho _ (by simp only [ne_eq]; omega),
      ho _ (by simp only [ne_eq]; omega), ho _ (by simp only [ne_eq]; omega), State.rd_wr_same,
      ho _ (by simp only [ne_eq]; omega), ho _ (by simp only [ne_eq]; omega)]
    rfl
  · rw [hr _ _ (by simp only []; omega) (by intro d hd; simp only [ne_eq]; omega), ho _ (by simp only [ne_eq]; omega),
      ho _ (by simp only [ne_eq]; omega), State.rd_wr_same]
  · rw [hr _ _ (by simp only []; omega) (by intro d hd; simp only [ne_eq]; omega), ho _ (by simp only [ne_eq]; omega),
      State.rd_wr_same]
  · exact State.lineUp_raise_same _ (by omega)
  · rw [hr _ _ (by simp only []; omega) (by intro d hd; simp only [ne_eq]; omega), ho _ (by simp only [ne_eq]; omega),
      ho _ (by simp only [ne_eq]; omega), ho _ (by simp only [ne_eq]; omega), ho _ (by simp only [ne_eq]; omega),
      ho _ (by simp only [ne_eq]; omega), ho _ (by simp only [ne_eq]; omega), ho _ (by simp only [ne_eq]; omega)]
  · rw [State.raise_mem]; rfl

/-- Engine `e` is trapped and its line is up. -/
def State.shownTrap (s : State) (e : Eng) : Prop := s.rd (R.FBE_STAT_STATE e) = 3 ∧ s.lineUp (32 + e) = true

theorem State.shownTrap_regs {s t : State} {e : Eng} (h : s.shownTrap e) (hr : t.regs = s.regs) : t.shownTrap e :=
  ⟨(State.rd_congr hr _).trans h.1, (State.lineUp_congr _ (State.rd_congr hr _)).trans h.2⟩

theorem State.shownTrap_wr {s : State} {e : Eng} (h : s.shownTrap e) {f : Fld} (v : Nat)
    (hf : (0x10020000 * 64 ≤ f.key ∧ f.key < 0x10040000 * 64) ∨ 0x10130000 * 64 ≤ f.key) : (s.wr f v).shownTrap e := by
  refine ⟨?_, ?_⟩
  · rw [State.rd_wr_other _ _ (by simp only [ne_eq]; omega)]; exact h.1
  · rw [State.lineUp_wr _ _ (by simp only [ne_eq]; omega)]; exact h.2

theorem State.shownTrap_raise {s : State} {e : Eng} (h : s.shownTrap e) {n : Nat} (hn : n < 128) : (s.raise n).shownTrap e := by
  refine ⟨?_, State.lineUp_raise _ hn (by omega) h.2⟩
  rw [State.rd_raise _ (by simp only [ne_eq]; omega) (by intro d hd; simp only [ne_eq]; omega)]
  exact h.1

theorem State.shownTrap_haltAll {s : State} {e : Eng} (h : s.shownTrap e) : s.haltAll.shownTrap e := by
  refine ⟨s.haltAll_trapped h.1, ?_⟩
  rw [State.lineUp_congr _ (s.rd_haltAll (by intro d hd; simp only [ne_eq]; omega))]
  exact h.2

theorem State.shownTrap_latchStop {s : State} {e : Eng} (h : s.shownTrap e) (f t m : Nat) : (s.latchStop f t m).shownTrap e := by
  unfold State.latchStop
  refine State.shownTrap_raise (State.shownTrap_regs ?_ (State.note_regs _ _)) (by decide)
  repeat' refine State.shownTrap_wr ?_ _ (by decide)
  exact h

theorem State.shownTrap_enterStop {s : State} {e : Eng} (h : s.shownTrap e) (c : Nat) : (s.enterStop c).shownTrap e := by
  have q : s.quiesce.shownTrap e :=
    State.shownTrap_regs (State.shownTrap_haltAll h) (by simp only [State.quiesce, State.abandonRuns])
  have k : (s.quiesce.showStop c).shownTrap e :=
    State.shownTrap_wr (State.shownTrap_wr (State.shownTrap_wr (State.shownTrap_wr q _ (by decide)) _ (by decide)) _ (by decide))
      _ (by decide)
  have r := State.shownTrap_raise k (n := 24) (by decide)
  have sl : ((s.quiesce.showStop c).raise 24).stopEndsSlew.shownTrap e := by
    unfold State.stopEndsSlew
    split
    · refine State.shownTrap_raise (State.shownTrap_wr ?_ _ (by decide)) (by decide)
      exact State.shownTrap_regs (State.shownTrap_wr (State.shownTrap_regs (State.shownTrap_wr r _ (by decide)) rfl) _ (by decide)) rfl
    · exact r
  have b : ∀ {u : State}, u.shownTrap e → ∀ slot c, (u.beginSave slot c).shownTrap e := by
    intro u hu slot c
    exact State.shownTrap_regs (State.shownTrap_wr (State.shownTrap_wr hu (f := R.TSK_RSTAT_SAVING) 1 (by decide))
      (f := R.NVS_STAT_SAVE) 1 (by decide)) (u.beginSave_regs slot c)
  unfold State.enterStop
  split
  · exact k
  · unfold State.startSave
    split
    · exact sl
    · split
      · split
        · exact b sl _ _
        · exact sl
      · exact b sl _ _

/-- A trapped engine stays trapped, its line up, through a controller stop. -/
theorem State.shownTrap_controllerStop {s : State} {e : Eng} (h : s.shownTrap e) (c f t m : Nat) :
    (s.controllerStop c f t m).shownTrap e := by
  unfold State.controllerStop
  split
  · split
    · refine State.shownTrap_regs ?_ (State.tallyEvent_regs _ _ _)
      refine State.shownTrap_regs ?_ (State.dropEntry_regs _)
      exact State.shownTrap_wr (State.shownTrap_regs (State.shownTrap_latchStop h f t m) (State.regs_tsk _ _)) _ (by decide)
    · exact h
  · have a : s.haltNow.shownTrap e := State.shownTrap_regs (State.shownTrap_haltAll h) s.haltNow_regs
    exact State.shownTrap_regs (State.shownTrap_enterStop (State.shownTrap_latchStop a f t m) c) rfl

/-- A register of an engine's block other than STATE and LIVE is no register that a controller stop touches. -/
theorem not_stopKey_fbe {e : Nat} {k : Nat} (h : (0x10040000 + 0x10000 * e) * 64 ≤ k ∧ k < (0x10050000 + 0x10000 * e) * 64)
    (he : e < 4) (h1 : ∀ d < 4, k ≠ (R.FBE_STAT_STATE d).key) (h2 : ∀ d < 4, ∀ j ≤ 1, k ≠ (R.FBE_EVLIVE_LIVE d j).key) :
    ¬stopKey k := by
  rintro (⟨j, hj, r⟩ | ⟨d, hd, j, hj, r⟩ | ⟨d, hd, r⟩ | r | r)
  · simp only at r; omega
  · exact h2 d hd j hj r
  · exact h1 d hd r
  · omega
  · omega

/-- The trap: everything Trapped says. -/
theorem State.trap_spec (s : State) (e : Eng) {fault : Nat} (hf : fault < 65536) (addr : Nat) (word : Word) :
    Trapped e fault addr word s (s.trap e fault addr word.toNat) := by
  obtain ⟨h1, h2, h3, h4, h5, h6, h7, h8⟩ := s.recordTrap_shows e fault addr word.toNat
  have hs := State.shownTrap_controllerStop (s := s.recordTrap e fault addr word.toNat) ⟨h1, h6⟩ 3 fault
    (s.rd (R.FBE_STAT_TASK e)) (2 + e)
  have ht := stop_controllerStop (s.recordTrap e fault addr word.toNat) 3 fault (s.rd (R.FBE_STAT_TASK e)) (2 + e)
  have hk : ∀ f : Fld, (0x10040000 + 0x10000 * e.val) * 64 ≤ f.key → f.key < (0x10041400 + 0x10000 * e.val) * 64 →
      (∀ d < 4, f.key ≠ (R.FBE_STAT_STATE d).key) → (∀ d < 4, ∀ j ≤ 1, f.key ≠ (R.FBE_EVLIVE_LIVE d j).key) →
      (s.trap e fault addr word.toNat).rd f = (s.recordTrap e fault addr word.toNat).rd f := fun f a b c d =>
    ht f (not_stopKey_fbe ⟨a, by omega⟩ e.isLt c d)
  have hb : (s.trap e fault addr word.toNat).rd (R.FBE_STAT_BANK e) = s.rd (R.FBE_STAT_BANK e) :=
    (hk _ (by simp only []; omega) (by simp only []; omega) (by intro d hd; simp only [ne_eq]; omega)
      (by intro d hd j hj; simp only [ne_eq]; omega)).trans h7
  have hbl : s.rd (R.FBE_STAT_BANK e) < 4 := State.rd_lt _ _
  have hB : ∀ f : Fld, (0x10041000 + 0x10000 * e.val) * 64 ≤ f.key → f.key < (0x10041400 + 0x10000 * e.val) * 64 →
      (s.trap e fault addr word.toNat).rd f = s.rd f := fun f a b =>
    (hk f (by omega) b (by intro d hd; simp only [ne_eq]; omega) (by intro d hd j hj; simp only [ne_eq]; omega)).trans
      (s.rd_recordTrap e _ _ _ (.inl (by omega)) (by intro j hj; simp only [ne_eq]; omega)
        (by intro d hd j hj; simp only [ne_eq]; omega))
  refine ⟨hs.1, ?_, ?_, ?_, ?_, ?_, ?_, ?_, ?_, hs.2, ?_⟩
  · rw [hk _ (by simp only []; omega) (by simp only []; omega) (by intro d hd; simp only [ne_eq]; omega)
      (by intro d hd j hj; simp only [ne_eq]; omega), h2, Nat.mod_eq_of_lt hf]
  · rw [hk _ (by simp only []; omega) (by simp only []; omega) (by intro d hd; simp only [ne_eq]; omega)
      (by intro d hd j hj; simp only [ne_eq]; omega), h3]
  · rw [hk _ (by simp only []; omega) (by simp only []; omega) (by intro d hd; simp only [ne_eq]; omega)
      (by intro d hd j hj; simp only [ne_eq]; omega), h4]
    exact Nat.mod_eq_of_lt word.isLt
  · rw [hk _ (by simp only []; omega) (by simp only []; omega) (by intro d hd; simp only [ne_eq]; omega)
      (by intro d hd j hj; simp only [ne_eq]; omega), h5]
  · intro n
    unfold State.x State.bank
    rw [hb]
    exact hB _ (by simp only []; omega) (by simp only []; omega)
  · unfold State.flags State.bank
    rw [hb, hB _ (by simp only []; omega) (by simp only []; omega)]
  · unfold State.ip State.bank
    rw [hb]
    exact hB _ (by simp only []; omega) (by simp only []; omega)
  · exact (State.controllerStop_mem _ _ _ _ _).trans h8
  · intro hm
    have hm' : (s.recordTrap e fault addr word.toNat).mode ≠ 0 := by
      have : (s.recordTrap e fault addr word.toNat).mode = s.mode :=
        s.rd_recordTrap e _ _ _ (.inr (by decide)) (by intro j hj; simp only [ne_eq]; omega)
          (by intro d hd j hj; simp only [ne_eq]; omega)
      rw [this]; exact hm
    have k := State.controllerStop_stat (s.recordTrap e fault addr word.toNat) (cause := 3) fault (s.rd (R.FBE_STAT_TASK e))
      (2 + e) hm'
    exact ⟨k.1, k.2.2.1.trans (Nat.mod_eq_of_lt hf), k.2.2.2.1, k.2.1⟩

end Sys2Proof.Machine
end

