-- ==== Sys2Proof/Laws/Engine.lean ====
section
/-! SUPPORT. What the shared course of an engine instruction does, said once: its result, its flags, its advance and its frame. -/

namespace Sys2Proof.Machine

/-! ### Flags and widths -/

/-- FS holds the flags that were packed into it. -/
theorem unpack_packFlags (f : Flags) : unpackFlags (packFlags f % 2 ^ 5) = f := by
  rcases f with ⟨z, n, c, v, q⟩
  revert z n c v q; decide

/-- The flags in FS fill it. -/
theorem pack_unpackFlags {n : Nat} (h : n < 2 ^ 5) : packFlags (unpackFlags n) = n := by
  revert n; decide

theorem extend_lt {k : Nat} (hk : k ≤ 64) (sx : Bool) (v : Nat) : extend k sx v < 2 ^ 64 := by
  have h : v % 2 ^ k < 2 ^ k := Nat.mod_lt _ (Nat.two_pow_pos k)
  have h2 : 2 ^ k ≤ 2 ^ 64 := Nat.pow_le_pow_right (by omega) hk
  unfold extend
  dsimp only
  split <;> omega

theorem getLsbD_eq_bitOf {k : Nat} (v : BitVec k) (i : Nat) : v.getLsbD i = bitOf v.toNat i := by
  rw [BitVec.getLsbD, bitOf_eq_testBit]

/-- A number extended from `k` bits is the `k`-bit value widened (R113). -/
theorem extend_eq_widened {k : Nat} (hk2 : k ≤ 64) (sx : Bool) (v : Nat) :
    BitVec.ofNat 64 (extend k sx v) = widened k sx (BitVec.ofNat k v) := by
  have h : v % 2 ^ k < 2 ^ k := Nat.mod_lt _ (Nat.two_pow_pos k)
  have h2 : 2 ^ k ≤ 2 ^ 64 := Nat.pow_le_pow_right (by omega) hk2
  have hm : bitOf (v % 2 ^ k) (k - 1) = (BitVec.ofNat k v).msb := by
    rw [BitVec.msb_eq_getLsbD_last, getLsbD_eq_bitOf, BitVec.toNat_ofNat]
  apply BitVec.eq_of_toNat_eq
  rw [BitVec.toNat_ofNat, Nat.mod_eq_of_lt (extend_lt hk2 sx v)]
  unfold extend widened
  dsimp only
  rw [hm]
  cases sx
  · rw [if_neg (by simp), if_neg (by simp), BitVec.toNat_setWidth, BitVec.toNat_ofNat]
    exact (Nat.mod_eq_of_lt (by omega)).symm
  · rw [if_pos rfl, BitVec.toNat_signExtend, BitVec.toNat_setWidth, BitVec.toNat_ofNat, Nat.mod_eq_of_lt (a := v % 2 ^ k) (by omega)]
    by_cases hb : (BitVec.ofNat k v).msb
    · simp [hb]
    · simp [hb]

/-! ### The end of an instruction -/

section
variable (s : State)

/-- The registers of the bank that an instruction writes are distinct fields. -/
theorem State.xF_ne_fsF (e : Eng) (n : BitVec 4) : (s.xF e n).key ≠ (s.fsF e).key := by
  unfold State.xF State.fsF; simp only [ne_eq]; omega

theorem State.xF_ne_ipF (e : Eng) (n : BitVec 4) : (s.xF e n).key ≠ (s.ipF e).key := by
  unfold State.xF State.ipF; simp only [ne_eq]; omega

theorem State.fsF_ne_ipF (e : Eng) : (s.fsF e).key ≠ (s.ipF e).key := by
  unfold State.fsF State.ipF; simp only [ne_eq]; omega

theorem State.bank_key (e : Eng) {k : Nat} (h : (0x10041000 + 0x10000 * e.val) * 64 ≤ k) : (R.FBE_STAT_BANK e).key ≠ k := by
  simp only [ne_eq]; omega

end

/-- A state in which only fields of the bank in use and the engine's ticks have changed has the same bank. -/
theorem State.bank_congr {s t : State} {e : Eng} (h : t.rd (R.FBE_STAT_BANK e) = s.rd (R.FBE_STAT_BANK e)) : t.bank e = s.bank e := h

/-- An instruction that has put a value into xd, set the flags and ended. -/
theorem done_setX_setFlags (e : Eng) (d : BitVec 4) (v : Nat) (fl : Flags) (len cost : Nat) (s : State) :
    let t := ((((s.setX e d v).setFlags e fl).setIp e (((s.setX e d v).setFlags e fl).ip e + len)).spend e cost)
    t.x e d = v % 2 ^ 64 ∧ t.flags e = fl ∧ Advanced e len cost s t ∧ EngFrame e [s.xF e d, s.fsF e, s.ipF e] s t := by
  intro t
  have hx := s.xF_ne_fsF e d
  have hy := s.xF_ne_ipF e d
  have hz := s.fsF_ne_ipF e
  have hbx : (R.FBE_STAT_BANK e).key ≠ (s.xF e d).key := State.bank_key e (by unfold State.xF; simp only; omega)
  have hbf : (R.FBE_STAT_BANK e).key ≠ (s.fsF e).key := State.bank_key e (by unfold State.fsF; simp only; omega)
  have hbi : (R.FBE_STAT_BANK e).key ≠ (s.ipF e).key := State.bank_key e (by unfold State.ipF; simp only; omega)
  have b1 : (s.setX e d v).bank e = s.bank e := s.rd_wr_other v hbx
  have e1 : (s.setX e d v).setFlags e fl = (s.setX e d v).wr (s.fsF e) (packFlags fl) := by
    unfold State.setFlags State.fsF; rw [b1]
  have b2 : ((s.setX e d v).setFlags e fl).bank e = s.bank e := by
    rw [e1]; exact (State.rd_wr_other _ _ hbf).trans b1
  have e2 : t = ((((s.wr (s.xF e d) v).wr (s.fsF e) (packFlags fl)).wr (s.ipF e) (s.ip e + len)).spend e cost) := by
    have hi : ((s.setX e d v).setFlags e fl).ip e = s.ip e := by
      unfold State.ip
      rw [b2, e1]
      exact (State.rd_wr_other _ _ hz.symm).trans (State.rd_wr_other _ _ hy.symm)
    simp only [t, hi]
    unfold State.setIp
    rw [b2, e1]
    rfl
  have b3 : t.bank e = s.bank e := by
    rw [e2]
    exact (State.rd_wr_other _ _ hbi).trans ((State.rd_wr_other _ _ hbf).trans (State.rd_wr_other _ _ hbx))
  refine ⟨?_, ?_, ⟨?_, ?_⟩, ?_, ?_, ?_⟩
  · unfold State.x
    rw [b3, e2]
    exact (State.rd_wr_other _ _ hy).trans ((State.rd_wr_other _ _ hx).trans (State.rd_wr_same _ _ _))
  · unfold State.flags
    rw [b3, e2]
    refine (congrArg unpackFlags ((State.rd_wr_other _ _ hz).trans (State.rd_wr_same _ _ _))).trans ?_
    exact unpack_packFlags fl
  · unfold State.ip
    rw [b3, e2]
    exact State.rd_wr_same _ _ _
  · rw [e2]; exact sget_sput_same _ _ _ _
  · intro f hf
    rw [e2]
    exact (State.rd_wr_other _ _ (hf _ (by simp))).trans ((State.rd_wr_other _ _ (hf _ (by simp))).trans
      (State.rd_wr_other _ _ (hf _ (by simp))))
  · intro k hk
    rw [e2]
    exact sget_sput_other _ _ _ hk
  · rw [e2]; rfl

/-- An instruction that has put a value into xd and ended. -/
theorem done_setX (e : Eng) (d : BitVec 4) (v : Nat) (len cost : Nat) (s : State) :
    RegPost e d (BitVec.ofNat 64 v) len cost s (((s.setX e d v).setIp e ((s.setX e d v).ip e + len)).spend e cost) := by
  have hy := s.xF_ne_ipF e d
  have hbx : (R.FBE_STAT_BANK e).key ≠ (s.xF e d).key := State.bank_key e (by unfold State.xF; simp only; omega)
  have hbi : (R.FBE_STAT_BANK e).key ≠ (s.ipF e).key := State.bank_key e (by unfold State.ipF; simp only; omega)
  have b1 : (s.setX e d v).bank e = s.bank e := s.rd_wr_other v hbx
  have e2 : ((s.setX e d v).setIp e ((s.setX e d v).ip e + len)).spend e cost =
      ((s.wr (s.xF e d) v).wr (s.ipF e) (s.ip e + len)).spend e cost := by
    have hi : (s.setX e d v).ip e = s.ip e := by
      unfold State.ip
      rw [b1]
      exact State.rd_wr_other _ _ hy.symm
    rw [hi]
    unfold State.setIp
    rw [b1]
    rfl
  rw [e2]
  have b3 : (((s.wr (s.xF e d) v).wr (s.ipF e) (s.ip e + len)).spend e cost).bank e = s.bank e :=
    (State.rd_wr_other _ _ hbi).trans (State.rd_wr_other _ _ hbx)
  refine ⟨?_, ⟨?_, ?_⟩, ?_, ?_, ?_⟩
  · unfold State.reg State.x
    rw [b3]
    refine (congrArg _ ((State.rd_wr_other _ _ hy).trans (State.rd_wr_same _ _ _))).trans ?_
    apply BitVec.eq_of_toNat_eq
    rw [BitVec.toNat_ofNat, BitVec.toNat_ofNat]
    exact Nat.mod_mod _ _
  · exact (congrArg (fun b => State.rd _ (R.FBE_BANK_IP_IP e b)) b3).trans (State.rd_wr_same _ _ _)
  · exact sget_sput_same _ _ _ _
  · intro f hf
    exact (State.rd_wr_other _ _ (hf _ (by simp))).trans (State.rd_wr_other _ _ (hf _ (by simp)))
  · intro k hk
    exact sget_sput_other _ _ _ hk
  · rfl

theorem State.reg_toNat (s : State) (e : Eng) (n : BitVec 4) (k : Nat) : (s.reg e n k).toNat = s.x e n % 2 ^ k :=
  BitVec.toNat_ofNat _ _

theorem IntWidth.tyBits {ty : BitVec 3} {k : Nat} (h : IntWidth ty k) : Machine.tyBits ty = k ∧ intTy ty = true ∧ k ≤ 64 ∧ 0 < k := by
  rcases h with ⟨rfl, rfl⟩ | ⟨rfl, rfl⟩ <;> decide

/-- A format A integer instruction on a running engine, its type accepted: everything it does. -/
theorem intOp_spec (op : BitVec 8) (e : Eng) (w : FmtA) (cost : Nat) (r : Nat → Nat → Nat → Nat)
    (fl : Flags → Nat → Nat → Nat → Flags) {s : State} {k : Nat} (hr : Running e s) (hw : IntWidth w.ty k) :
    ∃ t, intOp op e w cost r fl s = .next t ∧
      t.reg e w.d 64 = widened k w.sx (BitVec.ofNat k (r k (s.reg e w.a k).toNat (s.reg e w.b k).toNat)) ∧
      t.flags e = fl (s.flags e) k (s.reg e w.a k).toNat (s.reg e w.b k).toNat ∧ Advanced e 4 cost s t ∧
      EngFrame e [s.xF e w.d, s.fsF e, s.ipF e] s t := by
  obtain ⟨h1, h2, h3, -⟩ := hw.tyBits
  obtain ⟨v, hv⟩ : ∃ v, v = extend k w.sx (r k (s.x e w.a % 2 ^ k) (s.x e w.b % 2 ^ k)) := ⟨_, rfl⟩
  obtain ⟨u, hu⟩ : ∃ u, u = s.setX e w.d v := ⟨_, rfl⟩
  obtain ⟨g1, g2, g3, g4⟩ := done_setX_setFlags e w.d v (fl (s.flags e) k (s.x e w.a % 2 ^ k) (s.x e w.b % 2 ^ k)) 4 cost s
  rw [← hu] at g1 g2 g3 g4
  refine ⟨(((u.setFlags e (fl (s.flags e) k (s.x e w.a % 2 ^ k) (s.x e w.b % 2 ^ k))).setIp e
    ((u.setFlags e (fl (s.flags e) k (s.x e w.a % 2 ^ k) (s.x e w.b % 2 ^ k))).ip e + 4)).spend e cost), ?_, ?_, ?_, g3, g4⟩
  · unfold intOp
    rw [engRun_clean _ _ _ _ _ hr.1 hr.2]
    unfold intBody
    simp only [h2, Bool.not_true, Bool.false_eq_true, if_false, h1, ← hv, ← hu]
  · rw [s.reg_toNat, s.reg_toNat]
    have hl : v < 2 ^ 64 := by rw [hv]; exact extend_lt h3 _ _
    rw [Nat.mod_eq_of_lt hl] at g1
    refine (congrArg (BitVec.ofNat 64) g1).trans ?_
    rw [hv]
    exact extend_eq_widened h3 _ _
  · rw [s.reg_toNat, s.reg_toNat]; exact g2

end Sys2Proof.Machine
end

