-- ==== Sys2Proof/Tests/Slice0.lean ====
section
/-! SUPPORT. Tests of the model: ill-formed commands refused, words written out from the encoding tables, single steps with results
taken from the spec's rules, and for every statement with hypotheses a state and operands that meet them. -/

namespace Sys2Proof.Machine

/-! ### Well-formed commands -/

theorem test_wf_sysUndefined : WellFormed (.sysUndefined 0 0 0 0x10) = false ∧ WellFormed (.sysUndefined 0 0 0 0x0F) = true := by
  decide

theorem test_wf_illegal : WellFormed (.illegalInstruction 0 0x20000000) = false ∧ WellFormed (.illegalInstruction 0 0) = true := by
  decide

theorem test_wf_call : WellFormed (.call 0 ⟨0, 0, 0, 0, false, 1⟩ 0) = false ∧ WellFormed (.callf 0 ⟨0, 0, 0, 0, false, 1⟩ 0) = false ∧
    WellFormed (.callIndirect 0 ⟨0, 0, 0, 0, false, 0⟩ 0) = false ∧ WellFormed (.callfIndirect 0 ⟨0, 0, 0, 0, false, 0⟩ 0) = false := by
  decide

theorem test_wf_lpw : WellFormed (.lpw 0 ⟨0, 0, 0, 0, false, 4⟩) = false ∧ WellFormed (.lpwOwn 0 ⟨0, 0, 0, 0, false, 5⟩) = false ∧
    WellFormed (.lpwSwap 0 ⟨0, 0, 0, 0, false, 6⟩) = false ∧ WellFormed (.lpwClr 0 ⟨0, 0, 0, 0, false, 0⟩) = false := by decide

theorem test_wf_values : WellFormed (.ringFrame true 0 0 ⟨[], [], []⟩) = false ∧
  WellFormed (.meteringSample 0 [0] [0, 0, 0] [0, 0, 0, 0]) = false := by
  decide

theorem test_wf_points : WellFormed (.pointRead 8 0 (List.replicate 257 0)) = false ∧
    WellFormed (.pointWrite 8 0 (List.replicate 65 (0, 0))) = false :=
  ⟨by rw [WellFormed, List.length_replicate]; rfl, by rw [WellFormed, List.length_replicate]; rfl⟩

theorem test_wf_chunks (c : List Byte) (h : 1048576 < c.length) :
    WellFormed (.load 8 0 0 c true) = false ∧ WellFormed (.stage 8 0 1 0 c true) = false := by
  have : ¬c.length ≤ 1048576 := by omega
  simp [WellFormed, this]

theorem test_wf_macs : WellFormed (.lock 8 0 0 []) = false ∧ WellFormed (.tallyExport 8 0 0 0 (some (0, []))) = false ∧
    WellFormed (.settingsPut 8 0 {} (some [])) = false ∧ WellFormed (.settingsPut 8 0 { defs := [[]] } none) = false := by decide

theorem test_wf_frame : WellFormed (.fbsReceive 0 ⟨0, false, false, false, false, false, 2, [0]⟩ 0 []) = false := by decide

/-! ### Words -/

theorem test_words : decodeZ 0 0x20123600 0 = .add 0 ⟨1, 2, 3, 3, false, 0⟩ ∧ decodeZ 0 0x50300002 0 = .b 0 ⟨3, 0, 2⟩ ∧
    decodeZ 0 0x03000000 0 = .ret 0 0 := by decide

/-! ### States -/

/-- A state right after reset with some register fields set. -/
def withFields (fs : List (Fld × Nat)) : State := fs.foldl (fun s c => s.wr c.1 c.2) {}

/-- Engine 0 runs task 0, with fields set. -/
def running (fs : List (Fld × Nat)) : State :=
  withFields ([(R.FBE_STAT_STATE 0, 1), (R.FBE_STAT_TASK 0, 0), (R.FBE_STAT_BANK 0, 0)] ++ fs)

/-- Memory with little-endian numbers of four bytes. -/
def memOf (cs : List (Nat × Nat)) : Sparse (BitVec 8) := cs.foldl (fun m c => writeLE m c.1 4 c.2) []

/-- What a command leaves of one register field. -/
def after (c : Instr) (s : State) (f : Fld) : Nat :=
  match exec c s with
  | .next t => t.rd f
  | _ => 0

/-! ### Single steps -/

/-- R145: a wrap of ADD.w sets C and Z. -/
theorem test_add_wraps :
    (match exec (.add 0 ⟨1, 2, 3, 2, false, 0⟩) (running [(R.FBE_BANK_X_X 0 0 2, 0xFFFFFFFF), (R.FBE_BANK_X_X 0 0 3, 1)]) with
      | .next t => (t.x 0 1, (t.flags 0).z, (t.flags 0).c, (t.flags 0).v)
      | _ => (1, false, false, true)) = (0, true, true, false) := by decide

/-- R147: a zero divisor traps, and the engine is trapped with 0x0509. -/
theorem test_div_zero : after (.div 0 ⟨1, 2, 3, 2, false, 0⟩) (running [(R.FBE_BANK_X_X 0 0 2, 5)]) (R.FBE_TRAP_FAULT 0) = 0x0509 ∧
    after (.div 0 ⟨1, 2, 3, 2, true, 1⟩) (running [(R.FBE_BANK_X_X 0 0 2, 0xFFFFFFF9), (R.FBE_BANK_X_X 0 0 3, 2)])
      (R.FBE_BANK_X_X 0 0 1) = 2 ^ 64 - 1 := by decide

/-- R148: LIM holds xd between xa and xb, and gives xb where xa is greater. -/
theorem test_lim : after (.lim 0 ⟨1, 2, 3, 2, false, 0⟩)
      (running [(R.FBE_BANK_X_X 0 0 1, 7), (R.FBE_BANK_X_X 0 0 2, 9), (R.FBE_BANK_X_X 0 0 3, 4)]) (R.FBE_BANK_X_X 0 0 1) = 4 := by
  decide

/-- R149: 1.0 + 1.5 in .f is 2.5. -/
theorem test_fadd : after (.fadd 0 ⟨1, 2, 3, 4, false, 0⟩)
      (running [(R.FBE_BANK_X_X 0 0 2, 0x3F800000), (R.FBE_BANK_X_X 0 0 3, 0x3FC00000)]) (R.FBE_BANK_X_X 0 0 1) = 0x40200000 := by
  decide

/-- R151: a taken branch lands its offset in words from its own address. -/
theorem test_branch : after (.b 0 ⟨0, 0, 0xFFFE⟩) (running [(R.FBE_BANK_IP_IP 0 0, 0x100)]) (R.FBE_BANK_IP_IP 0 0) = 0xF8 := by decide

/-- R422: below 1000 mV the cell is low and absent. -/
theorem test_cell : after (.cellMeasure 999) {} R.PWR_STAT_CELLABS = 1 ∧ after (.cellMeasure 2500) {} R.PWR_STAT_CELLLOW = 0 := by
  decide

/-- R352: the last second of a leap February carries into March. -/
theorem test_calendar : (Cal.second ⟨0, 59, 59, 23, 29, 2, 4, 2024⟩) = ⟨0, 0, 0, 0, 1, 3, 5, 2024⟩ ∧
    (Cal.second ⟨0, 59, 59, 23, 28, 2, 4, 2100⟩).month = 3 := by decide

/-- A gap from STOP before its step 3. -/
def aGap : Gap :=
  { start := 0, fromRun := false, marked := false, toStop := false, fallback := false, cause := 0, switched := false, oldVer := 0, newVer := 0 }

/-! ### Witnesses: the block and the engines -/

theorem witness_StepRunsFrontCommand : ({ pending := [.cmdStop, .nvsTrim] } : State).pending = .cmdStop :: [.nvsTrim] := rfl

/-- A module out of reset with PHS on, at the given phase. -/
def counting (phase : Nat) : State :=
  { withFields [(R.PWR_DOMSTAT_ON, 0x403), (R.PHS_PHASE_PHASE, phase), (R.PHS_CFG_N, 64)] with pwr := { held := false } }

theorem witness_EmptyQueueTick :
    (({} : State).pending = [] ∧ ({} : State).pwr.held = true) ∧
    (let s := counting 0x100
     let p := s.rd R.PHS_PHASE_PHASE * 2 ^ 32 + s.phs.frac + s.rd R.PHS_INC_INC
     s.pending = [] ∧ s.pwr.held = false ∧ s.rd R.PWR_STAT_SLEEP = 0 ∧ s.domOn 10 = true ∧ p < 2 ^ 64 ∧
       cycleOf s.cycles (p / 2 ^ 32) = cycleOf s.cycles (s.rd R.PHS_PHASE_PHASE) ∧ s.memx.ecc = [] ∧ s.tim.loading = false ∧
       s.loading = .idle) := by decide

theorem witness_EveryStepKeepsCanonical : ({} : State).canonical = true ∧ step {} = .next (State.tickRtc {}) := ⟨by decide, rfl⟩

theorem witness_InstructionKeepsCanonical : engOf (.nop 3 0) = some 3 ∧ (∀ op w x, Instr.nop 3 0 ≠ .st 3 op w x) ∧
    ({} : State).canonical = true ∧ exec (.nop 3 0) {} = .next {} :=
  ⟨rfl, (by intro _ _ _ h; cases h), by decide, rfl⟩

theorem witness_DecodeOfEncode :
    let i : Instr := .add 3 ⟨15, 15, 15, 7, true, 0xFF⟩
    WellFormed i = true ∧ engOf i = some 3 ∧ (encode i).isSome = true := by decide

/-- The hypotheses of the arithmetic statements at both widths and in both formats. -/
theorem witness_engine : Running 0 (running []) ∧ IntWidth 2 32 ∧ IntWidth 3 64 ∧ FloatWidth 4 f32 32 ∧ FloatWidth 5 f64 64 ∧
    MemBytes 0 1 ∧ MemBytes 5 8 :=
  ⟨⟨by decide, rfl⟩, by unfold IntWidth; decide, by unfold IntWidth; decide, .inl ⟨rfl, rfl, rfl⟩, .inr ⟨rfl, rfl, rfl⟩,
    by unfold MemBytes; decide, by unfold MemBytes; decide⟩

theorem witness_AddSubNegResult : Running 0 (running []) ∧ IntWidth 2 32 := ⟨witness_engine.1, witness_engine.2.1⟩

theorem witness_MulAbsLogicResult : Running 0 (running []) ∧ IntWidth 3 64 := ⟨witness_engine.1, witness_engine.2.2.1⟩

theorem witness_ShiftBitResult : Running 0 (running []) ∧ IntWidth 2 32 := witness_AddSubNegResult

theorem witness_DivResult : Running 0 (running []) ∧ IntWidth 2 32 ∧ (running []).reg 0 3 32 = 0 ∧
    (running [(R.FBE_BANK_X_X 0 0 3, 0xFFFFFFFF)]).reg 0 3 32 ≠ 0 :=
  ⟨witness_engine.1, witness_engine.2.1, by decide, by decide⟩

theorem witness_CmpMovSelLimResult : Running 0 (running []) ∧ IntWidth 2 32 ∧
    (running [(R.FBE_BANK_X_X 0 0 2, 1)]).reg 0 3 32 < (running [(R.FBE_BANK_X_X 0 0 2, 1)]).reg 0 2 32 :=
  ⟨witness_engine.1, witness_engine.2.1, by decide⟩

theorem witness_ImmediateResult : Running 0 (running []) := witness_engine.1

theorem witness_FloatResult : Running 0 (running []) ∧ FloatWidth 5 f64 64 := ⟨witness_engine.1, witness_engine.2.2.2.2.1⟩

theorem witness_FloatArithmetic : FloatWidth 4 f32 32 ∧ FloatWidth 5 f64 64 ∧
    (∃ s m e t n g, f32.unpack 0x3F800000 = .num s m e ∧ f32.unpack 0x80000000 = .num t n g ∧ n = 0) ∧
    f32.unpack 0xFF800000 = .inf true ∧ f32.unpack 0x7F800000 = .inf false ∧ f32.unpack 0x7F800001 = .nan ∧
    f32.unpack (f32.add 0x7F800000 0xFF800000) = .nan :=
  ⟨witness_engine.2.2.2.1, witness_engine.2.2.2.2.1, ⟨_, _, _, _, _, _, rfl, rfl, rfl⟩, by decide, by decide, by decide, by decide⟩

theorem witness_CvtResult : Running 0 (running []) ∧ (4 : BitVec 3) = (4 : BitVec 8).extractLsb' 0 3 ∧ FloatWidth 4 f32 32 ∧
  IntWidth 3 64 :=
  ⟨witness_engine.1, by decide, witness_engine.2.2.2.1, witness_engine.2.2.1⟩

/-- An instance of 32 bytes at the foot of the instance store, a frame above it, and a pool of 8 bytes at 0x40. -/
def framed (fs : List (Fld × Nat)) : State :=
  { running ([(R.FBE_BANK_IB_IB 0 0, 0x1000000), (R.FBE_BANK_LB_LB 0 0, 0x1000100), (R.FBE_BANK_KB_KB 0 0, 0x40),
      (R.FBE_BANK_X_X 0 0 14, 0x1000110)] ++ fs) with
    mem := memOf [(0x1000004, 32)], img := some { poolBytes := zeros 8 } }

theorem witness_LoadResult :
    let s := framed [(R.FBE_BANK_X_X 0 0 2, 0x4000000)]
    (Running 0 s) ∧ MemBytes 3 8 ∧ (isSram ((s.ib 0 + 24) % 2 ^ 40) = true ∧ isSram ((s.ib 0 + 4) % 2 ^ 40) = true ∧
      (s.ib 0 + 24) % 2 ^ 40 % 8 = 0 ∧ 24 + 8 ≤ s.peek ((s.ib 0 + 4) % 2 ^ 40) 4) ∧
      ((s.lb 0 + 8) % 2 ^ 40 % 8 = 0 ∧ isSram ((s.lb 0 + 8) % 2 ^ 40) = true ∧ s.lb 0 + 8 + 8 ≤ s.x 0 14) ∧
      (s.kb 0 % 2 ^ 40 % 8 = 0 ∧ isSram (s.kb 0 % 2 ^ 40) = true ∧ 0 + 8 ≤ s.poolSize) ∧
      (s.x 0 2 + 0xFFF8) % 2 ^ 40 % 8 = 0 ∧ isSram ((s.x 0 2 + 0xFFF8) % 2 ^ 40) = true :=
  ⟨⟨by decide, rfl⟩, by unfold MemBytes; decide, by decide, by decide, by decide, by decide, by decide⟩

theorem witness_StoreResult :
    let s := framed [(R.FBE_BANK_X_X 0 0 2, 0x31FFFF8)]
    Running 0 s ∧ MemBytes 3 8 ∧ s.eaIB 0 ⟨1, false, 3, 16⟩ none % 8 = 0 ∧ regionOf (s.eaIB 0 ⟨1, false, 3, 16⟩ none) = .inst ∧
      isSram ((s.ib 0 + 4) % 2 ^ 40) = true ∧ 16 + 8 ≤ s.peek ((s.ib 0 + 4) % 2 ^ 40) 4 ∧ s.eaLB 0 ⟨1, false, 3, 8⟩ none % 8 = 0 ∧
      regionOf (s.eaLB 0 ⟨1, false, 3, 8⟩ none) = .inst ∧ s.lb 0 + 8 + 8 ≤ s.x 0 14 ∧
      regionOf (s.eaReg 0 ⟨0, 2, 0⟩) = .retain ∧ s.eaReg 0 ⟨0, 2, 0⟩ % 8 = 0 :=
  ⟨⟨by decide, rfl⟩, by unfold MemBytes; decide, by decide, by decide, by decide, by decide, by decide, by decide, by decide, by decide,
    by decide⟩

theorem witness_BreachAndRegisterSpace :
    let s := { running [(R.FBE_BANK_X_X 0 0 2, 0x7FFFF8), (R.FBE_BANK_X_X 0 0 3, 0x10000000), (R.FBE_BANK_X_X 0 0 14, 0x20000000),
      (R.FBE_BANK_IB_IB 0 0, 0x7FFF00), (R.FBE_BANK_LB_LB 0 0, 0x400FF00), (R.FBE_BANK_KB_KB 0 0, 0x1FFFFFF8)] with
      mem := memOf [(0x7FFF04, 0xFFFFFFFF)], img := some { poolBytes := zeros 8 } }
    Running 0 s ∧ MemBytes 3 8 ∧ regionOf (s.eaReg 0 ⟨0, 2, 0⟩) = .code ∧ s.eaReg 0 ⟨0, 2, 0⟩ % 8 = 0 ∧
      regionOf (s.eaReg 0 ⟨0, 3, 0xFFFFF8⟩) = .regs ∧ s.rd R.SYS_STAT_BREACH = 0 ∧ (s.wr R.SYS_STAT_BREACH 1).rd R.SYS_STAT_BREACH = 1 ∧
      isSram ((s.ib 0 + 4) % 2 ^ 40) = true ∧ 0xFFFFFF + 8 ≤ s.peek ((s.ib 0 + 4) % 2 ^ 40) 4 ∧
      (s.eaIB 0 ⟨0, false, 3, 16⟩ none % 8 = 0 ∧ regionOf (s.eaIB 0 ⟨0, false, 3, 16⟩ none) = .code) ∧
      (s.eaIB 0 ⟨0, false, 3, 0⟩ (some 0xF800100) % 8 = 0 ∧ regionOf (s.eaIB 0 ⟨0, false, 3, 0⟩ (some 0xF800100)) = .regs) ∧
      (s.eaLB 0 ⟨0, false, 3, 16⟩ none % 8 = 0 ∧ regionOf (s.eaLB 0 ⟨0, false, 3, 16⟩ none) = .image ∧ s.lb 0 + 16 + 8 ≤ s.x 0 14) ∧
      (s.eaLB 0 ⟨0, false, 3, 0⟩ (some 0xC000000) % 8 = 0 ∧ regionOf (s.eaLB 0 ⟨0, false, 3, 0⟩ (some 0xC000000)) = .regs ∧
        s.lb 0 + 0xC000000 + 8 ≤ s.x 0 14) ∧
      s.eaK 0 ⟨0, false, 3, 0⟩ none % 8 = 0 ∧ regionOf (s.eaK 0 ⟨0, false, 3, 0⟩ none) = .regs ∧ 0 + 8 ≤ s.poolSize :=
  ⟨⟨by decide, rfl⟩, by unfold MemBytes; decide, by decide, by decide, by decide, by decide, by decide, by decide, by decide, by decide,
    by decide, by decide, by decide, by decide, by decide, by decide⟩

/-- A store of 3 to PWR_DOMEN in STOP switches off the engine that stores. -/
theorem witness_BreachAndRegisterSpace_off :
    let s := running [(R.PWR_DOMSTAT_ON, 0xFFFF), (R.FBE_BANK_X_X 0 0 1, 3), (R.FBE_BANK_X_X 0 0 2, 0x10010010)]
    let u := s.writeRegs (s.eaReg 0 ⟨0, 2, 0⟩) 4 (s.x 0 1)
    Running 0 s ∧ MemBytes 2 4 ∧ regionOf (s.eaReg 0 ⟨0, 2, 0⟩) = .regs ∧ s.eaReg 0 ⟨0, 2, 0⟩ % 4 = 0 ∧
      (s.domOn 2 = true ∧ u.domOn 2 = false) :=
  ⟨⟨by decide, rfl⟩, by unfold MemBytes; decide, by decide, by decide, by decide +kernel⟩

theorem witness_LdpResult : Running 0 (running []) := witness_engine.1

theorem witness_StpResult : Running 0 (running []) ∧ (running []).ownedBy 4095 ((running []).curTask 0) = false :=
  ⟨witness_engine.1, by decide⟩

theorem witness_BranchResult :
    let s := running [(R.FBE_BANK_IP_IP 0 0, 0x7FFFF8), (R.FBE_BANK_X_X 0 0 2, 2)]
    let target := fun off : BitVec 16 => (BitVec.ofNat 32 (s.ip 0) + 4 * off.signExtend 32).toNat
    Running 0 s ∧ target 1 < 0x800000 ∧ 0x800000 ≤ target 2 ∧ (s.flags 0).cond 0 = false ∧ (s.flags 0).cond 1 = true ∧
      s.reg 0 2 64 - 1 ≠ 0 ∧ (s.reg 0 2 64 - 1).toNat < (2 : BitVec 16).toNat ∧ (1 : BitVec 16).toNat ≤ (s.reg 0 2 64 - 1).toNat :=
  ⟨⟨by decide, rfl⟩, by decide, by decide, by decide, by decide, by decide, by decide, by decide⟩

/-- A descriptor at 0x100 with frame 0x20, an instance with its header, and a list that holds the descriptor. -/
def calling (slim : Nat) : State :=
  { running [(R.FBE_BANK_X_X 0 0 14, 0x1001000), (R.FBE_BANK_X_X 0 0 2, 0x1000000), (R.FBE_BANK_X_X 0 0 3, 0x100),
      (R.FBE_BANK_SLIM_SLIM 0 0, slim)] with
    mem := memOf [(0x100, 5), (0x104, 64), (0x10C, 0x20), (0x200, 1), (0x204, 0x100), (0x1000000, 5), (0x1000004, 64)] }

theorem witness_CallResult :
    let s := calling 0x1001040
    Running 0 s ∧ regionOf 0x100 = .code ∧ regionOf (s.x 0 14) = .inst ∧ s.x 0 14 + 32 + s.peek (0x100 + 12) 4 ≤
      s.rd (R.FBE_BANK_SLIM_SLIM 0 (s.bank 0)) ∧ isSram (s.x 0 2 % 2 ^ 40) = true ∧ s.peek (s.x 0 2 % 2 ^ 40) 8 = s.peek 0x100 8 ∧
      isSram 0x200 = true ∧ (∃ i, i < s.peek 0x200 4 ∧ s.peek (0x200 + 4 + 4 * i) 4 = s.x 0 3) :=
  ⟨⟨by decide, rfl⟩, by decide, by decide, by decide, by decide, by decide, by decide, ⟨0, by decide, by decide⟩⟩

theorem witness_CallTraps :
    let s := calling 0x100103F
    Running 0 s ∧ regionOf 0x100 = .code ∧ s.rd (R.FBE_BANK_SLIM_SLIM 0 (s.bank 0)) < s.x 0 14 + 32 + s.peek (0x100 + 12) 4 ∧
      isSram (s.x 0 2 % 2 ^ 40) = true ∧ s.peek (s.x 0 2 % 2 ^ 40) 8 = s.peek 0x100 8 ∧
      isSram (s.x 0 1 % 2 ^ 40) = true ∧ s.peek (s.x 0 1 % 2 ^ 40) 8 ≠ s.peek 0x100 8 ∧
      isSram 0x200 = true ∧ (∃ i, i < s.peek 0x200 4 ∧ s.peek (0x200 + 4 + 4 * i) 4 = s.x 0 3) ∧
      isSram 0x300 = true ∧ (¬∃ i, i < s.peek 0x300 4 ∧ s.peek (0x300 + 4 + 4 * i) 4 = s.x 0 3) :=
  ⟨⟨by decide, rfl⟩, by decide, by decide, by decide, by decide, by decide, by decide, by decide, ⟨0, by decide, by decide⟩, by decide,
    fun ⟨_, h, _⟩ => absurd h (by
      have : (calling 0x100103F).peek 0x300 4 = 0 := by decide
      omega)⟩

theorem witness_ReturnResult :
    let s := fun ip => { running [(R.FBE_BANK_LB_LB 0 0, 0x1000020), (R.FBE_BANK_X_X 0 0 15, ip)] with
      tsk := { tasks := [(0, { depth := 1, running := true })] } }
    Running 0 (s 0) ∧ ((s 0).task ((s 0).curTask 0)).depth ≠ 0 ∧ isSram (((s 0).lb 0 + (2 ^ 40 - 32)) % 2 ^ 40) = true ∧
      (s 0x7FFFFC).x 0 15 < 0x800000 ∧ 0x800000 ≤ (s 0x800000).x 0 15 ∧ ((running []).task ((running []).curTask 0)).depth = 0 :=
  ⟨⟨by decide, rfl⟩, by decide, by decide, by decide, by decide, by decide⟩

theorem witness_SysServiceResult : Running 0 (running []) := witness_engine.1

/-- An image whose point 7 is written by task 0. -/
def owning : Image := { points := [{ point := 7, ty := 3, flags := 0, tenant := 0, wkind := 1, who := 0, stale := 0, bind := 0 }] }

/-- Task 0 owns output point 7, DO 0 of slice A. -/
def owningOut : Image :=
  { points := [{ point := 7, ty := 0, flags := 0x11, tenant := 0, wkind := 1, who := 0, stale := 0, bind := 0x1000 }] }

theorem witness_NopBrkStopreqQualset :
    Running 0 (running []) ∧ (running []).rd R.TSK_CFG_BRKEN = 0 ∧ Running 0 (running [(R.TSK_CFG_BRKEN, 1)]) ∧
      (running [(R.TSK_CFG_BRKEN, 1)]).rd R.TSK_CFG_BRKEN = 1 ∧ (running []).ownedBy 0 0 = false ∧
      { running [] with img := some owning }.ownedBy 7 0 = true ∧ { running [] with img := some owning }.commits 7 = false ∧
      { running [] with img := some owningOut }.ownedBy 7 0 = true ∧ { running [] with img := some owningOut }.commits 7 = true :=
  ⟨witness_engine.1, by decide, ⟨by decide, rfl⟩, by decide, by decide, by decide, by decide, by decide, by decide⟩

theorem witness_TimerEdgeResult :
    let s := framed []
    Running 0 s ∧ 16 % 8 = 0 ∧ isSram ((s.ib 0 + 4) % 2 ^ 40) = true ∧ 16 + 16 ≤ s.peek ((s.ib 0 + 4) % 2 ^ 40) 4 ∧
      regionOf ((s.ib 0 + 16) % 2 ^ 40) = .inst ∧
      ((0x4010 : BitVec 16).extractLsb' 0 14).toNat = 16 ∧ 28 + 4 ≤ s.peek ((s.ib 0 + 4) % 2 ^ 40) 4 :=
  ⟨⟨by decide, rfl⟩, by decide, by decide, by decide, by decide, by decide, by decide⟩

/-- Task 0 with a claim of 4 lines and a window of 64 lines at the foot of the program region; x2 names n lines. -/
def windowed (n a : Nat) : State :=
  { running [(R.FBE_BANK_X_X 0 0 2, n), (R.FBE_BANK_X_X 0 0 1, a), (R.FBE_BANK_WB_WB 0 0, 0x180000000), (R.FBE_BANK_WLIM_WLIM 0 0, 256)] with
    img := some { tasks := [{ w0 := 0, commit := 0, ofs := 0, entry := 0, wclaim := 0, inst := 0, stack := 0, wbase := 0, stackSz := 0, wsize := 0, lines := 3 }] } }

theorem witness_WinResult :
    let inWindow := fun s : State => 64 * (s.x 0 3 + s.x 0 2) ≤ s.rd (R.FBE_BANK_WLIM_WLIM 0 (s.bank 0))
    let inStore := fun s : State => 0x1000000 ≤ s.x 0 1 ∧ s.x 0 1 + 64 * s.x 0 2 ≤ 0x2800000
    Running 0 (windowed 3 0x27FFF40) ∧ (windowed 3 0x27FFF40).x 0 2 ≤ (3 : BitVec 16).toNat ∧ (windowed 3 0x27FFF40).x 0 1 % 64 = 0 ∧
      inWindow (windowed 3 0x27FFF40) ∧ inStore (windowed 3 0x27FFF40) ∧
      0x180000000 ≤ (windowed 3 0x27FFF40).rd (R.FBE_BANK_WB_WB 0 0) ∧
      (windowed 3 0x27FFF40).rd (R.FBE_BANK_WB_WB 0 0) + 64 * (windowed 3 0x27FFF40).x 0 3 + 64 * 3 ≤ 0x2FFE00000 ∧
      ((windowed 3 0x27FFF40).task 0).lines + 3 ≤ (windowed 3 0x27FFF40).lineClaim 0 ∧ (windowed 3 0x27FFF40).canonical = true ∧
      (2 : BitVec 16).toNat < (windowed 3 0x27FFF40).x 0 2 ∧ (windowed 3 0x27FFF41).x 0 1 % 64 ≠ 0 ∧
      ¬inWindow (windowed 5 0x1000000) ∧ inWindow (windowed 4 0x27FFF40) ∧ ¬inStore (windowed 4 0x27FFF40) ∧
      inStore (windowed 4 0x27FFF00) ∧ (windowed 4 0x27FFF00).lineClaim 0 < ((windowed 4 0x27FFF00).task 0).lines + 4 :=
  ⟨⟨by decide, rfl⟩, by decide, by decide, by decide, by decide, by decide, by decide, by decide, by decide, by decide, by decide,
    by decide, by decide, by decide, by decide, by decide⟩

theorem witness_SchResult :
    let c : SlotClaim := { slot := 1023, shaft := false, action := 4, slice := 0, chan := 0, lo := 5, hi := 9, clo := 0, chi := 0 }
    let s := { running [(R.FBE_BANK_X_X 0 0 1, 1023), (R.FBE_BANK_X_X 0 0 2, 9)] with img := some { slots := [c] } }
    let t := { s with phs := { schWrites := [(1023, 3, s.clk)] } }
    let out := fun p low high => (high + 2 ^ 32 - low) % 2 ^ 32 < (p + 2 ^ 32 - low) % 2 ^ 32
    let behind := fun turn w1 w2 => w1 % 4 = 3 ∧ 2 ^ 31 ≤ (w2 + 2 ^ 32 - turn) % 2 ^ 32
    Running 0 s ∧ s.x 0 1 < 1024 ∧ s.slotClaim (s.x 0 1) = some c ∧ (running []).slotClaim 0 = none ∧ s.phs.schWrites = [] ∧
      (∃ x ∈ t.phs.schWrites, x.1 = t.x 0 1 ∧ (0 : Eng).val < x.2.1 ∧ x.2.2 = t.clk) ∧ ¬out 9 c.lo c.hi ∧ out 10 c.lo c.hi ∧
        out 4 c.lo c.hi ∧
      ¬out 3 0xFFFFFFF0 3 ∧ (0x401 % 4 ≠ 0 ∧ bitOf 0x401 2 = c.shaft ∧ 0x401 / 2 ^ 21 % 8 = c.slice ∧ 0x401 / 2 ^ 8 % 16 ≠ 7) ∧
      bitOf 0x405 2 ≠ c.shaft ∧ 0x200401 / 2 ^ 21 % 8 ≠ c.slice ∧ 0x701 / 2 ^ 8 % 16 = 7 ∧ behind 5 0x403 4 ∧ ¬behind 5 0x403 5 :=
  ⟨⟨by decide, rfl⟩, by decide, by decide, by decide, by decide, by decide, by decide, by decide, by decide, by decide, by decide,
    by decide, by decide, by decide, by decide, by decide⟩

theorem witness_LoopTallyResult :
    let s := running [(R.FBE_BANK_X_X 0 0 2, 255), (R.LPE_LDECL_CL_CLAIMED 255, 1), (R.FBE_BANK_X_X 0 0 3, 0x3FF), (R.TLY_DEF_DEF 0x3FF, 1),
      (R.FBE_STAT_STATE 1, 1), (R.FBE_BANK_X_X 1 0 3, 0x3FF), (R.TLY_DEF_RATE 0x3FF, 1)]
    Running 0 s ∧ Running 1 s ∧ s.x 0 2 < 256 ∧ s.rd (R.LPE_LDECL_CL_CLAIMED (s.x 0 2)) = 1 ∧ s.rd (R.LPE_LDECL_CL_CLAIMED 254) ≠ 1 ∧
      selWritable 0x8F = true ∧ selWritable 0x90 = false ∧ selDefined 0x90 = true ∧ selDefined 0x8F = true ∧ selDefined 0x29 = false ∧
      s.tallyDefined (s.x 0 3) = true ∧ s.x 0 3 ≤ 0x3FF ∧ 256 ≤ s.x 0 3 ∧ s.tallyDefined 0x3FE = false ∧ intTy 3 = true ∧
      s.x 1 3 = s.x 0 3 ∧ s.tly.turns = [] ∧ (s.rd (R.TLY_DEF_RATE 0x3FF) ≠ 0 ∧ ¬s.rd (R.TLY_DEF_RATE 0x3FF) ≤ (s.live 0x3FF).second) ∧
      s.rd (R.TLY_DEF_RATE 0x3FF) ≤ ({ s with tly := { live := [(0x3FF, { second := 1 })] } }.live 0x3FF).second ∧
      f64.unpack 0x7FF8000000000000 = .nan ∧ f64.unpack 0 ≠ .nan :=
  ⟨⟨by decide, rfl⟩, ⟨by decide, rfl⟩, by decide, by decide, by decide, by decide, by decide, by decide, by decide, by decide, by decide,
    by decide, by decide, by decide, by decide, by decide, by decide, by decide, by decide, by decide, by decide⟩

theorem witness_EngineTraps :
    let s := framed [(R.FBE_BANK_X_X 0 0 2, 0x100000000), (R.FBE_BANK_X_X 0 0 3, 0x800000)]
    Running 0 s ∧ intTy 1 = false ∧ floatTy 3 = false ∧ (intTy 6 || floatTy 6) = false ∧ memTy 6 = false ∧ MemBytes 1 2 ∧
      s.eaIB 0 ⟨1, false, 1, 31⟩ none % 2 ≠ 0 ∧ s.eaLB 0 ⟨1, false, 1, 1⟩ none % 2 ≠ 0 ∧ s.eaK 0 ⟨1, false, 1, 1⟩ none % 2 ≠ 0 ∧
      s.eaReg 0 ⟨0, 2, 1⟩ % 2 ≠ 0 ∧ s.eaIB 0 ⟨1, false, 1, 32⟩ none % 2 = 0 ∧ isSram ((s.ib 0 + 4) % 2 ^ 40) = true ∧
      s.peek ((s.ib 0 + 4) % 2 ^ 40) 4 < 32 + 2 ∧ s.eaIB 0 ⟨1, false, 1, 14⟩ none % 2 = 0 ∧ s.x 0 14 < s.lb 0 + 16 + 2 ∧
      s.poolSize < 8 + 2 ∧ isDram (s.eaReg 0 ⟨0, 2, 0⟩) = true ∧ regionOf (s.eaReg 0 ⟨0, 3, 0⟩) = .unmapped :=
  ⟨⟨by decide, rfl⟩, by decide, by decide, by decide, by decide, by unfold MemBytes; decide, by decide, by decide, by decide, by decide,
    by decide, by decide, by decide, by decide, by decide, by decide, by decide, by decide⟩

/-- Bases outside the stores: with IB at `ib`, LB and KB at `far`, and a SIZE of 2^32 - 1 at the foot of the instance store. -/
def strayed (ib far : Nat) : State :=
  { running [(R.FBE_BANK_IB_IB 0 0, ib), (R.FBE_BANK_LB_LB 0 0, far), (R.FBE_BANK_KB_KB 0 0, far), (R.FBE_BANK_X_X 0 0 14, 2 ^ 40)] with
    mem := memOf [(0x1000004, 0xFFFFFFFF)], img := some { poolBytes := zeros 8 } }

theorem witness_EngineTraps_regions :
    let d := strayed 0x180000000 0x100000000
    let u := strayed 0x1000000 0x800000
    let v := strayed 0x800000 0x800000
    Running 0 d ∧ Running 0 u ∧ Running 0 v ∧ isDram ((d.ib 0 + 4) % 2 ^ 40) = true ∧ regionOf ((v.ib 0 + 4) % 2 ^ 40) = .unmapped ∧
      isSram ((u.ib 0 + 4) % 2 ^ 40) = true ∧ 0x1800000 + 2 ≤ u.peek ((u.ib 0 + 4) % 2 ^ 40) 4 ∧
      regionOf (u.eaIB 0 ⟨1, false, 1, 0⟩ (some 0x1800000)) = .unmapped ∧ u.eaIB 0 ⟨1, false, 1, 0⟩ (some 0x1800000) % 2 = 0 ∧
      isDram (d.eaLB 0 ⟨1, false, 1, 0⟩ none) = true ∧ d.lb 0 + 0 + 2 ≤ d.x 0 14 ∧ regionOf (u.eaLB 0 ⟨1, false, 1, 0⟩ none) = .unmapped ∧
      isDram (d.eaK 0 ⟨1, false, 1, 0⟩ none) = true ∧ 0 + 2 ≤ d.poolSize ∧ regionOf (u.eaK 0 ⟨1, false, 1, 0⟩ none) = .unmapped :=
  ⟨⟨by decide, rfl⟩, ⟨by decide, rfl⟩, ⟨by decide, rfl⟩, by decide, by decide, by decide, by decide, by decide, by decide, by decide,
    by decide, by decide, by decide, by decide, by decide⟩

theorem witness_IdleEngineExecutesNothing : engOf (.ret 2 0) = some 2 ∧ ({} : State).rd (R.FBE_STAT_STATE 2) ≠ 1 ∧
    ({} : State).underway 2 = false := by decide

/-! ### Witnesses: commands and events -/

theorem witness_SupervisorInputs :
    let s := withFields [(R.SYS_STAT_BREACH, 1), (R.SYS_CFG_BREACHACT, 1), (R.TSK_STAT_MODE, 1), (R.SYS_STAT_CLKSRC, 1),
      (R.TSK_CFG_SAFEINEN, 1)]
    s.rd R.SYS_STAT_BREACH = 1 ∧ s.rd R.SYS_CFG_BREACHACT = 1 ∧ s.mode ≠ 0 ∧ s.rd R.SYS_STAT_CLKSRC = 1 ∧
      (s.wr R.SYS_CFG_BREACHACT 0).rd R.SYS_CFG_BREACHACT = 0 ∧ s.rd R.SYS_STAT_SAFEIN = 0 ∧ s.rd R.PWR_STAT_SLEEP = 0 ∧
      s.rd R.TSK_CFG_SAFEINEN = 1 ∧ (s.wr R.TSK_CFG_SAFEINEN 0).rd R.TSK_CFG_SAFEINEN = 0 ∧
      ({} : State).rd R.SYS_STAT_BREACH = 0 ∧ ({} : State).rd R.SYS_STAT_CLKSRC = 0 ∧
      (withFields [(R.SYS_STAT_SAFEIN, 1)]).rd R.SYS_STAT_SAFEIN = 1 := by decide

theorem witness_BusAccess : otherMaster 6 ∧ otherMaster 1 ∧ regionOf 0x800000 = .unmapped ∧ isSram 0x7FFFFF = true ∧
    isSram 0x400FFFF = true ∧ regionOf 0x10000000 = .regs ∧ (withFields [(R.PWR_DOMSTAT_ON, 0xFFFF)]).domOn 5 = true ∧
    ({} : State).memx.ecc = [] ∧ ({} : State).rd R.SYS_STAT_UNMAP = 0 ∧ (withFields [(R.SYS_STAT_UNMAP, 1)]).rd R.SYS_STAT_UNMAP = 1 ∧
    ({} : State).domOn (blockDom (regAlias 0x100C0000)) = false := by unfold otherMaster; decide

/-- SYS_CFG at 0x10000010 is a register that a write only sets, with no further effect. -/
theorem witness_BusAccess_fields :
    let s := withFields [(R.PWR_DOMSTAT_ON, 0xFFFF)]
    (∃ r, regAt 0x10000010 = some r ∧ 8 * 2 ^ (2 : BitVec 2).toNat = r.width ∧ r.fields ≠ []) ∧ regionOf 0x10000010 = .regs ∧
      regAlias 0x10000010 = 0x10000010 ∧ s.domOn (blockDom 0x10000010) = true ∧ s.plain 0x10000010 = true ∧
      (∀ u : State, u.afterSet 0x10000010 = u) ∧
      0x10000010 ∉ [0x100C0060, 0x100E0000, 0x100E0010, 0x10120000, 0x10080034] :=
  ⟨⟨_, rfl, rfl, by decide⟩, by decide, by decide, by decide, by decide, fun _ => rfl, by decide⟩

theorem witness_ReferenceEvents :
    let s := withFields [(R.PWR_DOMSTAT_ON, 0x8403), (R.PHS_CFG_REF, 2), (R.PHS_CFG_WIT, 1), (R.PHS_STAT_SLEWING, 1), (R.SLR_RING_PRESENT, 16)]
    let lost := (s.wr R.PHS_STAT_LOST 1).wr R.PHS_STAT_SHLOST 1
    s.domOn 10 = true ∧ s.rd R.PHS_CFG_REF = 2 ∧ s.rd R.PHS_CFG_WIT = 1 ∧ s.rd R.PHS_STAT_LOST = 0 ∧ s.rd R.PHS_STAT_SHLOST = 0 ∧
      s.rd R.PHS_STAT_SLEWING = 1 ∧ lost.rd R.PHS_STAT_LOST = 1 ∧ lost.rd R.PHS_STAT_SHLOST = 1 ∧ ({} : State).rd R.PHS_STAT_SLEWING = 0 ∧
      s.refFaulty 0 = false ∧ (s.wr R.SLR_RING_BROKEN 1).refFaulty 0 = true ∧ s.refFaulty 1 = true ∧ s.refFaulty 2 = false ∧
      (s.rd R.PHS_CFG_REF ≠ 0 ∨ s.mainsFed = true) ∧ (({} : State).wr R.PHS_CFG_REF 0).rd R.PHS_CFG_REF = 0 ∧
        ({} : State).mainsFed = false ∧
      (s.rd R.PHS_FMAX_F < 0xFFFFFFFF ∧ 0 < s.rd R.PHS_FMIN_F ∧ s.rd R.PHS_FMIN_F ≤ 50000 ∧ 50000 ≤ s.rd R.PHS_FMAX_F) := by decide

theorem witness_ShaftWitnessEvents :
    let s := { withFields [(R.PWR_DOMSTAT_ON, 0x8403), (R.PHS_CFG_SHEN, 1), (R.PHS_SHCFG_IDXCHK, 1), (R.PHS_STAT_SHREF, 1),
      (R.PHS_SHCFG_LINES, 0), (R.PHS_CFG_REF, 2), (R.PHS_CFG_WIT, 0), (R.PHS_STAT_WLOST, 0), (R.SLR_RING_PRESENT, 16)] with
      phs := { shCount := -6 } }
    s.rd R.PHS_CFG_SHEN = 1 ∧ s.rd R.PHS_SHCFG_IDXCHK = 1 ∧ s.rd R.PHS_STAT_SHREF = 1 ∧ s.domOn 10 = true ∧
      4 * (s.rd R.PHS_SHCFG_LINES + 1) + 1 < s.phs.shCount.natAbs ∧ (s.wr R.PHS_SHCFG_IDXCHK 0).rd R.PHS_SHCFG_IDXCHK = 0 ∧
      s.phs.shCount.natAbs + 1 < 4 * ((s.wr R.PHS_SHCFG_LINES 1).rd R.PHS_SHCFG_LINES + 1) ∧
      false = s.on R.PHS_SHCFG_DIRINV ∧ ¬true = s.on R.PHS_SHCFG_DIRINV ∧ s.rd R.PHS_CFG_WIT ≠ 3 ∧ s.rd R.PHS_STAT_WLOST = 0 ∧
      s.rd R.PHS_CFG_REF ≠ s.rd R.PHS_CFG_WIT ∧ (s.wr R.PHS_WTHR_THR 0).rd R.PHS_WTHR_THR < (0x80000000 : Word).toInt.natAbs ∧
      s.refFaulty 0 = false ∧ (s.wr R.PHS_CFG_WIT 3).rd R.PHS_CFG_WIT = 3 ∧ (s.wr R.SLR_RING_BROKEN 1).refFaulty 0 = true ∧
      s.rd R.PHS_STAT_SHLOST = 0 ∧ (s.wr R.PHS_STAT_SHLOST 1).rd R.PHS_STAT_SHLOST = 1 ∧
      ({} : State).rd R.PHS_CFG_SHEN = 0 ∧ (withFields [(R.PHS_STAT_WLOST, 1)]).rd R.PHS_STAT_WLOST = 1 := by decide

theorem witness_PhaseConfigAndSlots :
    let s := withFields [(R.PWR_DOMSTAT_ON, 0x403), (R.PHS_CFG_REF, 0), (R.PHS_PHASE_TURN, 5), (R.PHS_SLOT_WORD 1023 1, 3)]
    s.mode = 0 ∧ (withFields [(R.TSK_STAT_MODE, 2)]).mode ≠ 0 ∧ s.domOn 10 = true ∧ (3 : Word).toNat % 4 ≠ s.rd R.PHS_CFG_REF ∧
      (0x10 : Word).toNat % 4 = s.rd R.PHS_CFG_REF ∧ (1 : Word).toNat % 4 ≠ s.rd R.PHS_CFG_REF ∧ s.refLost ((1 : Word).toNat % 4) = true ∧
      s.refLost ((2 : Word).toNat % 4) = false ∧ (2 : Word).toNat % 4 ≠ s.rd R.PHS_CFG_REF ∧
      s.rd R.PHS_CFG_SHEN = 0 ∧ (0x100000 : Word).getLsbD 20 = true ∧ (1 : Word).getLsbD 0 = true ∧ (2 : Word).getLsbD 0 = false ∧
      (s.rd (R.PHS_SLOT_WORD 1023 1) % 4 = 3 ∧ 2 ^ 31 ≤ ((4 : Word).toNat + 2 ^ 32 - s.rd R.PHS_PHASE_TURN) % 2 ^ 32) ∧
      ¬2 ^ 31 ≤ ((5 : Word).toNat + 2 ^ 32 - s.rd R.PHS_PHASE_TURN) % 2 ^ 32 := by decide

theorem witness_ModeCommands : ∀ m < 3, let s := withFields [(R.TSK_STAT_MODE, m)]
    s.loadBusy = false ∧ s.inGap = false ∧ s.mode = m ∧ s.rd R.SYS_STAT_CLKSRC = 0 ∧
      (s.wr R.SYS_STAT_CLKSRC 1).rd R.SYS_STAT_CLKSRC = 1 ∧ (s.wr R.TSK_STAT_FLT 1).rd R.TSK_STAT_FLT = 1 := by decide

/-- Every domain is on, PHS is configured for 64 cycles on 50 Hz mains, and an image that declares nothing is loaded. -/
def runnable : State :=
  { withFields [(R.PWR_DOMSTAT_ON, 0xFFFF), (R.PHS_CFG_REF, 0), (R.PHS_CFG_WIT, 3), (R.PHS_CFG_N, 64), (R.PHS_FMIN_F, 45000),
      (R.PHS_FMAX_F, 55000), (R.PHS_NETPER_PER, 20000000), (R.PHS_XTALPER_PER, 500000), (R.TSK_CFG_START, 2), (R.NVS_STAT_READY, 1)] with
    img := some {}, pwr := { held := false, starting := true } }

theorem witness_run : runnable.runBlocked = none ∧ runnable.tsk.save = none ∧ runnable.rd R.UPD_STAT_STATE ≠ 5 ∧
    runnable.upd.fallDue = none ∧ runnable.controlDomains = true ∧ runnable.phsOk = true ∧ runnable.taskTableOk = true ∧
    runnable.domOn 4 = true ∧ runnable.loadBusy = false ∧ runnable.inGap = false ∧ runnable.nvsComing = false ∧
    runnable.pwr.held = false ∧ runnable.domOn 1 = true := by decide

theorem witness_settled : runnable.settled ∧ ({} : State).settled := by
  unfold State.settled
  decide

theorem witness_admitted : ∃ led, ∀ u : State, u.regs = runnable.regs → u.img = runnable.img →
    admitImage u ({} : Image).view {} = .inr led := by
  refine ⟨(match admitImage runnable ({} : Image).view {} with | .inr led => led | .inl _ => []), fun u hr _ => ?_⟩
  cases u
  cases hr
  rfl

/-- Admission looks at registers that a firmware switch leaves alone (R414). -/
theorem witness_admittedAfterSwitch : ∃ led, ∀ u : State, u.img = runnable.img →
    OnlyFields [R.UPD_BANK_ACTIVE, R.UPD_BANK_OTHERVALID, R.UPD_VER_VERSION 0, R.UPD_VER_VERSION 1] runnable u →
      admitImage u ({} : Image).view {} = .inr led := by
  refine ⟨(match admitImage runnable ({} : Image).view {} with | .inr led => led | .inl _ => []), fun u _ h => ?_⟩
  have lanes : u.stampLanes = runnable.stampLanes := by
    unfold State.stampLanes
    refine congrArg List.length (List.filter_congr fun sl hs => ?_)
    rw [Bool.eq_iff_iff, List.any_eq_true, List.any_eq_true]
    refine exists_congr fun ch => and_congr_right fun hc => ?_
    rw [h]
    have := List.mem_range.1 hs
    have := List.mem_range.1 hc
    intro g hg
    have hg : 0x10111000 * 64 ≤ g.key := by
      simp only [List.mem_cons, List.not_mem_nil, or_false] at hg
      rcases hg with rfl | rfl | rfl | rfl <;> decide
    refine Nat.ne_of_lt (Nat.lt_of_lt_of_le ?_ hg)
    dsimp only
    omega
  have n : u.rd R.PHS_CFG_N = runnable.rd R.PHS_CFG_N := h _ (by decide)
  have f : u.rd R.PHS_FMAX_F = runnable.rd R.PHS_FMAX_F := h _ (by decide)
  have same : admitImage u ({} : Image).view {} = admitImage runnable ({} : Image).view {} := by
    simp only [admitImage, ledgers, lanes, n, f]
    rfl
  rw [same]
  rfl

theorem witness_CycleEvents :
    let s := { withFields [(R.PWR_DOMSTAT_ON, 0x463), (R.TSK_STAT_MODE, 1), (R.TSK_TASK_CTL_EN 31, 1), (R.TSK_CFG_LENESC, 0),
      (R.FBE_STAT_STATE 0, 1), (R.NVS_STAT_READY, 1)] with
      tsk := { tasks := [(31, { armed := true, running := true })], save := some (1, 2) }, memx := { init := 0 } }
    let l := s.wr (R.TSK_TASK_CTL_LENIENT 31) 1
    let idle := { s with tsk := { tasks := [] } }
    s.deadlineDue 31 = true ∧ (s.task 31).running = true ∧ s.judgedLenient 31 = false ∧ l.judgedLenient 31 = true ∧
      l.rd R.TSK_CFG_LENESC = 0 ∧ (l.wr R.TSK_CFG_LENESC 1).rd R.TSK_CFG_LENESC ≠ 0 ∧
      (l.wr R.TSK_CFG_LENESC 1).rd R.TSK_CFG_LENESC ≤ (l.task 31).streak + 1 ∧ s.deadlineDue 30 = false ∧ s.canaryAside 31 = false ∧
      (s.wr (R.FBE_STAT_STATE 0) 0).canaryAside 31 = true ∧ s.domOn 10 = true ∧ s.rd R.TSK_STAT_STEP = 0 ∧ s.tsk.requests = [] ∧
      s.tsk.entry = .none ∧ s.phs.switchTo = none ∧ s.upd.fallDue = none ∧ s.upd.ended = none ∧ s.rd R.UPD_STAT_STATE ≠ 3 ∧
      s.tsk.save = some (1, 2) ∧ s.tsk.entry = .none ∧ s.loading = .idle ∧ s.upd.gap = none ∧ s.host.erases = [] ∧
      s.pwr.imageDue = false ∧ s.pwr.refillDue = false ∧ s.memx.ecc = [] ∧ s.canonical = true ∧ s.memx.init = 0 ∧
      s.memx.waiting = [] ∧ s.nvsReady = true ∧ s.nvs.due = [] ∧ s.key.bootDue = false ∧ s.upd.setDue = false ∧ s.mode = 1 ∧
      idle.taskEn 31 = true ∧ (idle.task 31).countdown = 0 ∧ (idle.task 31).running = false ∧
      { s with tsk := { entry := .restarting } }.tsk.entry = .restarting ∧ (s.wr R.MEM_STAT_ZEROING 1).rd R.MEM_STAT_ZEROING = 1 ∧
      ({} : State).domOn 10 = false ∧ ({} : State).tsk.save = none := by
  decide

/-- Task 31 has finished its run at its deadline; it owns one output point of the given binding and source. -/
def finished (bind src : Nat) : State :=
  { withFields [(R.PWR_DOMSTAT_ON, 0x463), (R.TSK_STAT_MODE, 1), (R.TSK_TASK_CTL_EN 31, 1)] with
    tsk := { tasks := [(31, { armed := true })], heard := [0x2001] }
    img := some { points := [{ point := 7, ty := 0, flags := 1 + 16 * src, tenant := 0, wkind := 1, who := 31, stale := 0, bind := bind }] } }

theorem witness_CycleEvents_outputs : ∀ c ∈ [(0x1103, 1), (0x2001, 2), (0x2002, 2)], let s := finished c.1 c.2
    s.deadlineDue 31 = true ∧ (s.task 31).running = false ∧ (s.taskOutputs 31).length = 1 ∧
      (∀ p ∈ s.taskOutputs 31, p.src = c.2 ∧ s.forceEntry p.point = none ∧ sget 0 s.tsk.qualWait p.point = 0 ∧
        (s.tsk.heard.contains p.bind = (c.1 == 0x2001))) ∧
      s.memx.ecc = [] ∧ s.ring.commits = [] ∧ { s with img := none }.taskOutputs 31 = [] := by decide

/-- Slice 3 inserts its section, is present, holds a good frame and a burst that has ended; slice 5 is up and not yet joined. -/
def ringed (p : Placed) : State :=
  { withFields [(R.PWR_DOMSTAT_ON, 0xFFFF), (R.SLR_RING_PRESENT, 8), (R.SLR_BURSTBASE_ADDR, 0x100000000),
      (R.TSK_STAT_MODE, 1), (R.MEM_FRONT_ADDR, 0x300000000)] with
    ring := { frame := 1, slices := [(3, { up := true, bootSafe := false, cur := { good := true } }), (5, { up := true })]
              ended := [{ chan := 7, count := 1, done := 1, status := 0, time := 0, main := 0, shaft := 0, ofs := 0, first := 0 }] }
    phs := { placed := [p] } }

theorem witness_RingEvents :
    let s := ringed ⟨0, 0, 0, 1, 0x67, 0⟩
    s.domOn 10 = true ∧ s.domOn 15 = true ∧ s.ring.corrupt = false ∧ { s with ring := { corrupt := true } }.ring.corrupt = true ∧
      0 < s.ring.frame ∧ (0x28 : BitVec 6).getLsbD 3 = true ∧ (0x28 : BitVec 6).getLsbD (4 + 1) = true ∧ s.sliceUp 3 = true ∧
      s.sliceUp (4 + 1) = true ∧ (s.sliceOf 3).sample.chan < 8 ∧ ([5] : List Word)[0]? = some 5 ∧ s.rd R.SLR_RING_BROKEN = 0 ∧
      s.present 3 = true ∧ s.present 2 = false ∧ s.present 5 = false ∧ ({} : State).domOn 10 = false ∧
      (withFields [(R.SLR_RING_BROKEN, 1)]).rd R.SLR_RING_BROKEN = 1 := by decide

theorem witness_RingEvents_actions :
    let s := ringed ⟨0, 0, 0, 1, 0x67, 0⟩
    let bad := { s with ring := { slices := [(3, { up := true })] } }
    (0x67 / 32 < 4 ∧ 0x67 % 32 < 8) ∧ (0x70 / 32 < 4 ∧ 0x70 % 32 = 16) ∧ 0xE0 / 32 = 7 ∧ s.phs.placed ≠ [] ∧ ({} : State).phs.placed = [] ∧
      (s.sliceOf 3).up = true ∧ (s.sliceOf 3).cur.good = true ∧ (bad.sliceOf 3).up = true ∧ (bad.sliceOf 3).cur.good = false ∧
      (s.sliceOf 3).safe = false ∧ s.suppressDo = false ∧ bitOf (s.sliceOf 3).cur.forced 7 = false ∧ s.isPwm 3 7 = false ∧
      (s.ring.ended.find? fun b => b.chan == 7).isSome = true ∧ (s.ring.ended.find? fun b => b.chan == 6) = none ∧ s.memx.ecc = [] ∧
      s.burstAddr 7 + 64 ≤ 0x2FFE00000 ∧ 0x100000000 ≤ s.burstAddr 7 ∧ s.burstAddr 7 + 64 ≤ s.rd R.MEM_FRONT_ADDR := by decide

/-- A slice with its frame in effect good, and channel 3 of its DO commanded on. -/
def onSlice : SliceState := { up := true, bootSafe := false, goodRun := 40, cur := { good := true, levels := 8, commit := 8 } }

/-- Slice 0 with a full stamp FIFO; slice 1 ready to leave safe state; slice 2 in effect; no other is up. -/
def sliced : State :=
  { withFields [(R.PWR_DOMSTAT_ON, 0xFFFF), (R.SLR_DOCFG_MODE 2 7, 1), (R.SLR_DICFG_STAMP 0 11, 3), (R.SLR_DICFG_STAMP 2 11, 3)] with
    ring := { slices := [(0, { onSlice with fifo := List.replicate 64 ⟨0, 0, 0, 0, 0⟩ }), (1, { onSlice with bootSafe := true }), (2, onSlice)] } }

theorem witness_SliceEvents :
    let s := sliced
    let v := s.sliceOf 2
    (s.sliceOf 4).up = false ∧ v.up = true ∧ v.safe = false ∧ v.cur.good = true ∧ v.counts.length = 12 ∧ v.onTime.length = 8 ∧
      bitOf v.di 11 ≠ true ∧ bitOf v.di 11 = false ∧ (s.domOn 10 && s.domOn (sliceDom 5)) = true ∧
      (({} : State).domOn 10 && ({} : State).domOn (sliceDom 0)) = false ∧ s.isPwm 2 7 = true ∧ s.isPwm 2 6 = false ∧
      (s.sliceOf 4).safe = true ∧ (s.sliceOf 1).safe = true ∧ (s.sliceOf 1).cur.good = true ∧ (s.sliceOf 1).goodRun = 40 ∧
      (s.sliceOf 4).cur.good = false ∧ stampsEdge (s.rd (R.SLR_DICFG_STAMP 2 11)) true = true ∧
      stampsEdge (s.rd (R.SLR_DICFG_STAMP 2 0)) true = false ∧ v.fifo.length < 64 ∧ 64 ≤ (s.sliceOf 0).fifo.length ∧
      v.switching = false ∧ v.known = false ∧
      (let u : State := { s with ring := { slices := [(1, { switching := true, known := true, tripped := true }), (5, { switching := true })] } }
       (u.sliceOf 1).switching = true ∧ (u.sliceOf 1).up = false ∧ (u.sliceOf 1).known = true ∧ (u.sliceOf 5).switching = true) := by decide

theorem witness_OutputConditionEvents :
    let s := (sliced.wr (R.SLR_DOCFG_THERM 2 0) 1).wr (R.SLR_DOCFG_OLDET 2 3) 1
    let t := { s with ring := { slices := [(2, { onSlice with levels := 8 })] } }
    (s.sliceOf 2).up = true ∧ (s.sliceOf 4).up = false ∧ (s.sliceOf 2).fsMissing = false ∧ bitOf (s.sliceOf 2).latched 7 = false ∧
      bitOf (s.sliceOf 2).thermal 7 = false ∧ s.rd (R.SLR_DOCFG_THERM 2 0) = 1 ∧ s.rd (R.SLR_DOCFG_THERM 2 7) = 0 ∧
      s.rd (R.SLR_DOCFG_OLDET 2 3) = 1 ∧ t.doOn 2 3 = true := by
  decide

theorem witness_MeteringEvents :
    let d : FeederState := { nc := 1, noLoad := [false, false, true], locked := true, blockCycles := 10, holdover := true, gapClk := some 0 }
    let u : FeederState := { goodCycles := 50 }
    let s := { withFields [(R.PWR_DOMSTAT_ON, 0xFFFF), (R.MET_STAT_PUBF, 1), (R.MET_PENDING_PENDING 7, 1), (R.MET_PCFG_W_DO 7, 32),
      (R.MET_PCFG_WT_WT 7, 1), (R.MET_PCFG_EN 7, 1)] with ring := { slices := [(5, { up := true }), (4, { up := true })] }
                                                          met := { feeders := [(1, d), (0, u)] } }
    s.metering 1 = true ∧ s.metering 0 = true ∧ ({} : State).metering 0 = false ∧ (s.feeder 1).locked = true ∧ (s.feeder 0).locked = false ∧
      (s.feeder 0).goodCycles = 50 ∧ ({} : FeederState).goodCycles ≠ 50 ∧ (0 < d.nc ∧ d.nc ≤ 640) ∧
      (∀ k < 3, d.nc ≤ (d.winP.getD k []).length + 1 ∧ d.nc ≤ (d.winQ.getD k []).length + 1) ∧ d.noLoad.getD 0 true = false ∧
      d.noLoad.getD 2 true = true ∧ (if d.calOf (R.MET_FCFG_NOM 1) = 1 then 12 else 10) ≤ d.blockCycles ∧
      ¬(if u.calOf (R.MET_FCFG_NOM 0) = 1 then 12 else 10) ≤ u.blockCycles ∧ (41999 : Word).toNat < 42000 ∧
      s.pulseReady 0 = false ∧ s.pulseReady 7 = true ∧ groupAt [⟨0, 1, 1, 1, -1⟩] 0 1 = some ⟨0, 1, 1, 1, -1⟩ := by decide

theorem witness_LoopEngineEvents :
    let l : LoopState := { own := true, en := true }
    let s := withFields [(R.PWR_DOMSTAT_ON, 0x433), (R.LPE_LDECL_WORD 255 3, 2 * 2 ^ 16), (R.LPE_CADDR_INDEX, 79), (R.TSK_STAT_MODE, 0)]
    l.swap = none ∧ l.slew = none ∧ l.ownReq = false ∧ l.own = true ∧ s.domOn 4 = true ∧ s.mode = 0 ∧ s.rd R.LPE_CADDR_INDEX < 80 ∧
      80 ≤ (withFields [(R.LPE_CADDR_INDEX, 80)]).rd R.LPE_CADDR_INDEX ∧ ({} : State).domOn 4 = false ∧
      (withFields [(R.TSK_STAT_MODE, 1)]).heldValue 0 = none ∧ (withFields [(R.TSK_STAT_MODE, 1)]).mode ≠ 0 := by decide

/-- A fresh loop on zeros is sound; a NaN input is not. -/
theorem witness_LoopEngineEvents_sound :
    let s := withFields [(R.TSK_STAT_MODE, 1)]
    let l : LoopState := { own := true, en := true }
    let c := cascade (s.coef 0 l.actb) l.s1 l.s2 (List.range (s.nsec 0)) (f32.sub l.spw l.pv)
    (fin l.pv && fin l.spw && fin (f32.sub l.spw l.pv) && c.ok && fin c.raw && fin (l.lim c.raw)) = true ∧
      fin 0x7FC00000 = false := by decide

/-- Loops 0 and 1 make up handover group 1; loop 0 owns the destination and the swap of each is asked for. -/
def grouped : State :=
  { withFields [(R.TSK_STAT_MODE, 1), (R.LPE_LDECL_CL_CLAIMED 0, 1), (R.LPE_LDECL_CL_CLAIMED 1, 1), (R.LPE_LDECL_WORD 0 3, 2 ^ 16),
      (R.LPE_LDECL_WORD 1 3, 2 ^ 16), (R.LPE_LDECL_WORD 1 1, 2 ^ 29)] with
    lpe := { loops := [(0, { own := true, en := true, out := 0x3F800000, slew := some 0 }), (1, { en := true, ownReq := true, swap := some true })] } }

theorem witness_LoopEngineEvents_handover :
    let s := grouped
    let old := s.loop 0
    let new := s.loop 1
    (new.own = false ∧ new.ownReq = true ∧ 0 ∈ s.claimed ∧ s.groupOf 1 ≠ 0 ∧ s.groupOf 0 = s.groupOf 1 ∧ old.own = true) ∧
      (∀ k ∈ s.claimed, k ≠ 1 → s.groupOf k = s.groupOf 1 → (s.loop k).own = true → k = 0) ∧ s.groupOf 2 = 0 ∧ s.heldValue 1 = none ∧
      new.swap = some true ∧ (s.enabledSample 1 new).rd R.LPE_STAT_NAN = 0 ∧
        (s.enabledSample 1 { new with pv := 0x7FC00000 }).rd R.LPE_STAT_NAN = 1 ∧
      (s.loop 2).en = false ∧ (s.loop 2).own = false ∧ old.slew.isSome = true ∧ (0x80000000 / 2 ^ 28 = 8) := by decide +kernel

theorem witness_MemoryIntegrity :
    let s := { withFields [(R.PWR_DOMSTAT_ON, 0xFFFF), (R.MEM_STAT_ZEROING, 1), (R.MEM_FRONT_ADDR, 0x180000000)] with
      memx := { init := 2, waiting := [⟨6, 8, 0x180000000, some 1⟩] } }
    let w := { s with memx := { init := 0 } }.wr R.MEM_STAT_INITDONE 1
    s.domOn 5 = true ∧ isSram 0x7FFFFF = true ∧ isDram 0x2FFFFFFFF = true ∧ s.memx.ecc = [] ∧ ({} : State).domOn 5 = false ∧
      (s.rd R.MEM_STAT_ZEROING = 1 ∧ s.rd R.MEM_FRONT_ADDR ≤ 0x180000040 / 64 * 64 ∧ 0x180000040 ≤ 0x300000000) ∧
      (0x180000000 + 8 ≤ 0x180000040 ∧ regionOf 0x180000000 = .dramProg) ∧ (0x180000000 < 0x180000000 + 8) ∧
      s.memx.retiring = none ∧ s.inGap = false ∧ isDram 0x2FFDFFFFF = true ∧ regionOf 0x2FFDFFFFF ≠ .spare ∧
      regionOf 0x2FFE00000 = .spare ∧ s.rd (R.MEM_REMAP_VALID 0) = 0 ∧ s.rd (R.MEM_REMAP_BAD 0) = 0 ∧ s.mode ≠ 1 ∧
      s.rd (R.MEM_BANKMAP_VALID 0) = 0 ∧ s.memx.init = 2 ∧ ({} : State).memx.init = 1 ∧ w.memx.waiting = [] ∧
      s.scrubs 0x7FFFFF = true ∧ w.scrubs 0x17FFFFFFF = true ∧ s.rd R.MEM_STAT_INITDONE = 0 ∧ w.rd R.MEM_FRONT_ADDR ≤ 0x180000000 ∧
      ({} : State).scrubs 0x7FFFFF = false ∧ cwBits (cwBase (s.logical 0x7FFFFF)) = 39 ∧ cwBits (cwBase (w.logical 0x17FFFFFFF)) = 72 := by
  decide

/-- The pools are used up, an SRAM bank and a DRAM page are retiring, and the controller runs. -/
theorem witness_MemoryIntegrity_retire :
    let s := withFields ([(R.PWR_DOMSTAT_ON, 0xFFFF), (R.TSK_STAT_MODE, 1), (R.MEM_REMAP_BAD 511, 1)] ++
      ((List.range 4).map fun n => (R.MEM_BANKMAP_VALID n, 1)))
    let r := fun u => { s with memx := { retiring := some u } }
    { s with upd := { gap := some aGap } }.inGap = true ∧ s.mode = 1 ∧ (∀ n < 4, s.rd (R.MEM_BANKMAP_VALID n) = 1) ∧
      (r (true, 544, 3)).memx.retiring ≠ none ∧ 3 < 4 ∧ 511 < 512 ∧
      regionOf (0x2FFE00000 + 4096 * 511) = .spare ∧ s.rd (R.MEM_REMAP_BAD ((0x2FFE00000 + 4096 * 511 - 0x2FFE00000) / 4096)) = 1 ∧
      (r (false, 2 ^ 20, 511)).memx.retiring = some (false, 2 ^ 20, 511) ∧
      ((0x20100000000 : DWord).getLsbD 41 = true ∧ (0x100000000 : DWord).getLsbD 41 = false) := by decide

/-- A field set in every entry of a table reads as 1. -/
theorem sget_map_one (d : Nat) (key : Nat → Nat) (n : Nat) (l : List Nat) (h : n ∈ l) :
    sget d (l.map fun i => (key i, 1)) (key n) = 1 := by
  induction l with
  | nil => cases h
  | cons a t ih =>
    simp only [List.map_cons, sget_cons]
    split
    · rfl
    · exact ih ((List.mem_cons.1 h).resolve_left fun e => by simp_all)

theorem witness_MemoryIntegrity_full :
    let s : State := { regs := (List.range 512).map fun n => ((R.MEM_REMAP_VALID n).key, 1) }
    ∀ n < 512, ¬(s.rd (R.MEM_REMAP_VALID n) = 0 ∧ s.rd (R.MEM_REMAP_BAD n) = 0) := fun n h => by
  have : ({ regs := (List.range 512).map fun n => ((R.MEM_REMAP_VALID n).key, 1) } : State).rd (R.MEM_REMAP_VALID n) = 1 := by
    rw [State.rd, sget_map_one _ (fun n => (R.MEM_REMAP_VALID n).key) n _ (List.mem_range.2 h)]
    rfl
  omega

/-- NVS is on, ready and free, with a command's registers set for the last block. -/
def storing : State :=
  withFields [(R.PWR_DOMSTAT_ON, 0xFFFF), (R.NVS_STAT_READY, 1), (R.NVS_LBA_LBA, 0x1FFFFF), (R.NVS_COUNT_COUNT, 1),
    (R.NVS_ADDR_ADDR, 0x17FFFF000), (R.MEM_FRONT_ADDR, 0x180000000)]

theorem witness_FlashStore :
    let s := storing
    s.domOn 6 = true ∧ s.rd R.NVS_STAT_BUSY = 0 ∧ s.rd R.NVS_STAT_READY = 1 ∧ (s.rd R.NVS_STAT_SAVE = 0 ∧ s.rd R.NVS_STAT_SEAL = 0) ∧
      (blocksOk 0 1 = true ∨ blocksOk (s.rd R.NVS_LBA_LBA) 1 = true) ∧ blocksOk 0 0 = false ∧ s.rd R.NVS_ADDR_ADDR % 64 = 0 ∧
      supBuffer (s.rd R.NVS_ADDR_ADDR) 4096 = true ∧ supBuffer 0x17FFFF001 4096 = false ∧ 0x17FFFF001 % 64 ≠ 0 ∧
      s.rd R.NVS_ADDR_ADDR + 4096 ≤ s.rd R.MEM_FRONT_ADDR ∧ s.canonical = true ∧ s.memx.ecc = [] ∧ s.nvs.unreadable = [] ∧
        s.tallyWaits = false ∧
      s.rd R.NVS_STAT_PFWORDER = 0 ∧ ({} : State).domOn 6 = false ∧ ({} : State).nvs.cmd = none ∧ s.rd R.NVS_STAT_HEALTHLOW ≠ b2n true := by
  decide

theorem witness_FlashStore_waits :
    let s := storing
    let c : NvsCmd := ⟨2, 0, 1, 0x100000000, [], none⟩
    let w := (s.wr R.NVS_STAT_SAVE 1).wr R.NVS_STAT_PFWORDER 1
    let u := { s.wr R.NVS_STAT_READY 0 with nvs := { due := [.put 0 [1]] } }
    let v := { u with nvs := { due := [.put 0 [1], .trim 0 1] } }
    (w.rd R.NVS_STAT_SAVE = 1 ∧ (s.wr R.NVS_STAT_SEAL 1).rd R.NVS_STAT_SEAL = 1 ∧ w.rd R.NVS_STAT_PFWORDER = 1) ∧
      (s.wr R.MEM_FRONT_ADDR 0x17FFFF000).rd R.MEM_FRONT_ADDR < s.rd R.NVS_ADDR_ADDR + 4096 ∧ w.nvsWaits c = true ∧
      (s.wr R.NVS_STAT_BUSY 1).rd R.NVS_STAT_BUSY = 1 ∧ { s with nvs := { cmd := some c } }.nvs.cmd = some c ∧ c.status = none ∧
      u.rd R.NVS_STAT_READY = 0 ∧ u.domOn 6 = true ∧ u.tsk.save = none ∧ u.nvs.due = [.put 0 [1]] ∧
      v.nvs.due = [.put 0 [1], .trim 0 1] ∧ u.nvs.worn = [] ∧ (u.tsk.entry = .none ∧ u.loading = .idle ∧ u.upd.gap = none ∧
        u.key.bootDue = false ∧ u.upd.setDue = false ∧ u.host.erases = [] ∧ u.pwr.imageDue = false ∧ u.pwr.refillDue = false) ∧
      u.tallyWaits = false ∧ { s with tly := { events := [⟨1, [], 0⟩] } }.tallyWaits = true ∧ (u.rd R.NVS_STAT_SAVE = 0 ∧
        u.rd R.NVS_STAT_SEAL = 0) ∧
      u.rd R.NVS_STAT_PFWORDER = 0 := by decide

/-- Port A and port B of the switch are up, port A sends pauses, and the level for XOFF is 0. -/
def linked : State :=
  withFields [(R.PWR_DOMSTAT_ON, 0xFFFF), (R.NET_PORTCFG_EN 0, 1), (R.NET_PORTCFG_EN 1, 1), (State.linkFld 0, 1), (State.linkFld 1, 1),
    (R.NET_PORTCFG_TXPAUSE 0, 1), (R.NET_PORTCFG_RXPAUSE 0, 1), (R.NET_PAUSECFG_XOFF, 0), (R.NET_PAUSECFG_XON, 0)]

/-- A frame of 64 bytes with a good FCS, from 02:00:00:00:00:01 to a group address. -/
def goodFrame : List Byte := withFcs ([1, 0, 0, 0, 0, 9, 2, 0, 0, 0, 0, 1, 0x88, 0xB5] ++ zeros 46)

theorem witness_frame : frameGood goodFrame false false = true ∧ fcsGood goodFrame = true ∧ isPause goodFrame = false ∧
    groupAddr (dstAddr goodFrame) = true ∧ dstAddr goodFrame ≠ srcAddr goodFrame ∧ goodFrame.length = 64 ∧ ptpEvent goodFrame = none ∧
    linked.vlanOk goodFrame = true := by decide +kernel

theorem witness_badFrame : frameGood (zeros 6 ++ [1] ++ zeros 57) false false = false ∧
    dstAddr (zeros 6 ++ [1] ++ zeros 57) ≠ srcAddr (zeros 6 ++ [1] ++ zeros 57) ∧ (zeros 6 ++ [1] ++ zeros 57).length = 64 ∧
    ptpEvent (zeros 6 ++ [1] ++ zeros 57) = none := by decide +kernel

theorem witness_SwitchEvents :
    let s := { linked with net := { fifo := [⟨goodFrame, 0, false, false, 0, 0⟩], table := [⟨5, 1, 0⟩] }, clk := 400000000 }
    s.portUp 0 = true ∧ s.portUp 1 = true ∧ ({} : State).portUp 0 = false ∧ s.rd (State.holdFld 1) = 0 ∧ s.net.held = [] ∧
      (s.wr R.NET_SWCFG_CUT 0).rd R.NET_SWCFG_CUT = 0 ∧ (s.wr R.NET_SWCFG_CUT 1).rd R.NET_SWCFG_CUT = 1 ∧
      s.portSpeed 0 = s.portSpeed 1 ∧ fcsGood [1, 0, 0, 0] = false ∧ bitOf (0 : BitVec 2).toNat 1 = false ∧
      (s.net.table.find? fun e => e.addr == 5) = some ⟨5, 1, 0⟩ ∧ (s.net.table.find? fun e => e.addr == 6) = none ∧
      (s.wr R.NET_SWAGE_SEC 1).net.table.any (fun e => e.addr == 5 && decide (e.seen + max 1 1 * 400000000 ≤ s.clk)) = true ∧
      (s.net.table.any fun e => e.addr == 6) = false ∧ s.rd (R.NET_PORTCFG_RXPAUSE 0) = 1 ∧ s.rd (R.NET_PORTCFG_RXPAUSE 1) = 0 ∧
      bitOf ((s.wr (R.NET_PORTCFG_ADV 0) 1).rd (R.NET_PORTCFG_ADV 0)) 0 = true ∧ (s.wr (State.linkFld 0) 0).rd (State.linkFld 0) = 0 ∧
      (s.net.fifo.map fun g => g.bytes.length).sum + 64 ≤ 32768 := by decide +kernel

theorem witness_SwitchEvents_pause :
    let s := { linked with net := { fifo := [⟨[0], 0, false, false, 0, 0⟩] } }
    s.rd R.NET_STAT_XOFF = 0 ∧ (s.wr R.NET_STAT_XOFF 1).rd R.NET_STAT_XOFF = 1 ∧ s.rd (R.NET_PORTCFG_TXPAUSE 0) = 1 ∧
      (s.on (R.NET_PORTCFG_TXPAUSE 0) && s.portUp 0) = true ∧
      1024 * s.rd R.NET_PAUSECFG_XOFF < (s.net.fifo.map fun g => g.bytes.length).sum ∧
      1024 * s.rd R.NET_PAUSECFG_XON < (s.net.fifo.map fun g => g.bytes.length).sum ∧
      ¬1024 * s.rd R.NET_PAUSECFG_XON < (linked.net.fifo.map fun g => g.bytes.length).sum ∧ ({} : State).rd (State.linkFld 1) = 0 ∧
      (withFields [(State.holdFld 1, 1)]).rd (State.holdFld 1) = 1 := by decide

/-- Ring 0 and ring 4 live at the foot of DRAM with one descriptor of 64 bytes each that the MAC owns. -/
def ringMem : State :=
  { withFields [(R.PWR_DOMSTAT_ON, 0xFFFF), (R.NET_RING_CTL_EN 0, 1), (R.NET_RING_BASE_BASE 0, 0x100000000), (R.NET_RING_SIZE_SIZE 0, 8),
      (R.NET_RING_CTL_EN 4, 1), (R.NET_RING_BASE_BASE 4, 0x100000100), (R.NET_RING_SIZE_SIZE 4, 8), (R.MEM_FRONT_ADDR, 0x180000000)] with
    mem := memOf [(0x100000000, 0x1000), (0x100000004, 1), (0x100000008, 64 + 0xE000 * 65536), (0x100000100, 0x2000), (0x100000104, 1),
      (0x100000108, 64 + 0x8000 * 65536)]
    net := { fifo := [⟨goodFrame, 0, false, false, 0, 0⟩] } }

theorem witness_MacEvents_send :
    let s := ringMem
    let a := s.descAddr 0 (s.rd (R.NET_RING_HEAD_HEAD 0))
    let buf := s.peek a 5
    let len := s.peek (a + 8) 2 % 16384
    s.domOn 7 = true ∧ s.domOn 5 = true ∧ s.memx.ecc = [] ∧ s.net.tx = none ∧ (∀ q < 4, q ≠ 0 → s.rd (R.NET_RING_CTL_EN q) = 0) ∧
      s.ringLive 0 = true ∧ s.ringOk 0 = true ∧ a + 32 ≤ s.rd R.MEM_FRONT_ADDR ∧ buf + len ≤ s.rd R.MEM_FRONT_ADDR ∧
      inSup buf len = true ∧ s.peek (a + 10) 2 / 2 ^ 13 = 7 ∧ len + 4 ≤ maxFrame (s.bytes buf len) ∧
      (∀ q < 4, ({} : State).rd (R.NET_RING_CTL_EN q) = 0) := by decide

theorem witness_MacEvents_end :
    let f : TxFrame := ⟨0, 0, 1, 1, true, 0, zeros 60, false⟩
    let s := { linked with net := { tx := some f } }.wr (R.NET_RING_BASE_BASE 0) 0x100000000 |>.wr R.NET_TXTHR_BYTES 59
    s.net.tx = some f ∧ s.ringOk 0 = true ∧ s.domOn 7 = true ∧ s.domOn 5 = true ∧ s.memx.ecc = [] ∧
      (∀ q < 4, s.rd (R.NET_RING_CTL_EN q) = 0) ∧ s.rd R.NET_TXTHR_BYTES < f.bytes.length ∧ s.portUp 0 = true ∧ s.net.held = [] ∧
      60 ≤ f.bytes.length ∧ f.bytes.length ≤ 9018 ∧ s.rd R.NET_STAT_HOLDA = 0 ∧ s.net.stamps.length < 32 ∧
      (s.wr R.NET_STAT_HOLDA 1).rd R.NET_STAT_HOLDA = 1 ∧ bitOf (0 : BitVec 2).toNat 0 = false := by decide

theorem witness_MacEvents_receive :
    let s := ringMem
    let a := s.descAddr 4 (s.rd (R.NET_RING_HEAD_HEAD 4))
    let buf := s.peek a 5
    let len := s.peek (a + 8) 2 % 16384
    s.net.fifo ≠ [] ∧ s.wakeHits goodFrame = [] ∧ isPtp goodFrame = false ∧ s.ringLive 4 = true ∧ s.ringOk 4 = true ∧
      a + 32 ≤ s.rd R.MEM_FRONT_ADDR ∧ buf + len ≤ s.rd R.MEM_FRONT_ADDR ∧ inSup buf len = true ∧ bitOf (s.peek (a + 10) 2) 15 = true ∧
      64 ≤ len ∧ a + 32 ≤ buf ∧ linked.ringLive 4 = false ∧ linked.rd R.NET_RXCFG_KEEPBAD = 0 ∧ ({} : State).domOn 7 = false := by decide

/-- An owner's session on the adit and a tenant's in session 0; the owner's and the pre-shared key's slots are held. -/
def hosted : State :=
  { withFields [(R.PWR_DOMSTAT_ON, 0xFFFF), (R.KEY_SLOT_ATTR 1, 4), (R.KEY_SLOT_ATTR 5, 4), (R.KEY_SLOT_ATTR 6, 3), (R.KEY_TENEN_EN, 1),
      (R.PWR_STAT_PIT, 0), (R.TSK_FORCE_CTL_EN 0, 1)] with
    host := { sessions := [(0, 2)] } }

/-- A reply that waits on port 0. -/
def waiting : OwedReply := ⟨⟨0, 1, 0, 0, []⟩, true⟩

theorem witness_HostSessions :
    let s := hosted
    let w := fun n => { s with host := { s.host with owed := List.replicate n waiting } }
    (s.domOn 7 && s.domOn 5 && s.domOn 9 && !s.on R.PWR_STAT_SLEEP && s.pskReady) = true ∧ s.identityScope (asciiOf "own") = some 1 ∧
      s.identityScope (asciiOf "t01") = some 2 ∧ s.pskOf 2 ≠ some [] ∧ s.identityScope (asciiOf "t65") = none ∧
      s.scope 0 ≠ 0 ∧ s.scope 1 = 0 ∧ s.scope 8 ≠ 0 ∧ s.scope 0 ≠ 1 ∧ s.rd R.PWR_STAT_SLEEP = 0 ∧ s.rd R.PWR_STAT_PIT = 0 ∧
      s.nvs.notReady = false ∧ (s.wr R.PWR_STAT_PIT 1).rd R.PWR_STAT_PIT = 1 ∧ (s.wr R.PWR_STAT_SLEEP 1).rd R.PWR_STAT_SLEEP = 1 ∧
      { s with nvs := { notReady := true } }.nvs.notReady = true ∧ s.owedTo 0 = [] ∧ (w 1).owedTo 0 ≠ [] ∧
      ((w 15).owedTo 0).length < 16 ∧ 16 ≤ ((w 16).owedTo 0).length ∧ (w 16).scope 0 ≠ 0 := by
  decide +kernel

theorem witness_HostSessions_psk : ∃ psk, hosted.pskOf 1 = some psk := ⟨_, rfl⟩

theorem witness_HostSessions_full :
    let s : State := { host := { sessions := (List.range 8).map fun i => (i, 1) } }
    (∀ i < 8, s.scope i ≠ 0) ∧ 1048576 < 16 + (List.replicate 1048561 (0 : Byte)).length ∧
      16 + (List.replicate 1048560 (0 : Byte)).length ≤ 1048576 :=
  ⟨by decide, Nat.lt_of_lt_of_eq (by decide : 1048576 < 16 + 1048561) (congrArg (16 + ·) List.length_replicate.symm),
    Nat.le_of_eq (congrArg (16 + ·) List.length_replicate)⟩

theorem witness_HostRequests :
    let s := hosted
    s.scope 8 = 1 ∧ s.scope 0 = 2 ∧ s.rd R.PWR_STAT_SLEEP = 0 ∧ s.rd R.PWR_STAT_PIT = 0 ∧ s.nvs.notReady = false ∧
      s.owedTo 8 = [] ∧ { s with host := { owed := [⟨⟨8, 1, 0, 0, []⟩, true⟩] } }.owedTo 8 ≠ [] ∧ s.host.runAsk = none ∧
      s.memx.ecc = [] ∧ (s.nvs.unreadable = [] ∧ s.nvs.worn = []) ∧ s.entering = false ∧
        { s with tsk := { entry := .ready } }.entering = true ∧
      { s with tsk := { entry := .ready } }.mode = 0 ∧ (s.nvsFree = false ∧ ({ s.wr R.NVS_STAT_READY 1 with tsk := {} }).nvsFree = true) ∧
      readLE s.mem (pointAddr 4095 + 10) 1 ≠ s.scope 0 - 1 ∧
      readLE (memOf [(pointAddr 4095 + 8, 0x10000)]) (pointAddr 4095 + 10) 1 = s.scope 0 - 1 ∧ s.hostPoint 0 = false ∧
      ({ img := some { points := [{ point := 7, ty := 3, flags := 0, tenant := 0, wkind := 3, who := 0, stale := 0, bind := 0 }] } }
        : State).hostPoint 7 = true ∧
      s.forceEntry 5 = none ∧ s.rd (R.TSK_FORCE_CTL_EN 0) = 1 ∧ s.rd (R.TSK_FORCE_CTL_EN 1) = 0 ∧ s.mode = 0 ∧ s.inGap = false ∧
      s.loadBusy = false ∧ s.tsk.entry = .none ∧ s.loading = .idle ∧ (s.wr R.TSK_STAT_MODE 1).mode ≠ 0 ∧
      { s with loading := .receiving [] }.loading = .receiving [] := by decide

/-- Every entry of the force table is in use, for point 0. -/
def forcing : State := { regs := (List.range 256).map fun n => ((R.TSK_FORCE_CTL_EN n).key, 1) }

theorem forcing_point (n : Nat) : forcing.rd (R.TSK_FORCE_CTL_POINT n) = 0 := by
  rw [State.rd, forcing, sget_absent]
  · rfl
  · intro c hc
    obtain ⟨i, -, rfl⟩ := List.mem_map.1 hc
    show (0x10032000 + 0x20 * i) * 64 + 15 ≠ (0x10032000 + 0x20 * n) * 64 + 0
    omega

theorem witness_HostRequests_forces : (∀ n < 256, forcing.rd (R.TSK_FORCE_CTL_EN n) = 1) ∧ forcing.forceEntry 5 = none := by
  refine ⟨fun n h => ?_, ?_⟩
  · rw [State.rd, forcing, sget_map_one _ (fun n => (R.TSK_FORCE_CTL_EN n).key) n _ (List.mem_range.2 h)]
    rfl
  · rw [State.forceEntry, List.find?_eq_none.2, Option.map_none]
    intro x hx
    rw [State.forces, List.mem_filterMap] at hx
    obtain ⟨c, -, hc⟩ := hx
    split at hc <;> cases hc
    rw [forcing_point]
    simp

/-- A worn block in the slot that is not active: the slot does not take an image. -/
theorem witness_HostRequests_slot :
    let s := { runnable with nvs := { worn := [progBase (runnable.freeSlot) / 4096] } }
    s.slotTakes [1] = false ∧ runnable.slotTakes [1] = true ∧ (s.tsk.save = none ∧ s.nvsFree = true) := by decide +kernel

/-- A RUN request waits for a save, and its reply with it. -/
theorem witness_HostRequests_run :
    let s := { runnable with tsk := { save := some (0, 1) } }
    s.runBlocked = none ∧ s.tsk.save.isSome = true ∧ s.host.runAsk = none := by decide

theorem witness_HostRequests_checks : (match loadChecks {} [] with
    | .inl _ => true
    | .inr _ => false) = true := by decide

/-- A section table entry with target 0. -/
def sectionEntry (ty off len : Nat) : List Byte := toLE 4 ty ++ toLE 4 off ++ toLE 4 len ++ zeros 12

/-- The smallest image: empty sections, a TASKS section with no enabled task and an EVSUB section of zeros. -/
def bareImage : List Byte :=
  toLE 4 0x49505A4F ++ toLE 2 1 ++ toLE 2 1 ++ zeros 8 ++ toLE 4 2408 ++ toLE 4 7 ++ toBE 8 0xE3B0C44298FC1C14 ++
    toBE 32 0xE44B7D3178F7F38662800D68D13CD99BCD4B0FF343EF35A7848287248969F907 ++ zeros 64 ++
    sectionEntry 1 296 0 ++ sectionEntry 2 296 0 ++ sectionEntry 3 296 0 ++ sectionEntry 4 296 0 ++ sectionEntry 6 296 2048 ++
    sectionEntry 7 2344 0 ++ sectionEntry 12 2344 64 ++ zeros 2112

set_option maxRecDepth 100000 in
theorem witness_HostRequests_loads : (match loadChecks runnable bareImage with
    | .inl _ => false
    | .inr _ => true) = true := by decide +kernel

/-- Channel 3 is on its bus, its ring takes an entry, and it sends buffer 0 while buffer 2 waits. -/
def onBus3 : State :=
  { withFields [(R.PWR_DOMSTAT_ON, 0xFFFF), (R.FBS_CFG_EN 3, 1), (R.FBS_STAT_STATE 3, 1), (R.FBS_RXBASE_ADDR 3, 0x17FFFFFB0),
      (R.FBS_TXB_STAT_STATE 3 2, 1), (R.MEM_FRONT_ADDR, 0x180000000)] with fbs := [(3, { copies := [(2, { id := 5 })] })] }

theorem witness_FieldbusEvents :
    let s := onBus3
    let sending := { s with fbs := [(3, { tx := some (2, 9) })] }
    s.onBus 3 = true ∧ s.onBus 0 = false ∧ s.domOn 8 = true ∧ s.rd (R.FBS_CFG_EN 0) = 0 ∧ s.selectBuf 3 = some 2 ∧
      (s.chan 3).listen = false ∧ (s.chan 3).tx = none ∧ s.selectBuf 0 = none ∧ (sending.chan 3).tx = some (2, 9) ∧
      (sending.chan 3).selfrx = false ∧ s.sending 3 2 = false ∧ sending.sending 3 2 = true ∧ s.bufState 3 2 = 1 ∧ s.bufState 3 0 ≠ 1 ∧
      ((s.txCopy 3 0).fdf && !(s.chan 3).fd) = false ∧
      (((s.wr (R.FBS_TXB_CTL_FDF 3 0) 1).txCopy 3 0).fdf && !(s.chan 3).fd) = true ∧
        (s.wr (R.FBS_STAT_STATE 3) 2).rd (R.FBS_STAT_STATE 3) = 2 ∧
      ({} : State).domOn 8 = false ∧ (s.wr (R.FBS_STAT_STATE 3) 3).rd (R.FBS_STAT_STATE 3) = 3 ∧ s.rd (R.FBS_CFG_EN 3) = 1 ∧
      ((s.wr (R.FBS_STAT_STATE 3) 2).wr (R.FBS_STAT_RECOV 3) 1).rd (R.FBS_STAT_RECOV 3) = 1 := by decide

theorem witness_FieldbusEvents_receive :
    let s := onBus3
    s.onBus 3 = true ∧ s.domOn 5 = true ∧ s.ringFull 3 = false ∧ s.memx.ecc = [] ∧ s.rd (R.FBS_STAT_RINGERR 3) = 0 ∧
      0x100000000 ≤ s.rd (R.FBS_RXBASE_ADDR 3) / 16 * 16 + 80 * (s.rd (R.FBS_RXWR_COUNT 3) % s.ringSize 3) ∧
      s.rd (R.FBS_RXBASE_ADDR 3) / 16 * 16 + 80 * (s.rd (R.FBS_RXWR_COUNT 3) % s.ringSize 3) + 80 ≤ 0x180000000 ∧
      s.rd (R.FBS_RXBASE_ADDR 3) / 16 * 16 + 80 * (s.rd (R.FBS_RXWR_COUNT 3) % s.ringSize 3) + 80 ≤ s.rd R.MEM_FRONT_ADDR ∧
      (s.wr R.MEM_FRONT_ADDR 0x100000000).rd R.MEM_FRONT_ADDR < 0x17FFFFFB0 + 80 ∧ (s.wr (R.FBS_RXWR_COUNT 3) 4096).ringFull 3 = true ∧
      (true && !(s.chan 3).fd) = true ∧ s.rd (R.FBS_ERR_REC 3) ≤ 127 ∧ (s.chan 3).onWay = [] ∧
      { s with fbs := [(3, { onWay := [0x17FFFFFB0], broken := true })] }.ringFull 3 = false := by decide

theorem witness_FieldbusEvents_timing :
    let s := withFields [(R.FBS_NBT_NBRP 0, 0), (R.FBS_NBT_NTSEG1 0, 62), (R.FBS_NBT_NTSEG2 0, 15), (R.FBS_NBT_NSJW 0, 15)]
    s.rd (R.FBS_CFG_EN 0) = 0 ∧ (((s.writeFbsCfg 0 0).fbsLatch 0).chan 0).timingOk = true ∧
      ((((s.wr (R.FBS_NBT_NSJW 0) 127).writeFbsCfg 0 0).fbsLatch 0).chan 0).timingOk = false := by decide

theorem witness_NetworkTimeEvents :
    let s := { withFields [(R.TIM_STAT_STATE, 1), (R.PWR_DOMSTAT_ON, 0xFFFF), (R.TIM_INCR_INCR, 0x0800000000), (R.RTC_STAT_OSF, 0),
      (R.PHS_CFG_REF, 1), (R.RTC_TIME_TIME, (⟨0, 59, 59, 23, 31, 12, 7, 4095⟩ : Cal).word)] with
      tim := { ns := 999999999, frac := 2 ^ 32 - 1, good := 15 } }
    s.rd R.TIM_STAT_STATE = 1 ∧ s.rd R.SYS_STAT_CLKSRC = 0 ∧ s.domOn 7 = true ∧ 0x07FDF3B646 ≤ s.rd R.TIM_INCR_INCR ∧
      s.rd R.TIM_INCR_INCR ≤ 0x08020C49BA ∧ s.tim.ns < 1000000000 ∧ s.tim.frac < 2 ^ 32 ∧ s.rd R.RTC_STAT_OSF = 0 ∧ s.cal.inRange = true ∧
      15 ≤ s.tim.good ∧ s.tim.everLocked = false ∧ (s.domOn 10 && s.rd R.PHS_CFG_REF == 1 && !s.on R.PHS_STAT_LOST) = true ∧
      s.rd R.PHS_STAT_SLEWING = 0 ∧ (s.wr R.RTC_TIME_TIME 0).cal.inRange = false ∧ (s.wr R.TIM_STAT_STATE 2).rd R.TIM_STAT_STATE = 2 ∧
      (s.wr R.TIM_STAT_STATE 3).rd R.TIM_STAT_STATE = 3 ∧ (s.wr R.SYS_STAT_CLKSRC 1).rd R.SYS_STAT_CLKSRC = 1 ∧
      1000000 < (1000001 : DWord).toInt.natAbs ∧ (1000000 : DWord).toInt.natAbs ≤ 1000000 ∧ 1000 < (1001 : DWord).toInt.natAbs ∧
      (1000 : DWord).toInt.natAbs ≤ 1000 ∧ ((8 : Word).extractLsb' 2 2).toNat = 2 ∧ ((4 : Word).extractLsb' 2 2).toNat = 1 := by
  decide

/-- A fallback waits for UPD_FALLSLOT, which a forward step of a day passes and one of a second does not. -/
theorem witness_NetworkTimeEvents_slot :
    let s := withFields [(R.UPD_STAT_STATE, 5), (R.UPD_STAT_FALLPEND, 1), (R.UPD_CELLV_MV, 2500), (R.TIM_SEC_SEC, 86400)]
    let day := fun sec : Nat => ((sec : Int) - s.utcOfs - (min 86399 (s.rd R.UPD_FALLSLOT_SEC) : Nat)).fdiv 86400
    s.rd R.UPD_STAT_STATE = 5 ∧ s.rd R.UPD_STAT_FALLPEND = 1 ∧ s.moving = false ∧ s.cellLow = false ∧
      (s.upd.slotBack : Int) < day 172800 - day 86400 ∧
      day 86401 - day 86400 = 0 := by decide

theorem witness_CalendarEvents :
    let c : Cal := ⟨32767, 59, 59, 23, 31, 12, 7, 4095⟩
    let s := { withFields [(R.RTC_TIME_TIME, c.word), (R.RTC_WAKE_EN, 1)] with tim := { loading := true }, rtc := { write := some 1, edges := 1 } }
    let q := { s with rtc := {} }
    s.cal = c ∧ c.inRange = true ∧ c.sec = 59 ∧ c.min = 59 ∧ c.hour = 23 ∧ c.month = 12 ∧ c.day = 31 ∧ s.rd R.RTC_WAKE_EN = 1 ∧
      s.tim.loading = true ∧ s.rtc.write = some 1 ∧ s.rtc.edges ≠ 0 ∧ 2 ≤ s.rtc.edges + s.periodsOf (32768 - s.cal.sub) ∧
      { s with rtc := { write := some 1 } }.rtc.edges + { s with rtc := { write := some 1 } }.periodsOf (32768 - s.cal.sub) < 2 ∧
        q.rtc.write = none ∧
      s.pwr.held = true ∧ { s with pwr := { held := false } }.pwr.held = false ∧ (⟨0, 58, 0, 0, 1, 1, 1, 1970⟩ : Cal).inRange = true ∧
      { q with regs := [], rtc := {} }.cal.second.inRange = ({} : State).cal.second.inRange ∧ q.cal.second.year = 0 ∧
      (withFields [(R.RTC_TIME_TIME, (⟨0, 58, 0, 0, 1, 1, 1, 1970⟩ : Cal).word)]).cal.second.inRange = true ∧
      ({} : State).rd R.RTC_WAKE_EN = 0 ∧ ({} : State).tim.loading = false := by decide

/-- KEY is on and ready with its root, a tree slot, a wrapping slot and a data slot, and one byte of data asked for. -/
def keyed : State :=
  { withFields [(R.PWR_DOMSTAT_ON, 0xFFFF), (R.PWR_DOMSTAT_READY, 0xFFFF), (R.KEY_SLOT_ATTR 1, 4), (R.KEY_SLOT_DEPTH 1, 3),
      (R.KEY_SLOT_ATTR 2, 2), (R.KEY_SLOT_ATTR 3, 1), (R.KEY_SLOT_ATTR 6, 3), (R.KEY_SLOT_STORE 6, 1), (R.KEY_ARG_ADDR 0, 0x100000000),
      (R.KEY_ARG_ADDR 1, 0x100001000), (R.KEY_LEN_LEN, 1), (R.KEY_LEN_AUX, 32), (R.MEM_FRONT_ADDR, 0x180000000), (R.KEY_TENEN_EN, 2 ^ 63),
      (R.KEY_FLBASE_ADDR, 0x100000000), (R.NVS_STAT_READY, 1), (R.TLY_DEF_DEF 0x9F, 1), (R.TLY_DEF_DEF 0xA0, 1), (R.TLY_DEF_RATE 0xA0, 1),
      (R.TLY_DEF_DEF 1, 1)] with
    key := { root := some (zeros 32), tenants := [(64, zeros 32)], queue := 2 ^ 63 } }

/-- A command value by its fields. -/
def cmdOf (op attr src dst depth lablen : Nat) : KeyCmd := ⟨op, attr, false, src, dst, depth, lablen⟩

theorem witness_KeyTallyEvents_operations :
    ∀ c ∈ [cmdOf 1 3 0x40 63 0 32, cmdOf 2 1 0 63 8 0, cmdOf 3 0 0 63 0 0, cmdOf 4 0 6 1 0 0, cmdOf 5 0 6 63 0 0, cmdOf 6 0 3 0 0 0,
        cmdOf 7 0 2 0 0 0, cmdOf 8 0 3 0 0 0, cmdOf 9 0 2 0 0 0, cmdOf 10 0 1 64 0 32],
      keyed.key.build = none ∧ keyed.key.due = [] ∧ keyed.keyRefused c = false ∧ keyed.keyWaits c = false ∧ keyed.keyHeld c = false ∧
        (((keyed.keyBuffers c.op).1 ++ (keyed.keyBuffers c.op).2).all keyBufferOk) = true := by decide +kernel

theorem witness_KeyTallyEvents_refusals :
    keyed.domOn 9 = true ∧ keyed.rd R.KEY_RESULT_BUSY = 0 ∧ keyed.memx.ecc = [] ∧ keyed.keyRefused (cmdOf 1 3 0x40 64 0 0) = true ∧
      keyed.keyRefused (cmdOf 1 3 0x40 0 0 33) = true ∧ keyed.keyRefused (cmdOf 2 1 0 0 9 0) = true ∧
      (keyed.wr R.MEM_FRONT_ADDR 0x100000000).keyWaits (cmdOf 8 0 3 0 0 0) = true ∧
      (keyed.wr R.MEM_FRONT_ADDR 0x100000000).keyHeld (cmdOf 8 0 3 0 0 0) = true ∧ supBuffer 0xFFFFFFFF 1 = false ∧
      (keyed.parentOf 0x40).isSome = true ∧ (keyed.wr R.KEY_RESULT_BUSY 1).rd R.KEY_RESULT_BUSY = 1 ∧ ({} : State).domOn 9 = false ∧
      ({} : State).key.op = none ∧ ivGood (zeros 8) = false ∧
      { keyed with key := { keyed.key with build := some ⟨64, 1, 0x100000000⟩ } }.key.build.isSome = true := by decide

theorem witness_KeyTallyEvents_flacon :
    let due := fun s : State => fun j => bitOf s.key.queue j && bitOf (s.rd R.KEY_TENEN_EN) j
    let full := { keyed.wr R.NVS_STAT_SEAL 1 with key := { keyed.key with counts := [(64, 2 ^ 32 - 1)] } }
    let bare := { keyed with key := { keyed.key with tenants := [] } }
    bitOf (keyed.rd R.PWR_DOMSTAT_READY) 9 = true ∧ keyed.key.bootDue = false ∧ keyed.inGap = false ∧ keyed.rd R.KEY_STAT_SEQLOST = 0 ∧
      keyed.key.build = none ∧ due keyed 63 = true ∧ (∀ j < 63, due keyed j = false) ∧
      min 0x180000000 (keyed.rd R.KEY_FLBASE_ADDR + 131328 * 64) ≤ keyed.rd R.MEM_FRONT_ADDR ∧
      ¬min 0x180000000 (keyed.rd R.KEY_FLBASE_ADDR + 131328 * 64) ≤ (keyed.wr R.MEM_FRONT_ADDR 0x100000000).rd R.MEM_FRONT_ADDR ∧
      (sget [] keyed.key.tenants 64).length = 32 ∧ sget [] bare.key.tenants 64 = [] ∧ sget 0 keyed.key.counts 64 < 2 ^ 32 - 1 ∧
      sget 0 full.key.counts 64 = 2 ^ 32 - 1 ∧ full.nvsFree = false ∧ keyed.rd R.KEY_FLBASE_ADDR % 64 = 0 ∧
      supBuffer (keyed.rd R.KEY_FLBASE_ADDR + 131328 * 63 + 65664) 65664 = true ∧ supBuffer 0x17FFFFFFF 65664 = false ∧
      (∀ i < 64, due { keyed with key := { keyed.key with queue := 0 } } i = false) ∧
      supBuffer ((⟨64, 1, 0x100000000⟩ : FlaconBuild).addr + 0x3C) 4 = true := by decide

theorem witness_KeyTallyEvents_tally :
    let r : TallyRec := ⟨0x100, 0, 0, 0, 0, 0, 0, [], 0, 0, 0⟩
    let s := { keyed with tly := { sealing := [r, r], events := [⟨1, [], 0⟩, ⟨2, [], 0⟩] } }
    (s.tallyReady = true ∧ s.nvsReady = true ∧ s.rd R.NVS_STAT_SAVE = 0) ∧ (s.wr R.NVS_STAT_PFWORDER 1).rd R.NVS_STAT_PFWORDER = 1 ∧
      s.rd R.NVS_STAT_PFWORDER = 0 ∧ (s.key.bootDue = false ∧ s.upd.setDue = false ∧ s.nvs.due = []) ∧ s.tallyRoom ≠ 0 ∧
      s.tly.index.length < logCapacity ∧ (∀ q ∈ [r], q.code = r.code) ∧ { r with code := 0x101 }.code ≠ r.code ∧
      { s with tly := { used := logCapacity } }.tallyRoom = 0 ∧ ({} : State).tallyReady = false ∧ r.kind ≠ 3 ∧
      s.tallyDefined 1 = true ∧ s.tallyDefined 2 = false ∧ s.tallyDefined 0x9F = true ∧ s.tallyDefined 0xA4 = false ∧
      ¬(s.rd (R.TLY_DEF_RATE 0x9F) ≠ 0 ∧ s.rd (R.TLY_DEF_RATE 0x9F) ≤ (s.live 0x9F).second) ∧
      (let u := { s with tly := { live := [(0xA0, { second := 1 })] } }
       u.rd (R.TLY_DEF_RATE 0xA0) ≠ 0 ∧ u.rd (R.TLY_DEF_RATE 0xA0) ≤ (u.live 0xA0).second) := by decide

theorem witness_PowerFailEvents :
    let g := { aGap with fromRun := true }
    let s := { withFields [(R.PWR_DOMSTAT_ON, 0xFFFF), (R.UPD_STAT_STATE, 4)] with upd := { gap := some g }, pwr := { held := false } }
    let d := { withFields [(R.PWR_STAT_PFW, 1), (R.PWR_STAT_PDSTOP, 1)] with pwr := { held := false, returned := true, shed := true } }
    s.rd R.PWR_STAT_PFW = 0 ∧ s.pwr.pfhold = false ∧ s.rd R.PWR_STAT_PDSTOP = 0 ∧ s.rd R.PWR_STAT_PIT = 0 ∧ s.rd R.PWR_STAT_SLEEP = 0 ∧
      (s.wr R.PWR_STAT_PIT 1).rd R.PWR_STAT_PIT = 1 ∧ s.domOn 5 = true ∧ s.domOn 6 = true ∧ s.tsk.save = none ∧
      { s with tsk := { save := some (1, 2) } }.tsk.save = some (1, 2) ∧ s.rd R.TLY_STAT_FULL = 0 ∧ s.tallyReady = true ∧
      s.sealedCodes.length ≤ s.tallyRoom ∧ s.upd.gap = some g ∧ (g.marked = false ∧ g.aborted = false) ∧
        { g with aborted := true }.aborted = true ∧
      { d with upd := { gap := some { g with aborted := true } } }.pwr.held = false ∧ s.rd R.NVS_STAT_PFWORDER = 0 ∧
        d.rd R.PWR_STAT_PFW = 1 ∧ d.rd R.PWR_STAT_PDSTOP = 1 ∧
      (d.wr R.PWR_STAT_PDSTOP 0).rd R.PWR_STAT_PDSTOP = 0 ∧ d.upd.gap = none ∧ d.loading = .idle ∧ d.host.erases = [] ∧
        d.key.bootDue = false ∧
      d.upd.setDue = false ∧ d.nvs.due = [] ∧ d.pwr.returned = true ∧ d.pwr.held = false ∧ d.pwr.shed = true ∧ d.pwr.path = 0 ∧
      { d with pwr := { path := 2 } }.pwr.path ≠ 0 ∧ { d with pwr := { pfhold := true } }.pwr.pfhold = true ∧ ({} : State).pwr.held = true ∧
      d.rd R.PWR_STAT_HUREADY = 0 ∧ (withFields [(R.PWR_STAT_HUREADY, 1)]).rd R.PWR_STAT_HUREADY = 1 ∧ d.rd R.UPD_STAT_STATE ≤ 5 := by
  decide +kernel

theorem witness_PowerDomainEvents :
    let s := { withFields [(R.PWR_DOMSTAT_ON, 0x203), (R.PWR_DOMEN_EN, 0xFFFF), (R.TSK_CFG_START, 2), (R.PWR_STAT_SLEEP, 1),
      (R.PWR_WAKEEN_EN, 4), (R.PWR_STAT_PIT, 0)] with pwr := { starting := true } }
    (0xFFFF % 4 = 3 ∧ s.rd R.PWR_STAT_PIT = 0 ∧ s.mode = 0) ∧ (s.domOn 9 = true ∧ bitOf (s.rd R.PWR_DOMSTAT_READY) 9 = false) ∧
      s.upd.settings.regs = [] ∧ s.upd.owner = [] ∧ s.key.root = none ∧ s.key.rootTried = false ∧
      { s with key := { rootTried := true } }.key.rootTried = true ∧ keyed.key.root = some (zeros 32) ∧ s.nvsFree = false ∧
      s.nvs.worn = [] ∧ ({} : State).pwr.held = true ∧ s.pwr.starting = true ∧
      s.runBlocked = some 0x0417 ∧ s.inGap = false ∧ s.rd R.UPD_STAT_FALLPEND = 0 ∧ s.rd R.UPD_STAT_STATE ≠ 3 ∧
      s.rd R.PWR_STAT_SLEEP = 1 ∧ bitOf (s.rd R.PWR_WAKEEN_EN) 2 = true := by decide

/-- KEY finds both copies of its boot record, with BOOT 4 and 3. -/
theorem witness_PowerDomainEvents_nvs :
    let copy := fun v => toLE 4 v ++ toLE 4 (crc32 (toLE 4 v))
    let s := { keyed with flash := writeBytes (writeBytes [] (bootCopy 0) (copy 4)) (bootCopy 1) (copy 3) }
    s.nvsFree = true ∧ s.nvs.worn = [] ∧ s.bootRead 0 = some 4 ∧ s.bootRead 1 = some 3 ∧ keyed.bootRead 0 = none := by decide +kernel

/-- A module as it was made: its settings slot and bank A read, and nothing is recorded (R181, R401). -/
theorem witness_PowerDomainEvents_release :
    let s : State := {}
    s.upd.record = [] ∧ (s.nvs.foreign = [] ∧ s.nvs.unreadable = []) ∧ s.readSettings.2 = true ∧
      s.readSettings.1.upd.settings.regs = [] ∧ s.upd.marked < 2 ∧
      s.bankBoots s.upd.marked = true ∧ (s.bankBoots 0 = true ∨ s.bankBoots 1 = true) ∧ s.rd R.RTC_STAT_AONRST = 1 ∧ s.mode = 0 ∧
      { s with upd := { setSlots := [] } }.readSettings.2 = false := by decide +kernel

theorem witness_UpdateEvents_messages :
    let s := withFields [(R.UPD_CELLV_MV, 2500), (R.PWR_STAT_PIT, 0), (R.NVS_STAT_READY, 1), (R.PWR_DOMSTAT_ON, 0xFFFF)]
    let m := fun st => s.wr R.UPD_STAT_STATE st
    s.scope 8 = 1 ∧ s.rd R.PWR_STAT_SLEEP = 0 ∧ s.rd R.PWR_STAT_PIT = 0 ∧ s.nvs.notReady = false ∧ s.moving = false ∧ s.cellLow = false ∧
      s.owedTo 8 = [] ∧ s.nvs.worn = [] ∧ s.ownerLock = false ∧ s.updBusy = false ∧ (m 2).updBusy = false ∧
      (m 3).updBusy = false ∧ (m 5).rd R.UPD_STAT_STATE = 5 ∧ (m 0).rd R.UPD_STAT_STATE = 0 ∧ (s.nvsFree = true ∧ s.nvs.due = []) ∧
      ({} : State).nvsFree = false ∧ ({} : State).cellLow = true ∧ s.tstampNow + 2000000000 ≤ (2000000000 : DWord).toNat ∧
      (1999999999 : DWord).toNat < s.tstampNow + 2000000000 ∧ (keyed.slotHas 2 2 = true) ∧ s.slotHas 2 2 = false ∧ s.mode = 0 ∧
      s.inGap = false ∧ (keyed.slotHas 0 3 = false) ∧ ((keyed.wr (R.KEY_SLOT_ATTR 0) 3).slotHas 0 3 = true) ∧
      (keyed.storeKey = false ∧ ((keyed.wr (R.KEY_SLOT_ATTR 0) 3).wr (R.KEY_SLOT_STORE 0) 1).storeKey = true) ∧
      (keyed.domOn 9 = true ∧ bitOf (keyed.rd R.PWR_DOMSTAT_READY) 9 = true ∧ keyed.rd R.KEY_RESULT_BUSY = 0) ∧
      (keyed.wr R.KEY_RESULT_BUSY 1).rd R.KEY_RESULT_BUSY = 1 ∧ bitOf (s.rd R.PWR_DOMSTAT_READY) 9 = false ∧
      (7 : BitVec 16).toNat ≠ s.rd R.UPD_GROUP_GROUP ∧ (0 : BitVec 16).toNat = s.rd R.UPD_GROUP_GROUP := by decide

theorem witness_UpdateEvents_set :
    let s := { withFields [(R.UPD_STAT_STATE, 1), (R.PWR_DOMSTAT_ON, 0xFFFF), (R.SLR_RING_PRESENT, 1), (R.UPD_CELLV_MV, 2500)] with
      upd := { whole := [1, 2], images := [(1, []), (2, [])] } }
    let d := (s.wr R.UPD_STAT_STATE 5).wr R.UPD_STAT_FALLPEND 1
    s.rd R.UPD_STAT_STATE = 1 ∧ s.upd.whole ≠ [] ∧ s.rd R.NVS_STAT_PFWORDER = 0 ∧ s.domOn 6 = true ∧ 1 ∈ s.upd.whole ∧
      { s with upd := { whole := [2], twice := true } }.upd.twice = true ∧
      s.fwFault (s.stagedBytes 1) = some 0x1001 ∧ fwShape (s.stagedBytes 1) = false ∧ 2 ∈ s.upd.whole ∧ s.present 0 = true ∧
      s.slStat 3 ≠ 1 ∧ d.rd R.UPD_STAT_STATE = 5 ∧ d.rd R.UPD_STAT_FALLPEND = 1 ∧ d.moving = false ∧ d.cellLow = false ∧
      (d.wr R.UPD_CELLV_MV 2499).cellLow = true ∧ { d with upd := { heldOff := true } }.upd.heldOff = true ∧
      (d.wr R.UPD_STAT_FALLPEND 0).rd R.UPD_STAT_FALLPEND = 0 := by decide

/-- A set of one verified module image, whole, with NVS free: the verification completes. -/
theorem witness_UpdateEvents_due :
    let s := { withFields [(R.UPD_STAT_STATE, 1), (R.PWR_DOMSTAT_ON, 0xFFFF), (R.NVS_STAT_READY, 1)] with upd := { whole := [1], images := [(1, [])] } }
    (s.rd R.UPD_STAT_STATE = 1 ∧ s.upd.whole ≠ [] ∧ s.nvsFree = true ∧ s.nvs.due = []) ∧ 1 ∈ s.upd.whole ∧
      s.fwFault (s.stagedImage 1) = some 0x1001 ∧
      { s with upd := { s.upd with whole := [2], twice := true } }.upd.twice = true ∧ s.sliceImageOk 2 = false ∧
      { s with upd := { slotBack := 1 } }.upd.slotBack ≠ 0 ∧ s.upd.slotBack = 0 := by decide +kernel

/-- A module image whose body is the public key 1 G, signed with the private key 1. -/
def signedImage : List Byte :=
  let pub := toBE 32 P256.gx ++ toBE 32 P256.gy
  let head := toLE 4 0x4D575A4F ++ [1, 0, 0, 0] ++ toLE 4 7 ++ zeros 8 ++ toLE 4 0xFFFFFFFF ++ toLE 4 64 ++ zeros 4 ++ sha256 pub
  head ++ toBE 32 P256.gx ++ toBE 32 0xC9C2A438D3EFC2E40F568363BE2E9DBF7B32DF0B49E74E78017EFF70EA1252F2 ++ pub

theorem signedImage_verifies : P256.verify (beNat (((signedImage.drop 128).take 64).take 32)) (beNat (((signedImage.drop 128).take 64).drop 32))
    (beNat (((signedImage.drop 64).take 64).take 32)) (beNat (((signedImage.drop 64).take 64).drop 32)) (signedImage.take 64) = true := by
  decide +kernel

/-- Where OTP holds the hash of that key, the image passes every check of R404. -/
theorem witness_UpdateEvents_signed
    (h : Config.otpKeyHash 0 = 0xD875DB7DEF232236AEC738C6B0BB3E80142F5D0FD8F4DF24FED6EEF5CBB50D9F) :
    State.fwFault {} signedImage = none := by
  have shape : fwShape signedImage = true := by decide +kernel
  have key : beNat (sha256 ((signedImage.drop 128).take 64)) = Config.otpKeyHash 0 := h ▸ by decide +kernel
  have head : fwHeader signedImage = ⟨1, 0, 0, 7, 0, 0, 0, 0xFFFFFFFF, 64⟩ := by decide +kernel
  have signed : State.fwSigned {} signedImage = true := by
    unfold State.fwSigned
    simp only [head, key, signedImage_verifies, beq_self_eq_true, Bool.true_and, Bool.and_true]
    rfl
  simp only [State.fwFault, shape, signed, head]
  decide
theorem witness_UpdateEvents_gap :
    let g := { aGap with marked := true }
    let s := { withFields [(R.UPD_STAT_STATE, 4)] with
      upd := { gap := some g, marked := 1, bankB := { valid := true } }, ring := { slices := [(5, { staged := some 1 })] } }
    let r := { runnable with upd := { gap := some { g with fromRun := true } } }
    s.upd.gap = some g ∧ (g.marked = true ∧ g.closed = false ∧ g.aborted = false) ∧ s.upd.ended = none ∧ g.fromRun = false ∧
      s.tsk.entry = .none ∧
      (g.switched = false ∧ { g with switched := true }.switched = true ∧ { g with cause := 1 }.cause = 1) ∧
      (s.sliceOf 5).staged = some 1 ∧ (s.sliceOf 0).staged = none ∧ s.rd R.UPD_CFG_SETMODE = 0 ∧
        (s.wr R.UPD_CFG_SETMODE 1).rd R.UPD_CFG_SETMODE = 1 ∧
      ({} : State).upd.gap = none ∧ s.upd.marked < 2 ∧ { g with fromRun := true }.fromRun = true ∧
        { g with fallback := true }.fallback = true ∧
      r.rd R.TSK_STAT_FLT = 0 ∧ r.runUnfit = none ∧ r.tsk.save = none ∧ r.nvsComing = false ∧ r.nvs.worn = [] ∧ r.upd.backup = none ∧
      r.img = some {} ∧ r.controlDomains = true ∧ r.phsOk = true ∧ r.taskTableOk = true ∧ r.domOn 4 = true := by decide

theorem witness_EveryStepKeepsLegalMode : ({} : State).legalMode = true ∧ step {} = .next (State.tickRtc {}) := ⟨by decide, rfl⟩

end Sys2Proof.Machine
end

section
/-! SUPPORT. The bus and its registers (00_scope.md): the register table, the fields of a register under a write and a read, what
follows a write, accesses to the stores and to no address, SYS_STAT. -/

namespace Sys2Proof.Machine

/-! ### Bit fields of a number -/

/-- A field that lies in the low `w` bits is read off those bits alone. -/
theorem slice_mod_two_pow (x : Nat) {lo k w : Nat} (h : lo + k ≤ w) : x % 2 ^ w / 2 ^ lo % 2 ^ k = x / 2 ^ lo % 2 ^ k := by
  refine Nat.eq_of_testBit_eq fun i => ?_
  simp only [Nat.testBit_mod_two_pow, Nat.testBit_div_two_pow]
  by_cases hi : i < k
  · simp only [hi, decide_true, Bool.true_and, show i + lo < w by omega]
  · simp only [hi, decide_false, Bool.false_and]

/-- A number added above the bits of another puts its own bits beside them. -/
theorem testBit_add_mul_two_pow {v lo : Nat} (x i : Nat) (h : v < 2 ^ lo) :
    (v + x * 2 ^ lo).testBit i = (v.testBit i || (decide (lo ≤ i) && x.testBit (i - lo))) := by
  rw [Nat.add_comm, ← Nat.shiftLeft_eq, Nat.shiftLeft_add_eq_or_of_lt h, Nat.testBit_or, Nat.testBit_shiftLeft, Bool.or_comm]

/-! ### The register table (R6, R10) -/

/-- A register of 32 or 64 bits whose fields lie inside it, in rising order, none empty and none over another. -/
def RegSpec.WellLaid (r : RegSpec) : Prop :=
  (r.width = 32 ∨ r.width = 64) ∧ (∀ f ∈ r.fields, 0 < f.width ∧ f.lo + f.width ≤ r.width) ∧
    r.fields.Pairwise fun f g => f.lo + f.width ≤ g.lo

theorem blockOf_wellLaid (a : Nat) : ∀ r ∈ (blockOf a).2, r.WellLaid := by
  unfold RegSpec.WellLaid blockOf
  split <;> decide

theorem wellLaid_of_regAt {a : Nat} {r : RegSpec} (h : regAt a = some r) : r.WellLaid :=
  blockOf_wellLaid a r (List.mem_of_find?_eq_some h)

section
variable {r : RegSpec} (h : r.WellLaid)
include h

theorem RegSpec.WellLaid.lo_lt {f : FieldSpec} (hf : f ∈ r.fields) : f.lo < 64 := by
  obtain ⟨hw, hin, -⟩ := h
  have := hin f hf
  omega

/-- The key of a field of the register at `a` lies among the 64 keys of that address. -/
theorem RegSpec.WellLaid.key_div {f : FieldSpec} (hf : f ∈ r.fields) (a : Nat) : (f.fld a).key / 64 = a := by
  have := h.lo_lt hf
  simp only [FieldSpec.fld]
  omega

theorem RegSpec.WellLaid.lo_ne : r.fields.Pairwise fun f g => f.lo ≠ g.lo := by
  obtain ⟨-, hin, hp⟩ := h
  refine hp.imp_of_mem fun {f g} hf _ hfg => ?_
  have := (hin f hf).1
  omega

/-- Two fields that cover the same bit are the same field. -/
theorem RegSpec.WellLaid.eq_of_covers {f g : FieldSpec} (hf : f ∈ r.fields) (hg : g ∈ r.fields) {i : Nat}
    (h1 : f.lo ≤ i ∧ i < f.lo + f.width) (h2 : g.lo ≤ i ∧ i < g.lo + g.width) : f = g := by
  obtain ⟨m, hm, rfl⟩ := List.getElem_of_mem hf
  obtain ⟨k, hk, rfl⟩ := List.getElem_of_mem hg
  have apart := List.pairwise_iff_getElem.mp h.2.2
  rcases Nat.lt_trichotomy m k with hmk | rfl | hkm
  · have := apart m k hm hk hmk
    omega
  · rfl
  · have := apart k m hk hm hkm
    omega

end

/-- TSK_STAT, which shows the mode, has no field that a write sets in STOP only. -/
theorem regAt_rwl_ne_TSK_STAT {a : Nat} {r : RegSpec} (h : regAt a = some r) {f : FieldSpec} (hf : f ∈ r.fields)
    (hacc : f.acc = .RWL) : a ≠ 0x10030010 := by
  rintro rfl
  have none_rwl : ((regAt 0x10030010).all fun r => r.fields.all fun f => f.acc ≠ .RWL) = true := by decide
  rw [h, Option.all_some, List.all_eq_true] at none_rwl
  simpa [hacc] using none_rwl f hf

/-! ### Operations that set fields and nothing else -/

/-- Only the register fields of a list differ. -/
def Sets (fs : List Fld) (s t : State) : Prop := OnlyFields fs s t ∧ { t with regs := s.regs } = s

theorem Sets.refl (fs : List Fld) (s : State) : Sets fs s s := ⟨fun _ _ => rfl, rfl⟩

theorem Sets.trans {fs : List Fld} {s t u : State} (h : Sets fs s t) (k : Sets fs t u) : Sets fs s u := by
  refine ⟨fun f hf => (k.1 f hf).trans (h.1 f hf), ?_⟩
  have e : ({ u with regs := s.regs } : State) = { ({ u with regs := t.regs } : State) with regs := s.regs } := rfl
  rw [e, k.2, h.2]

theorem Sets.mono {fs gs : List Fld} (hsub : fs ⊆ gs) {s t : State} (h : Sets fs s t) : Sets gs s t :=
  ⟨fun f hf => h.1 f fun g hg => hf g (hsub hg), h.2⟩

theorem sets_wr (s : State) (f : Fld) (v : Nat) : Sets [f] s (s.wr f v) :=
  ⟨fun _ hg => s.rd_wr_other v (hg f (by simp)), rfl⟩

/-- A step over the fields of the register at `a` that sets no field but the one it is given. -/
def FieldStep (a : Nat) (g : State → FieldSpec → State) : Prop := ∀ s f, Sets [f.fld a] s (g s f)

theorem sets_foldl {a : Nat} {g : State → FieldSpec → State} (hg : FieldStep a g) (fs : List FieldSpec) (s : State) :
    Sets (fs.map fun f => f.fld a) s (fs.foldl g s) := by
  induction fs generalizing s with
  | nil => exact Sets.refl _ s
  | cons f t ih => exact ((hg s f).mono (by simp)).trans ((ih (g s f)).mono (by simp))

/-- A field of the register ends with what its own step gives it, from a state in which it still has its old value. -/
theorem rd_foldl_field {a : Nat} {g : State → FieldSpec → State} (hg : FieldStep a g) {fs : List FieldSpec}
    (hd : fs.Pairwise fun f g => f.lo ≠ g.lo) {f : FieldSpec} (hf : f ∈ fs) (s : State) :
    ∃ u, Sets (fs.map fun f => f.fld a) s u ∧ u.rd (f.fld a) = s.rd (f.fld a) ∧
      (fs.foldl g s).rd (f.fld a) = (g u f).rd (f.fld a) := by
  induction fs generalizing s with
  | nil => simp at hf
  | cons x t ih =>
    obtain ⟨hx, ht⟩ := List.pairwise_cons.mp hd
    rcases List.mem_cons.mp hf with rfl | hf
    · refine ⟨s, Sets.refl _ s, rfl, (sets_foldl hg t (g s f)).1 _ fun k hk => ?_⟩
      obtain ⟨y, hy, rfl⟩ := List.mem_map.mp hk
      have := hx y hy
      simp only [FieldSpec.fld, ne_eq]
      omega
    · obtain ⟨u, hu, hold, hnew⟩ := ih ht hf (g s x)
      refine ⟨u, ((hg s x).mono (by simp)).trans (hu.mono (by simp)), hold.trans ((hg s x).1 _ fun k hk => ?_), hnew⟩
      have := hx f hf
      simp only [List.mem_singleton.mp hk, FieldSpec.fld, ne_eq]
      omega

/-! ### A write sets each field as its access code says (R6) -/

/-- What a write leaves in a field that held `old`, by its access code, where `new` is written and the mode is STOP or not. -/
def Acc.written (c : Acc) (stop : Bool) (old new : Nat) : Nat :=
  match c with
  | .RW | .WO => new
  | .RWL => if stop then new else old
  | .W1C => old ^^^ (old &&& new)
  | .RO | .RC => old

/-- One field of `State.setFields`. -/
def State.setField (s : State) (a v mask : Nat) (f : FieldSpec) : State :=
  let old := s.rd (f.fld a)
  match f.acc with
  | .RW => s.wr (f.fld a) (v / 2 ^ f.lo)
  | .RWL => if s.mode = 0 then s.wr (f.fld a) (v / 2 ^ f.lo) else s
  | .WO => s.wr (f.fld a) (v / 2 ^ f.lo)
  | .W1C => s.wr (f.fld a) (old ^^^ (old &&& ((v &&& mask) / 2 ^ f.lo % 2 ^ f.width)))
  | .RO | .RC => s

theorem State.setFields_eq (s : State) (r : RegSpec) (a v mask : Nat) :
    s.setFields r a v mask = r.fields.foldl (fun s f => s.setField a v mask f) s := rfl

theorem fieldStep_setField (a v mask : Nat) : FieldStep a fun s f => s.setField a v mask f := by
  intro s f
  unfold State.setField
  dsimp only
  split
  case h_2 =>
    split
    · exact sets_wr s _ _
    · exact Sets.refl _ s
  case h_5 | h_6 => exact Sets.refl _ s
  all_goals exact sets_wr s _ _

theorem State.rd_setField (s : State) (a : Nat) {v mask : Nat} {f : FieldSpec}
    (hmask : (v &&& mask) / 2 ^ f.lo % 2 ^ f.width = v / 2 ^ f.lo % 2 ^ f.width) :
    (s.setField a v mask f).rd (f.fld a) =
      f.acc.written (decide (s.mode = 0)) (s.rd (f.fld a)) (v / 2 ^ f.lo % 2 ^ f.width) := by
  have fits : ∀ x, s.rd (f.fld a) ^^^ (s.rd (f.fld a) &&& x) < 2 ^ f.width := fun x =>
    Nat.xor_lt_two_pow (s.rd_lt _) (Nat.lt_of_le_of_lt Nat.and_le_left (s.rd_lt _))
  unfold State.setField Acc.written
  cases f.acc with
  | RW | WO => exact s.rd_wr_same _ _
  | RWL => by_cases hm : s.mode = 0 <;> simp [hm, FieldSpec.fld]
  | W1C =>
    simp only [State.rd_wr_same, hmask]
    exact Nat.mod_eq_of_lt (fits _)
  | RO | RC => rfl

/-- Every field of a register written: what its access code makes of it. -/
theorem State.rd_setFields (s : State) {a : Nat} {r : RegSpec} (hr : regAt a = some r) {v mask : Nat} {f : FieldSpec}
    (hf : f ∈ r.fields) (hmask : (v &&& mask) / 2 ^ f.lo % 2 ^ f.width = v / 2 ^ f.lo % 2 ^ f.width) :
    (s.setFields r a v mask).rd (f.fld a) =
      f.acc.written (decide (s.mode = 0)) (s.rd (f.fld a)) (v / 2 ^ f.lo % 2 ^ f.width) := by
  have hl := wellLaid_of_regAt hr
  obtain ⟨u, hu, hold, hnew⟩ := rd_foldl_field (fieldStep_setField a v mask) hl.lo_ne hf s
  rw [s.setFields_eq, hnew, u.rd_setField a hmask, hold]
  by_cases hacc : f.acc = .RWL
  · have hmode : u.mode = s.mode := hu.1 _ fun k hk => by
      obtain ⟨g, hg, rfl⟩ := List.mem_map.mp hk
      have ha := regAt_rwl_ne_TSK_STAT hr hf hacc
      have hk := hl.key_div hg a
      intro e
      rw [← e] at hk
      simp only at hk
      omega
    rw [hmode]
  · cases h : f.acc <;> simp_all [Acc.written]

/-! ### A read shows each field, and clears the RC fields (R6, R7, R9) -/

/-- What a read shows of a field. -/
def State.shown (s : State) (a : Nat) (f : FieldSpec) : Nat := if f.acc = .WO then 0 else s.rd (f.fld a)

theorem State.shown_lt (s : State) (a : Nat) (f : FieldSpec) : s.shown a f < 2 ^ f.width := by
  unfold State.shown
  split
  · exact Nat.two_pow_pos _
  · exact s.rd_lt _

theorem State.regFields_eq (s : State) (r : RegSpec) (a : Nat) :
    s.regFields r a = r.fields.foldl (fun v f => v + s.shown a f * 2 ^ f.lo) 0 := by
  refine congrArg (fun g => r.fields.foldl g 0) (funext fun v => funext fun f => ?_)
  unfold State.shown
  split <;> simp

/-- The bits of fields laid one above the other over the bits below them. -/
theorem testBit_foldl_shown (s : State) (a i : Nat) (fs : List FieldSpec) (hp : fs.Pairwise fun f g => f.lo + f.width ≤ g.lo)
    (v k : Nat) (hv : v < 2 ^ k) (hk : ∀ f ∈ fs, k ≤ f.lo) :
    (fs.foldl (fun v f => v + s.shown a f * 2 ^ f.lo) v).testBit i =
      (v.testBit i || fs.any fun f => decide (f.lo ≤ i) && (s.shown a f).testBit (i - f.lo)) := by
  induction fs generalizing v k with
  | nil => simp
  | cons f t ih =>
    obtain ⟨hf, ht⟩ := List.pairwise_cons.mp hp
    have hlo : v < 2 ^ f.lo := Nat.lt_of_lt_of_le hv (Nat.pow_le_pow_right (by decide) (hk f (by simp)))
    have hsum : v + s.shown a f * 2 ^ f.lo < 2 ^ (f.lo + f.width) := by
      have := Nat.mul_le_mul_right (2 ^ f.lo) (s.shown_lt a f)
      rw [Nat.succ_mul] at this
      rw [Nat.pow_add, Nat.mul_comm (2 ^ f.lo)]
      omega
    rw [List.foldl_cons, ih ht _ _ hsum hf, testBit_add_mul_two_pow _ _ hlo, List.any_cons, Bool.or_assoc]

section
variable {r : RegSpec} (h : r.WellLaid) (s : State) (a : Nat)
include h

theorem State.testBit_regFields (i : Nat) :
    (s.regFields r a).testBit i = r.fields.any fun f => decide (f.lo ≤ i) && (s.shown a f).testBit (i - f.lo) := by
  rw [State.regFields_eq, testBit_foldl_shown s a i r.fields h.2.2 0 0 (by decide) (by simp), Nat.zero_testBit, Bool.false_or]

/-- A bit that no field occupies reads as 0. -/
theorem State.testBit_regFields_reserved {i : Nat} (hi : ∀ f ∈ r.fields, i < f.lo ∨ f.lo + f.width ≤ i) :
    (s.regFields r a).testBit i = false := by
  rw [s.testBit_regFields h, List.any_eq_false]
  intro f hf
  rcases hi f hf with hlt | hge
  · simp [Nat.not_le.mpr hlt]
  · rw [Nat.testBit_lt_two_pow (Nat.lt_of_lt_of_le (s.shown_lt a f) (Nat.pow_le_pow_right (by decide) (by omega)))]
    simp

theorem State.regFields_lt : s.regFields r a < 2 ^ r.width :=
  Nat.lt_pow_two_of_testBit _ fun i hi => s.testBit_regFields_reserved h a fun f hf => by
    have := (h.2.1 f hf).2
    omega

/-- The bits of a field show that field. -/
theorem State.slice_regFields {f : FieldSpec} (hf : f ∈ r.fields) :
    s.regFields r a / 2 ^ f.lo % 2 ^ f.width = s.shown a f := by
  refine Nat.eq_of_testBit_eq fun j => ?_
  rw [Nat.testBit_mod_two_pow, Nat.testBit_div_two_pow, s.testBit_regFields h]
  by_cases hj : j < f.width
  · rw [Bool.eq_iff_iff]
    simp only [hj, decide_true, Bool.true_and, List.any_eq_true, Bool.and_eq_true, decide_eq_true_eq]
    constructor
    · rintro ⟨g, hg, hle, hbit⟩
      have hlt : j + f.lo - g.lo < g.width := by
        refine Decidable.byContradiction fun hge => ?_
        rw [Nat.testBit_lt_two_pow (Nat.lt_of_lt_of_le (s.shown_lt a g) (Nat.pow_le_pow_right (by decide) (by omega)))] at hbit
        simp at hbit
      have := h.eq_of_covers hf hg (i := j + f.lo) (by omega) (by omega)
      subst this
      rwa [Nat.add_sub_cancel] at hbit
    · exact fun hbit => ⟨f, hf, by omega, by rwa [Nat.add_sub_cancel]⟩
  · rw [Nat.testBit_lt_two_pow (Nat.lt_of_lt_of_le (s.shown_lt a f) (Nat.pow_le_pow_right (by decide) (Nat.not_lt.mp hj)))]
    simp [hj]

end

/-- One field of `State.clearRC`. -/
def State.clearField (s : State) (a mask added : Nat) (f : FieldSpec) : State :=
  if f.acc = .RC && bitOf mask f.lo then s.wr (f.fld a) (added / 2 ^ f.lo) else s

theorem State.clearRC_eq (s : State) (r : RegSpec) (a mask added : Nat) :
    s.clearRC r a mask added = r.fields.foldl (fun s f => s.clearField a mask added f) s := rfl

theorem fieldStep_clearField (a mask added : Nat) : FieldStep a fun s f => s.clearField a mask added f := by
  intro s f
  dsimp only [State.clearField]
  split
  · exact sets_wr s _ _
  · exact Sets.refl _ s

theorem State.sets_clearRC (s : State) (r : RegSpec) (a mask added : Nat) :
    Sets (r.fields.map fun f => f.fld a) s (s.clearRC r a mask added) := sets_foldl (fieldStep_clearField a mask added) _ s

/-- An RC field that a read covers holds what was added in that clock; every other field stays. -/
theorem State.rd_clearRC (s : State) {r : RegSpec} (h : r.WellLaid) (a mask added : Nat) {f : FieldSpec} (hf : f ∈ r.fields)
    (hmask : bitOf mask f.lo = true) :
    (s.clearRC r a mask added).rd (f.fld a) = if f.acc = .RC then added / 2 ^ f.lo % 2 ^ f.width else s.rd (f.fld a) := by
  obtain ⟨u, -, hold, hnew⟩ := rd_foldl_field (fieldStep_clearField a mask added) h.lo_ne hf s
  rw [s.clearRC_eq, hnew]
  unfold State.clearField
  by_cases hacc : f.acc = .RC
  · simp only [hacc, hmask, decide_true, Bool.and_self, if_true]
    exact u.rd_wr_same _ _
  · simp only [hacc, decide_false, Bool.false_and, Bool.false_eq_true, if_false]
    exact hold

/-! ### Accesses to a whole register (R10) -/

theorem fbsAction_isSome (s t : State) (n o v w : Nat) : (s.fbsAction n o v).isSome = (t.fbsAction n o w).isSome := by
  unfold State.fbsAction
  split <;> simp only [Option.isSome_some, Option.isSome_none]

theorem tskAction_isSome (s t : State) (o v w : Nat) : (s.tskAction o v).isSome = (t.tskAction o w).isSome := by
  simp only [State.tskAction, apply_ite Option.isSome, Option.isSome_some, Option.isSome_none]

theorem netAction_isSome (s t : State) (o v w : Nat) : (s.netAction o v).isSome = (t.netAction o w).isSome := by
  simp only [State.netAction, apply_ite Option.isSome, Option.isSome_some, Option.isSome_none]

/-- Whether a register has an action of its own depends on its address alone. -/
theorem regAction_isSome (s t : State) (a v w : Nat) (x y : Bool) :
    (s.regAction a v x).isSome = (t.regAction a w y).isSome := by
  unfold State.regAction
  split <;> simp only [apply_ite Option.isSome, Option.isSome_some, Option.isSome_none, tskAction_isSome s t _ v w,
    netAction_isSome s t _ v w, fbsAction_isSome s t _ _ v w]

/-- The accesses as equations, each proved of the function itself: of an access at an address that is a variable, the kernel would
search the register table. -/
theorem State.writeReg_eq (s : State) (r : RegSpec) (a v mask : Nat) : s.writeReg r a v mask =
    (s.regAction a (s.merged r a v mask) (mask == 2 ^ 64 - 1)).getD
      ((s.setFields r a (s.merged r a v mask) mask).afterSet a) := by
  revert s r a v mask
  simp only [← funext_iff]
  delta State.writeReg
  funext s r a v mask
  dsimp only
  split
  next t h => rw [h, Option.getD_some]
  next h => rw [h, Option.getD_none]

theorem State.writeReg32_eq (s : State) (a v : Nat) : s.writeReg32 a v =
    (regAt a).elim
      ((if a % 8 = 4 then regAt (a - 4) else none).elim s fun r =>
        if r.width = 64 then s.writeReg r (a - 4) (v * 2 ^ 32) (0xFFFFFFFF * 2 ^ 32) else s)
      fun r => s.writeReg r a v 0xFFFFFFFF := by
  revert s a v
  simp only [← funext_iff]
  delta State.writeReg32
  funext s a v
  split
  next r h => rw [h, Option.elim_some]
  next h =>
    rw [h, Option.elim_none]
    split
    next r h => rw [h, Option.elim_some]
    next h => rw [h, Option.elim_none]

theorem State.readReg32_eq (s : State) (a added : Nat) : s.readReg32 a added =
    (regAt a).elim
      ((if a % 8 = 4 then regAt (a - 4) else none).elim (s, 0) fun r =>
        if r.width = 64 then
          ((s.readReg r (a - 4) (0xFFFFFFFF * 2 ^ 32) (added * 2 ^ 32)).1,
            (s.readReg r (a - 4) (0xFFFFFFFF * 2 ^ 32) (added * 2 ^ 32)).2 / 2 ^ 32)
        else (s, 0))
      fun r => s.readReg r a 0xFFFFFFFF added := by
  revert s a added
  simp only [← funext_iff]
  delta State.readReg32
  funext s a added
  split
  next r h => rw [h, Option.elim_some]
  next h =>
    rw [h, Option.elim_none]
    split
    next r h => rw [h, Option.elim_some]
    next h => rw [h, Option.elim_none]

theorem State.writeRegs_eq (s : State) (a n v : Nat) : s.writeRegs a n v =
    if !s.domOn (blockDom (regAlias a)) then s
    else if n = 4 && regAlias a % 4 == 0 then s.writeReg32 (regAlias a) (v % 2 ^ 32)
    else if n = 8 && regAlias a % 8 == 0 then
      ((regAt (regAlias a)).filter fun r => r.width == 64).elim (s.writePair (regAlias a) (v % 2 ^ 32) (v / 2 ^ 32 % 2 ^ 32))
        fun r => s.writeReg r (regAlias a) (v % 2 ^ 64) (2 ^ 64 - 1)
    else s := by
  revert s a n v
  simp only [← funext_iff]
  delta State.writeRegs
  funext s a n v
  refine ite_congr rfl (fun _ => rfl) fun _ => ite_congr rfl (fun _ => rfl) fun _ => ite_congr rfl (fun _ => ?_) fun _ => rfl
  split
  next r h => rw [h, Option.elim_some]
  next h => rw [h, Option.elim_none]

theorem State.readRegs_eq (s : State) (a n added : Nat) : s.readRegs a n added =
    if n = 4 && regAlias a % 4 == 0 then s.readReg32 (regAlias a) added
    else if n = 8 && regAlias a % 8 == 0 then
      ((regAt (regAlias a)).filter fun r => r.width == 64).elim
        (((s.readReg32 (regAlias a) (added % 2 ^ 32)).1.readReg32 (regAlias a + 4) (added / 2 ^ 32)).1,
          (s.readReg32 (regAlias a) (added % 2 ^ 32)).2 +
            ((s.readReg32 (regAlias a) (added % 2 ^ 32)).1.readReg32 (regAlias a + 4) (added / 2 ^ 32)).2 * 2 ^ 32)
        fun r => s.readReg r (regAlias a) (2 ^ 64 - 1) added
    else (s, 0) := by
  revert s a n added
  simp only [← funext_iff]
  delta State.readRegs
  funext s a n added
  refine ite_congr rfl (fun _ => rfl) fun _ => ite_congr rfl (fun _ => ?_) fun _ => rfl
  split
  next r h => rw [h, Option.elim_some]
  next h => rw [h, Option.elim_none]

/-- A register without an action of its own: its fields are set, and what follows from them follows. -/
theorem State.writeReg_plain (s : State) {r : RegSpec} {a : Nat} (v mask : Nat) (h : s.plain a = true) :
    s.writeReg r a v mask = (s.setFields r a (s.merged r a v mask) mask).afterSet a := by
  have hnone : s.regAction a (s.merged r a v mask) (mask == 2 ^ 64 - 1) = none := by
    rw [← Option.isNone_iff_eq_none, ← Option.isSome_eq_false_iff, regAction_isSome s s a _ 0 _ true,
      Option.isSome_eq_false_iff]
    exact h
  rw [State.writeReg_eq, hnone, Option.getD_none]

section
variable {r : RegSpec} (h : r.WellLaid)
include h

/-- A write of a whole register brings it the value written. -/
theorem State.merged_whole (s : State) (a v : Nat) : s.merged r a v (2 ^ r.width - 1) % 2 ^ r.width = v % 2 ^ r.width := by
  have outside : ((2 ^ 64 - 1) ^^^ (2 ^ r.width - 1)) % 2 ^ r.width = 0 := by
    rcases h.1 with hw | hw <;> rw [hw] <;> decide
  simp only [State.merged, Nat.or_mod_two_pow, Nat.and_mod_two_pow (b := (2 ^ 64 - 1) ^^^ (2 ^ r.width - 1)), outside,
    Nat.and_zero, Nat.or_zero, Nat.and_two_pow_sub_one_eq_mod, Nat.mod_mod]

variable {a n : Nat} (hr : regAt a = some r) (halias : regAlias a = a) (hn : 8 * n = r.width) (ha : a % n = 0)
include hr halias hn ha

theorem State.writeRegs_whole (s : State) (v : Nat) (hon : s.domOn (blockDom a) = true) :
    s.writeRegs a n v = s.writeReg r a (v % 2 ^ r.width) (2 ^ r.width - 1) := by
  rw [State.writeRegs_eq, halias, hon]
  rcases h.1 with hw | hw
  · obtain rfl : n = 4 := by omega
    rw [if_neg (by decide), if_pos (by simp [ha]), State.writeReg32_eq, hr, Option.elim_some, hw, show 2 ^ 32 - 1 = 0xFFFFFFFF from rfl]
  · obtain rfl : n = 8 := by omega
    have hfilter : (regAt a).filter (fun r => r.width == 64) = some r := by rw [hr, Option.filter_some, hw]; rfl
    rw [if_neg (by decide), if_neg (by simp), if_pos (by simp [ha]), hfilter, Option.elim_some, hw]

theorem State.readRegs_whole (s : State) (added : Nat) :
    s.readRegs a n added = s.readReg r a (2 ^ r.width - 1) added := by
  rw [State.readRegs_eq, halias]
  rcases h.1 with hw | hw
  · obtain rfl : n = 4 := by omega
    rw [if_pos (by simp [ha]), State.readReg32_eq, hr, Option.elim_some, hw, show 2 ^ 32 - 1 = 0xFFFFFFFF from rfl]
  · obtain rfl : n = 8 := by omega
    have hfilter : (regAt a).filter (fun r => r.width == 64) = some r := by rw [hr, Option.filter_some, hw]; rfl
    rw [if_neg (by simp), if_pos (by simp [ha]), hfilter, Option.elim_some, hw]

end

/-- The registers whose value stands elsewhere than in their fields, or whose read has an effect of its own. -/
def ReadsElsewhere (a : Nat) : Prop :=
  a ∈ [0x100C0060, 0x100E0000, 0x100E0010, 0x10120000, 0x10080034] ∨
    (0x100D0000 ≤ a ∧ a < 0x100E0000 ∧ a % 0x4000 = 0x10)

theorem State.readReg_fields (s : State) (r : RegSpec) {a : Nat} (mask added : Nat) (h : ¬ReadsElsewhere a) :
    s.readReg r a mask added = (s.clearRC r a mask added, s.regFields r a &&& mask) := by
  unfold ReadsElsewhere at h
  simp only [List.mem_cons, List.not_mem_nil, or_false, not_or] at h
  obtain ⟨⟨h1, h2, h3, h4, h5⟩, h6⟩ := h
  have hfbs : (decide (0x100D0000 ≤ a) && decide (a < 0x100E0000) && a % 0x4000 == 0x10) = false := by
    simpa [and_assoc] using h6
  simp only [State.readReg, State.regValue, h1, h2, h3, h4, h5, hfbs, if_false, decide_false, Bool.false_and, Bool.false_eq_true]

/-! ### What a read in register space can touch -/

/-- The keys in the aligned 8 bytes that hold `a`, and those of TIM_NSF. -/
def readKey (a k : Nat) : Prop := k / 512 = a / 8 ∨ k / 512 = R.TIM_NSF_NS.key / 512

/-- What a read of registers in the aligned 8 bytes that hold `a` leaves alone: every other register but TIM_NSF, and memory. -/
def ReadKeeps (a : Nat) (s t : State) : Prop := Touches (readKey a) s t ∧ t.mem = s.mem

theorem ReadKeeps.refl (a : Nat) (s : State) : ReadKeeps a s s := ⟨Touches.refl s, rfl⟩

theorem ReadKeeps.trans {a : Nat} {s t u : State} (h : ReadKeeps a s t) (k : ReadKeeps a t u) : ReadKeeps a s u :=
  ⟨h.1.trans k.1, k.2.trans h.2⟩

/-- Of a read that answers a state and a value. -/
theorem ReadKeeps.pair {a : Nat} {s t : State} (h : ReadKeeps a s t) (v : Nat) : ReadKeeps a s (t, v).1 := h

theorem readKeeps_clearRC (s : State) {r : RegSpec} (h : r.WellLaid) {a b : Nat} (hb : b / 8 = a / 8) (mask added : Nat) :
    ReadKeeps a s (s.clearRC r b mask added) := by
  obtain ⟨honly, hrest⟩ := s.sets_clearRC r b mask added
  refine ⟨fun f hf => honly f fun k hk e => hf (.inl ?_), (congrArg State.mem hrest :)⟩
  obtain ⟨g, hg, rfl⟩ := List.mem_map.mp hk
  have := h.key_div hg b
  omega

theorem readKeeps_readSec (s : State) (a : Nat) : ReadKeeps a s s.readSec :=
  ⟨((touches_wr s _ (.inr rfl)).trans (touches_wr _ _ (.inr (by decide)))).trans (Touches.regs rfl), rfl⟩

theorem readKeeps_readReg (s : State) {r : RegSpec} (h : r.WellLaid) {a b : Nat} (hb : b / 8 = a / 8) (mask added : Nat) :
    ReadKeeps a s (s.readReg r b mask added).1 := by
  have hc := readKeeps_clearRC s h hb mask added
  unfold State.readReg
  dsimp only
  split
  · exact hc.trans (readKeeps_readSec _ a)
  · exact hc

theorem readKeeps_readReg32 (s : State) {a b : Nat} (hb : b / 8 = a / 8) (added : Nat) :
    ReadKeeps a s (s.readReg32 b added).1 := by
  rw [State.readReg32_eq]
  cases hr : regAt b with
  | some r =>
    rw [Option.elim_some]
    exact readKeeps_readReg s (wellLaid_of_regAt hr) hb _ _
  | none =>
    rw [Option.elim_none]
    cases hr4 : if b % 8 = 4 then regAt (b - 4) else none with
    | some r =>
      obtain ⟨hodd, hr4⟩ := Option.ite_none_right_eq_some.mp hr4
      rw [Option.elim_some]
      by_cases hw : r.width = 64
      · rw [if_pos hw]
        exact (readKeeps_readReg s (wellLaid_of_regAt hr4) (by omega) _ _).pair _
      · rw [if_neg hw]
        exact ReadKeeps.refl a s
    | none =>
      rw [Option.elim_none]
      exact ReadKeeps.refl a s

theorem readKeeps_readRegs (s : State) (a n added : Nat) : ReadKeeps (regAlias a) s (s.readRegs a n added).1 := by
  rw [State.readRegs_eq]
  generalize regAlias a = b
  split
  · exact readKeeps_readReg32 s rfl _
  · split
    next h8 =>
      have hb : b % 8 = 0 := by simpa using (Bool.and_eq_true_iff.mp h8).2
      cases hr : (regAt b).filter fun r => r.width == 64 with
      | some r =>
        rw [Option.elim_some]
        exact readKeeps_readReg s (wellLaid_of_regAt (Option.filter_eq_some_iff.mp hr).1) rfl _ _
      | none =>
        rw [Option.elim_none]
        exact ((readKeeps_readReg32 s rfl _).trans (readKeeps_readReg32 _ (by omega) _)).pair _
    next => exact ReadKeeps.refl b s

/-! ### What follows a write that sets fields -/

/-- Keys at an address other than `a`. -/
def elsewhere (a k : Nat) : Prop := k / 64 ≠ a

/-- A line, at whatever address in the blocks that have registers without an action, is elsewhere. -/
theorem elsewhere_raise (s : State) {a n : Nat} (hn : n < 128) (ha : 0x10080000 ≤ a ∨ 0x10010000 ≤ a ∧ a < 0x10040000) :
    Touches (elsewhere a) s (s.raise n) := by
  refine touches_raise s ?_ fun e he => ?_ <;> simp only [elsewhere] <;> omega

/-- The registers of PHS that a relock or a change of the band can touch: PHS_STAT, PHS_PHASE and PHS_INC. -/
def isWordReg (a : Nat) : Prop := a = 0x10020008 ∨ a = 0x10020038 ∨ a = 0x10020040

theorem elsewhere_track (s : State) {a : Nat} (hw : ¬isWordReg a) (i : Nat) : Touches (elsewhere a) s (s.track i) := by
  unfold isWordReg at hw
  exact Touches.trans (touches_wr s _ (by simp only [elsewhere]; omega)) (Touches.regs rfl)

section
variable (s : State) {a : Nat} (hphs : 0x10020000 ≤ a ∧ a < 0x10030000) (hw : ¬isWordReg a)
include hphs hw

theorem elsewhere_showBand (r : Nat) : Touches (elsewhere a) s (s.showBand r) := by
  unfold isWordReg at hw
  unfold State.showBand
  split
  · exact Touches.refl s
  · exact (touches_wr s _ (by simp only [elsewhere]; omega)).trans (elsewhere_raise _ (by decide) (by omega))

theorem elsewhere_relock (r : Nat) : Touches (elsewhere a) s (s.relock r) := by
  have htrack := elsewhere_track s hw
  unfold isWordReg at hw
  have hslew : ∀ (u : State) (v : Nat), Touches (elsewhere a) u (u.wr R.PHS_STAT_SLEWING v) := fun u v =>
    touches_wr u v (by simp only [elsewhere]; omega)
  have hsnap : ∀ u : State, Touches (elsewhere a) u (u.snap r) := fun u =>
    Touches.trans (touches_wr u _ (by simp only [elsewhere]; omega)) (Touches.regs rfl)
  unfold State.relock
  dsimp only
  generalize s.clampInc (s.refInc r) = i
  refine (htrack i).trans ?_
  generalize s.track i = u
  split
  · exact (hsnap u).trans (hslew _ _)
  · split
    · split
      · exact (hslew u 0).trans (elsewhere_raise _ (by decide) (by omega))
      · exact Touches.refl u
    · exact ((hslew u 1).trans (touches_wr _ _ (by simp only [elsewhere]; omega))).trans (Touches.regs rfl)

theorem elsewhere_rerefer (r : Nat) : Touches (elsewhere a) s (s.rerefer r) := by
  unfold State.rerefer
  split
  · exact (elsewhere_showBand s hphs hw r).trans (elsewhere_relock _ hphs hw r)
  · exact Touches.refl s

theorem elsewhere_reband : Touches (elsewhere a) s s.reband := by
  unfold State.reband
  split
  · exact elsewhere_track s hw _
  · exact elsewhere_rerefer s hphs hw _

end

theorem State.afterSlice_regs (s : State) (n o : Nat) : (s.afterSlice n o).regs = s.regs := by
  unfold State.afterSlice State.settleDo State.resafe State.applySafe State.setSlice
  dsimp only
  split
  · rfl
  · split
    · split <;> rfl
    · rfl

theorem elsewhere_setLink_down (s : State) {a p : Nat} (hp : p < 2) (ha : 0x100C0010 ≤ a ∧ a < 0x100D0000) :
    Touches (elsewhere a) s (s.setLink p false 0) := by
  have hstat : ∀ (u : State) (f : Fld), f.key / 64 < 0x100C0010 → ∀ v, Touches (elsewhere a) u (u.wr f v) := fun u f hf v =>
    touches_wr u v (by simp only [elsewhere]; omega)
  have hlink : (State.linkFld p).key / 64 < 0x100C0010 := by unfold State.linkFld; split <;> decide
  have hhold : (State.holdFld p).key / 64 < 0x100C0010 := by unfold State.holdFld; split <;> decide
  unfold State.setLink
  simp only [Bool.false_eq_true, if_false]
  split
  · exact Touches.refl s
  · refine Touches.trans ?_ (elsewhere_raise _ (by omega) (by omega))
    refine Touches.trans ?_ (Touches.trans (hstat _ R.NET_LASTFAULT_FAULT (by decide) 0x0A06) (Touches.regs rfl))
    exact ((Touches.regs rfl).trans (hstat _ _ hlink 0)).trans (hstat _ _ hhold 0)

theorem State.ringRoom_regs (s : State) (n : Nat) : (s.ringRoom n).regs = s.regs := by
  unfold State.ringRoom
  split <;> rfl

/-- What follows a write of the register at `a` touches none of its fields. -/
theorem elsewhere_afterSet (s : State) (a : Nat) : Touches (elsewhere a) s (s.afterSet a) := by
  unfold State.afterSet
  split
  next hblock =>
    dsimp only
    have hphs : 0x10020000 ≤ a ∧ a < 0x10030000 := by omega
    split
    next ho =>
      have ho : a % 0x10000 = 0x18 ∨ a % 0x10000 = 0x1C := by simpa using ho
      exact elsewhere_reband s hphs (by unfold isWordReg; omega)
    next =>
      split
      next ho => exact elsewhere_rerefer s hphs (by unfold isWordReg; omega) 1
      next =>
        split
        next ho => exact elsewhere_rerefer s hphs (by unfold isWordReg; omega) 2
        next =>
          split
          next ho => exact elsewhere_rerefer s hphs (by unfold isWordReg; omega) 0
          next => exact Touches.refl s
  next => exact Touches.regs (s.afterSlice_regs _ _)
  next hblock =>
    dsimp only
    split
    next ho =>
      have ho : a % 0x10000 = 0x10 ∨ a % 0x10000 = 0x14 := by simpa using ho
      split
      · exact Touches.refl s
      · exact elsewhere_setLink_down s (by omega) (by omega)
    next => exact Touches.refl s
  next hblock =>
    dsimp only
    split
    next hq =>
      have hq : 0x100 ≤ a % 0x10000 % 0x4000 := by
        simp only [Bool.and_eq_true, decide_eq_true_eq] at hq
        omega
      exact touches_wr s 1 (by simp only [elsewhere]; omega)
    next =>
      split
      · exact Touches.regs (s.ringRoom_regs _)
      · exact Touches.refl s
  next =>
    dsimp only
    split
    · exact Touches.regs rfl
    · exact Touches.refl s
  next => exact Touches.refl s

/-! ### Right after reset (R8, R281) -/

/-- Settles O4: every field is unlisted, so it holds its reset value, and every byte is unlisted, so it is 0. -/
theorem resetState : Obligations.ResetState :=
  ⟨State.rd_reset, sget_nil 0, sget_nil 0, rfl, rfl, fun _ => rfl, rfl, rfl, rfl⟩

/-! ### Accesses by a master that is no engine (R14, R22) -/

theorem otherMaster.masterEng_eq {m : BitVec 4} (h : otherMaster m) : masterEng m.toNat = none := by
  unfold otherMaster at h
  unfold masterEng
  rw [if_neg (by simp only [Bool.and_eq_true, decide_eq_true_eq]; omega)]

section
variable {m : BitVec 4} (hm : otherMaster m) (s : State) (a n v : Nat)
include hm

theorem State.busWrite_unmapped (h : regionOf a = .unmapped) : s.busWrite m.toNat a n v = s.unmapAccess m.toNat a true := by
  simp only [State.busWrite, h, State.busUnmapped, hm.masterEng_eq]

theorem State.busRead_unmapped (h : regionOf a = .unmapped) :
    s.busRead m.toNat a n v = { s.unmapAccess m.toNat a false with busData := 0, busPoison := false } := by
  simp only [State.busRead, h, State.busUnmapped, hm.masterEng_eq]

theorem State.busWrite_regs (h : regionOf a = .regs) : s.busWrite m.toNat a n v = s.writeRegs a n v := by
  simp only [State.busWrite, h, hm.masterEng_eq]

end

theorem State.busRead_regs (s : State) (m a n added : Nat) (h : regionOf a = .regs) :
    s.busRead m a n added = { (s.readRegs a n added).1 with busData := (s.readRegs a n added).2, busPoison := false } := by
  simp only [State.busRead, h]

theorem regionOf_of_isSram {a : Nat} (h : isSram a = true) :
    regionOf a = .code ∨ regionOf a = .inst ∨ regionOf a = .retain ∨ regionOf a = .image := by
  cases hr : regionOf a <;> simp [isSram, hr] at h ⊢

/-- An address of the stores or the process image is none of DRAM. -/
theorem isDram_of_isSram {a : Nat} (h : isSram a = true) : isDram a = false := by
  refine Bool.eq_false_iff.mpr fun hd => ?_
  simp only [isDram, Bool.and_eq_true, decide_eq_true_eq] at hd
  have above : ∀ c ≤ 0x100000000, ¬a < c := fun c hc => by omega
  have hr : regionOf a = .dramSup ∨ regionOf a = .dramProg ∨ regionOf a = .spare := by
    unfold regionOf
    iterate 10 rw [if_neg (above _ (by decide))]
    by_cases h1 : a < 0x180000000
    · exact .inl (if_pos h1)
    · rw [if_neg h1]
      by_cases h2 : a < 0x2FFE00000
      · exact .inr (.inl (if_pos h2))
      · rw [if_neg h2]
        exact .inr (.inr (if_pos hd.2))
  rcases hr with hr | hr | hr <;> simp only [isSram, hr, Bool.false_eq_true] at h

section
variable {a : Nat} (h : isSram a = true)
include h

theorem State.logical_of_isSram (s : State) : s.logical a = a := by
  have hs : regionOf a ≠ .spare := fun e => by simp [isSram, e] at h
  rw [State.logical, if_neg hs]

theorem State.aboveFront_of_isSram (s : State) (n : Nat) : s.aboveFront a n = false := by
  rw [State.aboveFront, isDram_of_isSram h, Bool.false_and]

variable (s : State) (n : Nat) (hecc : s.memx.ecc = []) (hon : s.domOn 5 = true)
include hecc hon

/-- A write in the stores stores its bytes, where no codeword is in error (R274). -/
theorem State.busWrite_sram {m : BitVec 4} (hm : otherMaster m) (v : Nat) :
    s.busWrite m.toNat a n v = s.poke a (toLE n v) := by
  have hstore : s.busStore m.toNat a (toLE n v) = s.poke a (toLE n v) := by
    simp only [State.busStore, hm.masterEng_eq, s.masterWrite_clean _ _ _ hecc]
  rcases regionOf_of_isSram h with hr | hr | hr | hr <;>
    simp only [State.busWrite, hr, hon, s.aboveFront_of_isSram h, hstore, Bool.not_true, Bool.false_eq_true, if_false]

/-- A read in the stores gives the bytes, where no codeword is in error (R273). -/
theorem State.busRead_sram (m added : Nat) :
    s.busRead m a n added = { s with busData := readLE s.mem a n, busPoison := false } := by
  have hfetch : s.busFetch m a n = { s with busData := readLE s.mem a n, busPoison := false } := by
    simp only [State.busFetch, s.readChecked_clean _ _ _ hecc, State.peek, s.logical_of_isSram h, Bool.not_false, if_true]
  rcases regionOf_of_isSram h with hr | hr | hr | hr <;>
    simp only [State.busRead, hr, hon, s.aboveFront_of_isSram h, hfetch, Bool.not_true, Bool.false_eq_true, if_false]

end

/-! ### The latch of unmapped accesses (R22) -/

@[simp] theorem State.unmapAccess_mem (s : State) (master a : Nat) (write : Bool) : (s.unmapAccess master a write).mem = s.mem := by
  unfold State.unmapAccess
  split <;> simp

/-- The registers of SYS below SYS_IRQPEND are no part of a rising line. -/
theorem State.rd_raise_below (s : State) (n : Nat) {f : Fld} (h : f.key < 0x10000040 * 64) : (s.raise n).rd f = s.rd f :=
  s.rd_raise (by simp only [ne_eq]; omega) fun e _ => by simp only [ne_eq]; omega

/-- The first unmapped access since UNMAP was clear is latched, with line 1, and counted. -/
theorem State.unmapAccess_first (s : State) (master a : Nat) (write : Bool) (h : s.rd R.SYS_STAT_UNMAP = 0) :
    let t := s.unmapAccess master a write
    t.rd R.SYS_STAT_UNMAP = 1 ∧ t.rd R.SYS_UNMAP_ADDR_ADDR = a % 2 ^ 40 ∧ t.rd R.SYS_UNMAP_INFO_MASTER = master % 2 ^ 4 ∧
      t.rd R.SYS_UNMAP_INFO_COUNT = 1 ∧ t.lineUp 1 = true := by
  unfold State.unmapAccess
  simp only [State.on, h, bne_self_eq_false, Bool.false_eq_true, if_false, State.incSat, State.wrB]
  refine ⟨?_, ?_, ?_, ?_, ?_⟩
  · rw [State.rd_wr_other _ _ (by decide), State.rd_raise_below _ _ (by decide), State.rd_wr_same]
    rfl
  · rw [State.rd_wr_other _ _ (by decide), State.rd_raise_below _ _ (by decide), State.rd_wr_other _ _ (by decide),
      State.rd_wr_other _ _ (by decide), State.rd_wr_other _ _ (by decide), State.rd_wr_other _ _ (by decide), State.rd_wr_same]
  · rw [State.rd_wr_other _ _ (by decide), State.rd_raise_below _ _ (by decide), State.rd_wr_other _ _ (by decide),
      State.rd_wr_other _ _ (by decide), State.rd_wr_other _ _ (by decide), State.rd_wr_same]
  · rw [State.rd_wr_same, State.rd_raise_below _ _ (by decide), State.rd_wr_other _ _ (by decide), State.rd_wr_same]
    rfl
  · rw [State.lineUp_wr _ _ (by decide)]
    exact State.lineUp_raise_same _ (by decide)

/-- A later one is counted and nothing else. -/
theorem State.unmapAccess_again (s : State) (master a : Nat) (write : Bool) (h : s.rd R.SYS_STAT_UNMAP = 1) :
    s.unmapAccess master a write = s.incSat R.SYS_UNMAP_INFO_COUNT := by
  simp [State.unmapAccess, State.on, h]

theorem State.rd_incSat_same (s : State) (f : Fld) : (s.incSat f).rd f = min (2 ^ f.width - 1) (s.rd f + 1) := by
  have := Nat.two_pow_pos f.width
  rw [State.incSat, State.rd_wr_same, Nat.mod_eq_of_lt (by omega)]

/-- What an unmapped access shows: latched once, and counted up to the width of the counter. -/
theorem State.unmapAccess_shows (s : State) (m : BitVec 4) (a : Addr) (write : Bool) :
    let t := s.unmapAccess m.toNat a.toNat write
    t.rd R.SYS_STAT_UNMAP = 1 ∧ t.mem = s.mem ∧
      (s.rd R.SYS_STAT_UNMAP = 0 → t.rd R.SYS_UNMAP_ADDR_ADDR = a.toNat ∧ t.rd R.SYS_UNMAP_INFO_MASTER = m.toNat ∧
        t.rd R.SYS_UNMAP_INFO_COUNT = 1 ∧ t.lineUp 1 = true) ∧
      (s.rd R.SYS_STAT_UNMAP = 1 → t.rd R.SYS_UNMAP_ADDR_ADDR = s.rd R.SYS_UNMAP_ADDR_ADDR ∧
        t.rd R.SYS_UNMAP_INFO_COUNT = min (2 ^ R.SYS_UNMAP_INFO_COUNT.width - 1) (s.rd R.SYS_UNMAP_INFO_COUNT + 1)) := by
  have first := s.unmapAccess_first m.toNat a.toNat write
  have again := s.unmapAccess_again m.toNat a.toNat write
  rw [Nat.mod_eq_of_lt a.isLt, Nat.mod_eq_of_lt m.isLt] at first
  have hbit : s.rd R.SYS_STAT_UNMAP < 2 := s.rd_lt _
  refine ⟨?_, s.unmapAccess_mem _ _ _, fun h => (first h).2, fun h => ?_⟩
  · rcases Nat.lt_succ_iff_lt_or_eq.mp hbit with h | h
    · exact (first (Nat.lt_one_iff.mp h)).1
    · rw [again h, State.incSat, State.rd_wr_other _ _ (by decide), h]
  · rw [again h]
    exact ⟨s.rd_wr_other _ (by decide), s.rd_incSat_same _⟩

/-! ### A write of SYS_STAT (R20, R22) -/

/-- What a 1 written to XTFAIL clears. -/
def State.clearXtfail (s : State) : State := s.wr R.SYS_STAT_XTFAIL 0

/-- What a 1 written to BREACH clears: the latch of breaches but for its address. -/
def State.clearBreach (s : State) : State :=
  (((s.wr R.SYS_STAT_BREACH 0).wr R.SYS_BREACH_INFO_MASTER 0).wr R.SYS_BREACH_INFO_COUNT 0).wr R.SYS_BREACH_INFO_TASK 0x3F

/-- What a 1 written to UNMAP clears: the latch of unmapped accesses but for its address. -/
def State.clearUnmap (s : State) : State :=
  (((s.wr R.SYS_STAT_UNMAP 0).wr R.SYS_UNMAP_INFO_MASTER 0).wr R.SYS_UNMAP_INFO_WRITE 0).wr R.SYS_UNMAP_INFO_COUNT 0

/-- Each flag is cleared where its bit is written as 1. -/
theorem State.clearStat_eq (s : State) (v : Nat) : s.clearStat v =
    let s := if bitOf v 1 then s.clearXtfail else s
    let s := if bitOf v 2 then s.clearBreach else s
    if bitOf v 3 then s.clearUnmap else s := rfl

theorem Sets.wr {fs : List Fld} {s t : State} (h : Sets fs s t) {f : Fld} (hf : f ∈ fs) (v : Nat) : Sets fs s (t.wr f v) :=
  h.trans ((sets_wr t f v).mono (by simpa using hf))

theorem Sets.onlyRegs {fs : List Fld} {s t : State} (h : Sets fs s t) : OnlyRegs fs s t :=
  ⟨h.1, (congrArg State.mem h.2 :), (congrArg State.flash h.2 :)⟩

/-- An operation done or left out sets no field but its own. -/
theorem Sets.ite {fs : List Fld} {s t : State} (h : Sets fs s t) (b : Bool) : Sets fs s (if b then t else s) := by
  split
  · exact h
  · exact Sets.refl fs s

/-- A field that an operation clears, where it may be left out. -/
theorem State.rd_ite_cleared {t : State} {f : Fld} (s : State) (b : Bool) (h : t.rd f = 0) :
    (if b then t else s).rd f = if b then 0 else s.rd f := by
  split
  · exact h
  · rfl

theorem sets_clearXtfail (s : State) : Sets [R.SYS_STAT_XTFAIL] s s.clearXtfail := sets_wr s _ 0

theorem sets_clearBreach (s : State) :
    Sets [R.SYS_STAT_BREACH, R.SYS_BREACH_INFO_MASTER, R.SYS_BREACH_INFO_COUNT, R.SYS_BREACH_INFO_TASK] s s.clearBreach :=
  ((((Sets.refl _ s).wr (by simp) _).wr (by simp) _).wr (by simp) _).wr (by simp) _

theorem sets_clearUnmap (s : State) :
    Sets [R.SYS_STAT_UNMAP, R.SYS_UNMAP_INFO_MASTER, R.SYS_UNMAP_INFO_WRITE, R.SYS_UNMAP_INFO_COUNT] s s.clearUnmap :=
  ((((Sets.refl _ s).wr (by simp) _).wr (by simp) _).wr (by simp) _).wr (by simp) _

theorem State.clearBreach_shows (s : State) :
    s.clearBreach.rd R.SYS_STAT_BREACH = 0 ∧ s.clearBreach.rd R.SYS_BREACH_INFO_COUNT = 0 := by
  unfold State.clearBreach
  constructor
  · rw [State.rd_wr_other _ _ (by decide), State.rd_wr_other _ _ (by decide), State.rd_wr_other _ _ (by decide),
      State.rd_wr_same, Nat.zero_mod]
  · rw [State.rd_wr_other _ _ (by decide), State.rd_wr_same, Nat.zero_mod]

theorem State.clearUnmap_shows (s : State) :
    s.clearUnmap.rd R.SYS_STAT_UNMAP = 0 ∧ s.clearUnmap.rd R.SYS_UNMAP_INFO_COUNT = 0 := by
  unfold State.clearUnmap
  constructor
  · rw [State.rd_wr_other _ _ (by decide), State.rd_wr_other _ _ (by decide), State.rd_wr_other _ _ (by decide),
      State.rd_wr_same, Nat.zero_mod]
  · rw [State.rd_wr_same, Nat.zero_mod]

/-- A write of SYS_STAT: each flag written as 1 is cleared with the count of its latch, the others stay, and nothing else changes
but the latches. -/
theorem State.clearStat_shows (s : State) (v : Nat) :
    let t := s.clearStat v
    t.rd R.SYS_STAT_XTFAIL = (if bitOf v 1 then 0 else s.rd R.SYS_STAT_XTFAIL) ∧
      t.rd R.SYS_STAT_BREACH = (if bitOf v 2 then 0 else s.rd R.SYS_STAT_BREACH) ∧
      t.rd R.SYS_STAT_UNMAP = (if bitOf v 3 then 0 else s.rd R.SYS_STAT_UNMAP) ∧
      t.rd R.SYS_BREACH_INFO_COUNT = (if bitOf v 2 then 0 else s.rd R.SYS_BREACH_INFO_COUNT) ∧
      t.rd R.SYS_UNMAP_INFO_COUNT = (if bitOf v 3 then 0 else s.rd R.SYS_UNMAP_INFO_COUNT) ∧
      OnlyRegs [R.SYS_STAT_XTFAIL, R.SYS_STAT_BREACH, R.SYS_STAT_UNMAP, R.SYS_BREACH_INFO_MASTER, R.SYS_BREACH_INFO_COUNT,
        R.SYS_BREACH_INFO_TASK, R.SYS_UNMAP_INFO_MASTER, R.SYS_UNMAP_INFO_WRITE, R.SYS_UNMAP_INFO_COUNT] s t := by
  rw [State.clearStat_eq]
  intro t
  obtain ⟨x, hx⟩ : ∃ x, x = if bitOf v 1 then s.clearXtfail else s := ⟨_, rfl⟩
  obtain ⟨b, hb⟩ : ∃ b, b = if bitOf v 2 then x.clearBreach else x := ⟨_, rfl⟩
  have ht : t = if bitOf v 3 then b.clearUnmap else b := by rw [hb, hx]
  have sx := hx ▸ (sets_clearXtfail s).ite (bitOf v 1)
  have sb := hb ▸ (sets_clearBreach x).ite (bitOf v 2)
  have st := ht ▸ (sets_clearUnmap b).ite (bitOf v 3)
  refine ⟨?_, ?_, ?_, ?_, ?_, ?_⟩
  · rw [st.1 _ (by decide), sb.1 _ (by decide), hx]
    exact State.rd_ite_cleared _ _ (s.rd_wr_same _ 0)
  · rw [st.1 _ (by decide), hb, State.rd_ite_cleared _ _ x.clearBreach_shows.1, sx.1 _ (by decide)]
  · rw [ht, State.rd_ite_cleared _ _ b.clearUnmap_shows.1, sb.1 _ (by decide), sx.1 _ (by decide)]
  · rw [st.1 _ (by decide), hb, State.rd_ite_cleared _ _ x.clearBreach_shows.2, sx.1 _ (by decide)]
  · rw [ht, State.rd_ite_cleared _ _ b.clearUnmap_shows.2, sb.1 _ (by decide), sx.1 _ (by decide)]
  · exact (((sx.mono (by decide)).trans (sb.mono (by decide))).trans (st.mono (by decide))).onlyRegs

/-! ### The accesses by region -/

theorem exec_registerWrite (m : BitVec 4) (size : BitVec 2) (a : Addr) (v : DWord) (s : State) :
    exec (.registerWrite m size a v) s = .next (s.busWrite m.toNat a.toNat (2 ^ size.toNat) v.toNat) := rfl

theorem exec_readClear (m : BitVec 4) (size : BitVec 2) (a : Addr) (added : DWord) (s : State) :
    exec (.readClear m size a added) s = .next (s.busRead m.toNat a.toNat (2 ^ size.toNat) added.toNat) := rfl

theorem exec_sysStatClear (w : Word) (s : State) : exec (.sysStatClear w) s = .next (s.clearStat w.toNat) := rfl

/-- A register whose domain is off takes no write (R426). -/
theorem State.writeRegs_off (s : State) (a n v : Nat) (h : s.domOn (blockDom (regAlias a)) = false) : s.writeRegs a n v = s := by
  rw [State.writeRegs_eq, h, if_pos (by decide)]

/-- A store of bytes in the stores: the bytes, the bytes beside them, and the register it can touch. -/
theorem State.poke_sram (s : State) {a : Nat} (h : isSram a = true) (n v : Nat) :
    readLE (s.poke a (toLE n v)).mem a n = v % 2 ^ (8 * n) ∧
      (∀ k, k < a ∨ a + n ≤ k → sget 0 (s.poke a (toLE n v)).mem k = sget 0 s.mem k) ∧
      OnlyFields [R.MEM_STAT_DIRTY] s (s.poke a (toLE n v)) := by
  refine ⟨?_, fun k hk => s.poke_frame _ _ ?_, fun f hf => s.rd_poke _ _ (hf _ (by simp))⟩
  · rw [s.poke_mem, s.logical_of_isSram h, Nat.pow_mul]
    exact readLE_writeLE s.mem a n v
  · rwa [s.logical_of_isSram h, length_toLE]

section
variable {a n : Nat} {r : RegSpec} (hr : regAt a = some r) (halias : regAlias a = a) (hn : 8 * n = r.width) (ha : a % n = 0)
include hr halias hn ha

/-- A write of a whole register that has no action of its own (R6). -/
theorem State.writeRegs_plain (s : State) (v : Nat) (hon : s.domOn (blockDom a) = true) (hp : s.plain a = true) :
    ∃ u, s.writeRegs a n v = u.afterSet a ∧ Sets (r.fields.map fun f => f.fld a) s u ∧
      ∀ f ∈ r.fields, (u.afterSet a).rd (f.fld a) =
        f.acc.written (decide (s.mode = 0)) (s.rd (f.fld a)) (v / 2 ^ f.lo % 2 ^ f.width) := by
  have hl := wellLaid_of_regAt hr
  obtain ⟨mask, hmask⟩ : ∃ mask, mask = 2 ^ r.width - 1 := ⟨_, rfl⟩
  obtain ⟨x, hx⟩ : ∃ x, x = s.merged r a (v % 2 ^ r.width) mask := ⟨_, rfl⟩
  have hmod : x % 2 ^ r.width = v % 2 ^ r.width := by
    rw [hx, hmask, s.merged_whole hl, Nat.mod_mod]
  refine ⟨s.setFields r a x mask, ?_, ?_, fun f hf => ?_⟩
  · rw [s.writeRegs_whole hl hr halias hn ha v hon, s.writeReg_plain _ _ hp, ← hmask, ← hx]
  · rw [s.setFields_eq]
    exact sets_foldl (fieldStep_setField a x mask) _ s
  · have hin := (hl.2.1 f hf).2
    have hcut : (x &&& mask) / 2 ^ f.lo % 2 ^ f.width = x / 2 ^ f.lo % 2 ^ f.width := by
      rw [hmask, Nat.and_two_pow_sub_one_eq_mod, slice_mod_two_pow _ hin]
    have hval : x / 2 ^ f.lo % 2 ^ f.width = v / 2 ^ f.lo % 2 ^ f.width := by
      rw [← slice_mod_two_pow x hin, hmod, slice_mod_two_pow v hin]
    rw [elsewhere_afterSet _ a _ (not_not_intro (hl.key_div hf a)), s.rd_setFields hr hf hcut, hval]

/-- A read of a whole register whose value stands in its fields (R6, R7, R9). -/
theorem State.readRegs_fields (s : State) (added : Nat) (hp : ¬ReadsElsewhere a) :
    (∀ f ∈ r.fields,
      (s.readRegs a n added).2 / 2 ^ f.lo % 2 ^ f.width = (if f.acc = .WO then 0 else s.rd (f.fld a)) ∧
      (s.readRegs a n added).1.rd (f.fld a) = if f.acc = .RC then added / 2 ^ f.lo % 2 ^ f.width else s.rd (f.fld a)) ∧
    ∀ i, (∀ f ∈ r.fields, i < f.lo ∨ f.lo + f.width ≤ i) → bitOf (s.readRegs a n added).2 i = false := by
  have hl := wellLaid_of_regAt hr
  rw [s.readRegs_whole hl hr halias hn ha, s.readReg_fields r _ _ hp, Nat.and_two_pow_sub_one_eq_mod,
    Nat.mod_eq_of_lt (s.regFields_lt hl a)]
  refine ⟨fun f hf => ⟨s.slice_regFields hl a hf, s.rd_clearRC hl a _ _ hf ?_⟩, fun i hi => ?_⟩
  · have := hl.2.1 f hf
    rw [bitOf_eq_testBit, Nat.testBit_two_pow_sub_one, decide_eq_true_eq]
    omega
  · rw [bitOf_eq_testBit, s.testBit_regFields_reserved hl a hi]

end

/-- Settles O36: region by region of the address space; in register space, a whole register is a fold over its fields, which lie
apart, and what follows a write touches no field of the register written. -/
theorem busAccess : Obligations.BusAccess := by
  intro m size a v s n
  refine ⟨fun hm hreg c hc => ?_, fun hm hecc hon hsram => ⟨?_, ?_⟩, fun hm hreg => ⟨fun hoff => ?_, ?_⟩,
    fun r hm hreg halias hr hn ha => ⟨fun hon hp => ?_, fun hlist hfbs => ?_⟩, fun w => ?_⟩
  · rcases List.mem_cons.mp hc with rfl | hc
    · refine ⟨_, exec_registerWrite m size a v s, ?_⟩
      rw [s.busWrite_unmapped hm _ _ _ hreg]
      exact s.unmapAccess_shows m a true
    · obtain rfl := List.mem_singleton.mp hc
      refine ⟨_, exec_readClear m size a v s, ?_⟩
      rw [s.busRead_unmapped hm _ _ _ hreg]
      exact s.unmapAccess_shows m a false
  · refine ⟨_, exec_registerWrite m size a v s, ?_⟩
    rw [s.busWrite_sram hsram _ hecc hon hm]
    exact s.poke_sram hsram _ _
  · exact ⟨_, exec_readClear m size a v s, s.busRead_sram hsram _ hecc hon _ _⟩
  · rw [exec_registerWrite, s.busWrite_regs hm _ _ _ hreg, s.writeRegs_off _ _ _ hoff]
  · refine ⟨_, exec_readClear m size a v s, ?_⟩
    obtain ⟨hkeep, hmem⟩ := readKeeps_readRegs s a.toNat n v.toNat
    rw [s.busRead_regs _ _ _ _ hreg]
    exact ⟨rfl, hmem, fun f h1 h2 => hkeep f (not_or.mpr ⟨h1, h2⟩)⟩
  · obtain ⟨u, hu, hsets, hrd⟩ := s.writeRegs_plain hr halias hn ha v.toNat hon hp
    refine ⟨_, exec_registerWrite m size a v s, ?_⟩
    rw [s.busWrite_regs hm _ _ _ hreg, hu]
    refine ⟨fun f hf => ?_, fun hafter => ?_⟩
    · rw [hrd f hf]
      cases f.acc <;> simp [Acc.written]
    · rw [hafter u]
      exact hsets
  · refine ⟨_, exec_readClear m size a v s, ?_⟩
    rw [s.busRead_regs _ _ _ _ hreg]
    exact s.readRegs_fields hr halias hn ha v.toNat (not_or.mpr ⟨hlist, hfbs⟩)
  · refine ⟨_, exec_sysStatClear w s, ?_⟩
    simp only [getLsbD_eq_bitOf]
    exact s.clearStat_shows w.toNat

end Sys2Proof.Machine
end

section
/-! SUPPORT. The controller mode (04_cycle_and_modes.md). The module has lines 0 to 127 (R28), 64 to a register of SYS_IRQPEND. The
model computes that register's address from the line's number alone, so a line far past the last one addresses TSK_STAT; the completion
of a transmission raises line 82 plus the ring that the frame at the MAC names, a number that the state does not bound. -/

namespace Sys2Proof.Machine

/-- The line whose place in SYS_IRQPEND, run on past its two registers, is bit 0 of TSK_STAT. -/
def strayLine : Nat := 64 * 24570

theorem strayLine_key : (R.SYS_IRQPEND_PEND (strayLine / 64)).key = R.TSK_STAT_MODE.key := rfl

/-- Two fields of one key that reset alike hold one number, each cut to its own width. -/
theorem State.rd_of_key_eq (s : State) {f g : Fld} (hk : f.key = g.key) (hr : f.reset = g.reset) (hw : f.width ≤ g.width) :
    s.rd f = s.rd g % 2 ^ f.width := by
  rw [State.rd, State.rd, hk, hr, Nat.mod_mod_of_dvd _ (Nat.pow_dvd_pow 2 hw)]

theorem State.mode_raiseEng (s : State) (e n : Nat) : (s.raiseEng e n).mode = s.mode :=
  s.rd_raiseEng (by simp only [ne_eq]; omega)

/-- Raising the stray line sets the low bit of MODE. -/
theorem State.mode_raise_strayLine (s : State) : (s.raise strayLine).mode = s.mode ||| 1 := by
  have shares (u : State) : u.mode = u.rd (R.SYS_IRQPEND_PEND (strayLine / 64)) % 2 ^ 2 :=
    u.rd_of_key_eq strayLine_key rfl (by decide)
  unfold State.raise
  rw [State.mode_raiseEng, State.mode_raiseEng, State.mode_raiseEng, State.mode_raiseEng, shares, State.setBit, State.rd_wr_same,
    Nat.mod_mod_of_dvd _ (by decide), Nat.or_mod_two_pow, ← shares]
  rfl

/-- A frame without descriptors whose ring, counted from line 82, has the stray line. -/
def strayFrame : TxFrame :=
  { ring := strayLine - 82, first := 0, count := 0, ports := 0, tsreq := false, prio := 0, bytes := [], poison := true }

/-- HOLD, with MEM and NET on, a stray frame at the MAC and its completion at the front of the queue. -/
def strayTx : State :=
  { (State.reset.wr R.PWR_DOMSTAT_ON (2 ^ 5 + 2 ^ 7)).wr R.TSK_STAT_MODE 2 with
    net := { tx := some strayFrame }
    pending := [.txFrameComplete { underrun := false, full := 0 } 0] }

/-- Where no ring is live, the MAC takes no frame. -/
theorem examineAll_of_not_live {s : State} : ∀ (k : Nat) {rs : List Nat}, (∀ r ∈ rs, s.ringLive r = false) → examineAll k rs s = s
  | 0, _, _ => rfl
  | _ + 1, [], _ => rfl
  | k + 1, r :: rs, h => by
    have idle : s.examine r = (s, false) := by simp [State.examine, h r (by simp)]
    rw [examineAll, idle]
    split
    · rfl
    · exact examineAll_of_not_live k fun q hq => h q (by simp [hq])

theorem State.examineRings_of_not_live {s : State} (h : ∀ r < 4, s.ringLive r = false) : s.examineRings = s := by
  unfold State.examineRings
  split
  · exact examineAll_of_not_live _ (by simp [h])
  · rfl

/-- The line of a completed transmission can be the stray one. -/
theorem State.mode_txDone_strayFrame (s : State) (each last sec ns : Nat) :
    (s.txDone strayFrame.ring [] each last sec ns).mode = s.mode ||| 1 := by
  have head : ∀ v, (s.wr (R.NET_RING_HEAD_HEAD strayFrame.ring) v).mode = s.mode := fun v => s.rd_wr_other v (by decide)
  exact (State.mode_raise_strayLine _).trans (congrArg (· ||| 1) (head _))

/-- The stray frame counted, and gone from the MAC. -/
def State.strayGone (s : State) : State :=
  let u := s.countFrame 2 20 (withBadFcs [])
  { u with net := { u.net with tx := none } }

theorem State.txComplete_strayFrame (s : State) (full age : Nat) :
    s.txComplete strayFrame false full age = (s.strayGone.txDone strayFrame.ring [] 1 8 0 0).examineRings := by
  simp [State.txComplete, State.fromMac, State.txDescs, State.strayGone, strayFrame, b2n]

/-- `strayTx` as its command finds it. -/
def strayTxBegun : State := ({ strayTx with pending := [] } : State).netBegin

theorem step_strayTx : step strayTx = .next (strayTxBegun.txComplete strayFrame false 0 0) := by
  have on : (!strayTxBegun.domOn 7 || !strayTxBegun.domOn 5) = false := by decide
  have run : step strayTx = if !strayTxBegun.domOn 7 || !strayTxBegun.domOn 5 then .next strayTxBegun
      else .next (strayTxBegun.txComplete strayFrame false 0 0) := rfl
  rw [run, on]
  rfl

/-- Refutes O60: with `strayFrame` at the MAC the line of the completed transmission is bit 0 of MODE, and HOLD, 2, becomes 3. The
obligation asks this of every state, and the model itself brings no frame to the MAC from a ring above 3 (`State.examineRings`). -/
theorem not_everyStepKeepsLegalMode : ¬ Obligations.EveryStepKeepsLegalMode := by
  unfold Obligations.EveryStepKeepsLegalMode
  intro h
  have hold : strayTxBegun.strayGone.mode = 2 := by decide
  have idle : ∀ r < 4, (strayTxBegun.strayGone.txDone strayFrame.ring [] 1 8 0 0).ringLive r = false := by decide
  have legal := h strayTx _ (by decide) step_strayTx
  rw [State.txComplete_strayFrame, State.examineRings_of_not_live idle, State.legalMode, State.mode_txDone_strayFrame, hold] at legal
  exact absurd legal (by decide)

end Sys2Proof.Machine
end
